-- ==== Sys2Proof/Word.lean ====
section
/-! DEFINITION. The word types of the model: bytes, 64-bit words and the index types of registers and handles. -/

namespace Sys2Proof

/-- One byte of memory. -/
abbrev Byte := BitVec 8

/-- One 64-bit word: a general register, an instruction word, a register of a register block. -/
abbrev Word := BitVec 64

/-- A legend register (R29). -/
abbrev Leg := BitVec 256

/-- A core of the part: its die and its number in the die (R14). -/
structure CoreId where
  die : Fin 8
  core : Fin 16
deriving DecidableEq, Repr

/-- The package core number `16·d + c` (R14). -/
def CoreId.pkg (c : CoreId) : Nat := 16 * c.die.val + c.core.val

end Sys2Proof
end

