-- ==== Sys2Proof/Config.lean ====
section
/-! DEFINITION. What the spec leaves open: constants with no body, of which nothing can be proved but that they are fixed. -/

namespace Sys2Proof

/-- The activation functions ACT 4 to 7 on FP32 bits: each a fixed function that the spec places within 2 ulps of GELU (tanh form), SiLU, sigmoid or tanh (R152). -/
opaque Config.act : Nat → BitVec 32 → BitVec 32

/-- `v.exp` on FP32 bits: a fixed function within 2 ulps of the exponential (R354). -/
opaque Config.vExp : BitVec 32 → BitVec 32

/-- `v.rsqrt` on the FP32 bits of a positive finite input: a fixed function within 2 ulps of 1/√x (R354). -/
opaque Config.vRsqrt : BitVec 32 → BitVec 32

/-- A free word: what an instruction leaves where the spec states no value, by the counter `State.fresh`. -/
opaque Config.freeWord : Nat → Word

/-- A free byte: what a line written under a destroyed key reads as (R470), by the counter and the address. -/
opaque Config.freeByte : Nat → Nat → Byte

/-- A byte that stands at an address outside the part, by the counter and the device address: what a write of part of it leaves unchanged there (R56). -/
opaque Config.standing : Nat → Nat → Byte

/-- The bits of a Rail link key, by the name of the key and the direction: keys are secrets of the security engine (R402, R456). -/
opaque Config.railKey : Nat → Bool → BitVec 256

/-- The 32-bit constant of the IVs of a link and direction, which derives from the port's session (R400, R402). -/
opaque Config.railIv : Nat → Bool → BitVec 32

/-- Byte `i` of the 240 bytes that carry a group message, to which the spec gives no layout (R391): from the numbers that the message holds. -/
opaque Config.groupByte : List Nat → Nat → Byte

/-- ECDSA P-384 verification with SHA-384: public key, message, signature (R466). -/
opaque Config.ecVerify : List Byte → List Byte → List Byte → Bool

/-- ML-DSA-87 verification with an empty context: public key, message, signature (R466). -/
opaque Config.mlVerify : List Byte → List Byte → List Byte → Bool

/-- HKDF-SHA-384 of an input under one of the labels of R459, to which the spec gives no bytes: 0 DeviceID, 1 CDI, 2 locked Alias, 3 debug Alias, 4 the key of the owner record's HMAC (R468). -/
opaque Config.hkdf : Nat → List Byte → List Byte

/-- ECDSA P-384 signature by an Alias key: the seed of the key, message (R459, R465). -/
opaque Config.ecSign : List Byte → List Byte → List Byte

/-- ML-DSA-87 signature by an Alias key (R459, R465). -/
opaque Config.mlSign : List Byte → List Byte → List Byte

/-- The certificate chain of a slot: the DeviceID certificates of the provisioning area, DeviceID, Alias key, whether the certificates carry the debug extension, slot (R459, R464). -/
opaque Config.chain : List Byte → List Byte → List Byte → Bool → Nat → List Byte

/-- The controller's estimate of the power of a core at a step, in milliwatts: a fixed function of activity counters that the spec does not list (R491), by the counter `State.fresh`, the core and the step. -/
opaque Config.corePower : Nat → Nat → Nat → Nat

/-- What the part answers to an SPDM exchange whose bytes the spec does not lay out: request kind and transcript input (R464). -/
opaque Config.spdmAnswer : Nat → List Byte → List Byte

/-- The bytes that the owner and the debug keys sign (R468, R475), to which the spec gives no layout: the kind of request and its fields. -/
opaque Config.signedRequest : Nat → List Byte → List Byte

/-- The 64-byte TDISP lock record (R463, R472), to which the spec gives no layout: from PARTn_MEM, the BAR2 size, AP_BASE and the TDISP nonce. -/
opaque Config.lockRecord : Word → Nat → Nat → List Byte → List Byte

/-- A 32-byte output of the CTR_DRBG (R469): a nonce, by the counter `State.fresh`. -/
opaque Config.nonce : Nat → List Byte

/-- The SVN in a firmware component (R458); the spec gives the header no layout. -/
opaque Config.fwSvn : List Byte → Nat

/-- The version in a firmware component's signed header (ID_FWVER). -/
opaque Config.fwVersion : List Byte → BitVec 32

/-- The gazetteer entries of a part (R403) that the lead's firmware works out in a re-map, to which the spec gives no procedure (R427): from the part, the excluded parts and the entries before. -/
opaque Config.reroute : Nat → List Nat → List (Fin 4096 × BitVec 9) → List (Fin 4096 × BitVec 9)

/-- The multicast trees of a part (R405) that the lead's firmware works out in a re-map (R427). -/
opaque Config.regroup : Nat → List Nat → List (Fin 256 × BitVec 73) → List (Fin 256 × BitVec 73)

/-- The digest of the boot ROM's contents (R461). -/
opaque Config.romDigest : List Byte

/-- The scale digest of a job, by the number of jobs accepted so far: the job supplies it by means that the spec does not lay out (R429). -/
opaque Config.scaleDigest : Nat → List Byte

end Sys2Proof
end

