-- ==== Sys2Proof/Machine/Bits.lean ====
section
/-! DEFINITION. Bit fields, little-endian bytes and rounding helpers on naturals. -/

namespace Sys2Proof.Machine

/-- Bits `[lo + k − 1 : lo]` of a word. -/
def fld {n : Nat} (w : BitVec n) (lo k : Nat) : BitVec k := w.extractLsb' lo k

/-- The same bits as a natural number. -/
def fldN {n : Nat} (w : BitVec n) (lo k : Nat) : Nat := (w.extractLsb' lo k).toNat

/-- The same bits read as two's complement. -/
def fldI {n : Nat} (w : BitVec n) (lo k : Nat) : Int := (w.extractLsb' lo k).toInt

/-- Bit `i` of a word. -/
def bit {n : Nat} (w : BitVec n) (i : Nat) : Bool := w.getLsbD i

/-- `w` with bits `[lo + k − 1 : lo]` replaced by the low `k` bits of `v`. -/
def setFld {n : Nat} (w : BitVec n) (lo k : Nat) (v : Nat) : BitVec n :=
  let mask : BitVec n := (BitVec.ofNat n (2 ^ k - 1)) <<< lo
  (w &&& ~~~mask) ||| ((BitVec.ofNat n (v % 2 ^ k)) <<< lo)

/-- `w` with bit `i` set to `b`. -/
def setBit {n : Nat} (w : BitVec n) (i : Nat) (b : Bool) : BitVec n := setFld w i 1 b.toNat

/-- A word that holds the natural `v` at bit `lo`. -/
def at' (v lo : Nat) : Word := BitVec.ofNat 64 (v <<< lo)

/-- The same, kept to a field of `k` bits. -/
def put (v lo k : Nat) : Word := BitVec.ofNat 64 ((v % 2 ^ k) <<< lo)

/-- The `n` little-endian bytes of `v` (R7). -/
def leBytes : Nat → Nat → List Byte
  | 0, _ => []
  | n + 1, v => BitVec.ofNat 8 v :: leBytes n (v / 256)

/-- The number that a list of little-endian bytes spells (R7). -/
def ofLE : List Byte → Nat
  | [] => 0
  | b :: bs => b.toNat + 256 * ofLE bs

/-- The `n` big-endian bytes of `v`. -/
def beBytes (n v : Nat) : List Byte := (leBytes n v).reverse

/-- The number that big-endian bytes spell. -/
def ofBE (bs : List Byte) : Nat := ofLE bs.reverse

/-- `a / b` rounded up. -/
def ceilDiv (a b : Nat) : Nat := (a + b - 1) / b

/-- `a` rounded up to a multiple of `b`. -/
def alignUp (a b : Nat) : Nat := ceilDiv a b * b

/-- `v` held to at most `2^w − 1`: a saturating counter of `w` bits. -/
def satN (w v : Nat) : Nat := min v (2 ^ w - 1)

/-- A counter of `w` bits raised by `k`, saturating. -/
def satAdd {w : Nat} (v : BitVec w) (k : Nat) : BitVec w := BitVec.ofNat w (satN w (v.toNat + k))

/-- The serial comparison of R304: `v` is at least `n` modulo `2^32`. -/
def serGe (v n : BitVec 32) : Bool := decide ((v - n).toNat < 2 ^ 31)

/-- Read a vector at an index. -/
def vget {α : Type} {n : Nat} (v : Vector α n) (i : Fin n) : α := v[i.val]

/-- Write a vector at an index. -/
def vset {α : Type} {n : Nat} (v : Vector α n) (i : Fin n) (x : α) : Vector α n := v.set i.val x i.isLt

/-- Change one entry of a vector. -/
def vmod {α : Type} {n : Nat} (v : Vector α n) (i : Fin n) (f : α → α) : Vector α n := vset v i (f (vget v i))

/-- All indices below `n`, in ascending order. -/
def fins (n : Nat) : List (Fin n) := List.finRange n

/-- Read a vector at a natural index; out of range reads `d`. -/
def vgetN {α : Type} {n : Nat} (v : Vector α n) (i : Nat) (d : α) : α := if h : i < n then v[i] else d

/-- Change an entry at a natural index; out of range changes nothing. -/
def vmodN {α : Type} {n : Nat} (v : Vector α n) (i : Nat) (f : α → α) : Vector α n :=
  if h : i < n then vmod v ⟨i, h⟩ f else v

/-- Insert into an ascending list without repeats. -/
def insNat (x : Nat) : List Nat → List Nat
  | [] => [x]
  | y :: ys => if x < y then x :: y :: ys else if x = y then y :: ys else y :: insNat x ys

end Sys2Proof.Machine
end

