-- ==== Sys2Proof/Machine/Num.lean ====
section
/-! DEFINITION. The number formats of chapter 3: exact values, decoding, rounding, conversion, block scales and stochastic draws (R55 to R87). -/

namespace Sys2Proof.Machine

/-- An exact value: a NaN, a signed infinity, or `(−1)^neg · m · 2^e`. -/
inductive Val where
  | nan
  | inf (neg : Bool)
  | fin (neg : Bool) (m : Nat) (e : Int)
deriving DecidableEq, Repr

/-- The fourteen formats of R55. -/
inductive Fmt where
  | int8 | uint8 | int4 | uint4 | int2 | tern | e4m3 | e5m2 | e2m3 | e3m2 | e2m1 | bf16 | fp16 | fp32
deriving DecidableEq, Repr

/-- The classes of R55: the three array classes and the wide formats. -/
inductive Cls where
  | c8 | c4 | c2 | wide
deriving DecidableEq, Repr

/-- The format of a 4-bit code; 0xE and 0xF are reserved (R55). -/
def Fmt.ofCode : Nat → Option Fmt
  | 0 => some .int8 | 1 => some .uint8 | 2 => some .int4 | 3 => some .uint4 | 4 => some .int2 | 5 => some .tern
  | 6 => some .e4m3 | 7 => some .e5m2 | 8 => some .e2m3 | 9 => some .e3m2 | 10 => some .e2m1
  | 11 => some .bf16 | 12 => some .fp16 | 13 => some .fp32 | _ => none

/-- Element width in bits (R55). -/
def Fmt.bits : Fmt → Nat
  | .int8 | .uint8 | .e4m3 | .e5m2 => 8
  | .int4 | .uint4 | .e2m1 => 4
  | .int2 | .tern => 2
  | .e2m3 | .e3m2 => 6
  | .bf16 | .fp16 => 16
  | .fp32 => 32

/-- The class of a format (R55). -/
def Fmt.cls : Fmt → Cls
  | .int8 | .uint8 | .e4m3 | .e5m2 | .e2m3 | .e3m2 => .c8
  | .int4 | .uint4 | .e2m1 => .c4
  | .int2 | .tern => .c2
  | .bf16 | .fp16 | .fp32 => .wide

/-- Whether a format is one of the integer formats of R58. -/
def Fmt.isInt : Fmt → Bool
  | .int8 | .uint8 | .int4 | .uint4 | .int2 | .tern => true
  | _ => false

/-- Exponent bits, mantissa bits, bias and the code of the largest finite magnitude (R60). -/
structure FpSpec where
  eb : Nat
  mb : Nat
  bias : Nat
  maxCode : Nat
deriving DecidableEq, Repr

/-- The floating-point layouts of R60. -/
def Fmt.fp : Fmt → Option FpSpec
  | .e4m3 => some ⟨4, 3, 7, 0x7E⟩
  | .e5m2 => some ⟨5, 2, 15, 0x7B⟩
  | .e2m3 => some ⟨2, 3, 1, 0x1F⟩
  | .e3m2 => some ⟨3, 2, 3, 0x1F⟩
  | .e2m1 => some ⟨2, 1, 1, 0x7⟩
  | .bf16 => some ⟨8, 7, 127, 0x7F7F⟩
  | .fp16 => some ⟨5, 10, 15, 0x7BFF⟩
  | .fp32 => some ⟨8, 23, 127, 0x7F7FFFFF⟩
  | _ => none

/-- The least and greatest value of an integer format (R58). -/
def Fmt.range : Fmt → Int × Int
  | .int8 => (-128, 127)
  | .uint8 => (0, 255)
  | .int4 => (-8, 7)
  | .uint4 => (0, 15)
  | .int2 => (-2, 1)
  | .tern => (-1, 1)
  | _ => (0, 0)

/-- The canonical NaN of R63; 0 where the format has none. -/
def Fmt.nanCode : Fmt → Nat
  | .e4m3 => 0x7F
  | .e5m2 => 0x7E
  | .bf16 => 0x7FC0
  | .fp16 => 0x7E00
  | .fp32 => 0x7FC00000
  | _ => 0

/-- Whether the format encodes infinities and NaN in full (first column of R76). -/
def Fmt.hasInf : Fmt → Bool
  | .e5m2 | .bf16 | .fp16 | .fp32 => true
  | _ => false

/-- `emax` of R84. -/
def Fmt.emax : Fmt → Int
  | .e4m3 => 8 | .e5m2 => 15 | .e2m3 => 2 | .e3m2 => 4 | .e2m1 => 2
  | .int8 => 6 | .uint8 => 7 | .int4 => 2 | .uint4 => 3 | .int2 => 0 | .tern => 0
  | _ => 0

/-- The TERN code that R59 replaces by 0 and counts. -/
def Fmt.badTern (f : Fmt) (code : Nat) : Bool := decide (f = .tern ∧ code = 2)

/-- The integer that a two's-complement code of `w` bits stands for. -/
def twos (w code : Nat) : Int := if code < 2 ^ (w - 1) then (code : Int) else (code : Int) - (2 ^ w : Nat)

/-- An exact integer as a value. -/
def Val.ofInt (v : Int) : Val := .fin (decide (v < 0)) v.natAbs 0

/-- A finite element of a floating-point layout, by its sign and magnitude code (R60). -/
def decodeFp (sp : FpSpec) (neg : Bool) (code : Nat) : Val :=
  let e := code / 2 ^ sp.mb
  let m := code % 2 ^ sp.mb
  if e = 0 then .fin neg m (1 - (sp.bias : Int) - sp.mb)
  else .fin neg (2 ^ sp.mb + m) ((e : Int) - sp.bias - sp.mb)

/-- The value of an element code (R58 to R61, and R59 for TERN 0b10). -/
def Fmt.decode (f : Fmt) (code : Nat) : Val :=
  match f.fp with
  | some sp =>
    let w := sp.eb + sp.mb
    let neg := decide (code / 2 ^ w % 2 = 1)
    let mag := code % 2 ^ w
    match f with
    | .e4m3 => if mag = 0x7F then .nan else decodeFp sp neg mag
    | .e5m2 | .bf16 | .fp16 | .fp32 =>
      let top := (2 ^ sp.eb - 1) * 2 ^ sp.mb
      if mag = top then .inf neg else if mag > top then .nan else decodeFp sp neg mag
    | _ => decodeFp sp neg mag
  | none =>
    match f with
    | .uint8 | .uint4 => .ofInt code
    | .tern => if code = 2 then .ofInt 0 else .ofInt (twos 2 code)
    | _ => .ofInt (twos f.bits code)

/-! ### Exact operations -/

/-- Whether a value is finite. -/
def Val.isFin : Val → Bool
  | .fin _ _ _ => true
  | _ => false

/-- Whether a value is a zero. -/
def Val.isZero : Val → Bool
  | .fin _ m _ => m == 0
  | _ => false

/-- The sign of a value; NaN reads false. -/
def Val.sign : Val → Bool
  | .nan => false
  | .inf n => n
  | .fin n _ _ => n

/-- Negation. -/
def Val.neg : Val → Val
  | .nan => .nan
  | .inf n => .inf (!n)
  | .fin n m e => .fin (!n) m e

/-- Magnitude. -/
def Val.abs : Val → Val
  | .nan => .nan
  | .inf _ => .inf false
  | .fin _ m e => .fin false m e

/-- A signed integer mantissa. -/
def smant (neg : Bool) (m : Nat) : Int := if neg then -(m : Int) else (m : Int)

/-- The exact product; infinity times zero is NaN (R70, R90). -/
def Val.mul : Val → Val → Val
  | .nan, _ => .nan
  | _, .nan => .nan
  | .inf a, .inf b => .inf (a != b)
  | .inf a, .fin b m _ => if m = 0 then .nan else .inf (a != b)
  | .fin a m _, .inf b => if m = 0 then .nan else .inf (a != b)
  | .fin a m e, .fin b n f => .fin (a != b) (m * n) (e + f)

/-- The exact sum, with the IEEE 754 classes and signs of zero. -/
def Val.add : Val → Val → Val
  | .nan, _ => .nan
  | _, .nan => .nan
  | .inf a, .inf b => if a = b then .inf a else .nan
  | .inf a, _ => .inf a
  | _, .inf b => .inf b
  | .fin a m e, .fin b n f =>
    let q := min e f
    let x := smant a (m <<< (e - q).toNat) + smant b (n <<< (f - q).toNat)
    if x = 0 then .fin (a && b) 0 q else .fin (decide (x < 0)) x.natAbs q

/-- The exact difference. -/
def Val.sub (a b : Val) : Val := a.add b.neg

/-- Multiplication by a power of two. -/
def Val.scale (k : Int) : Val → Val
  | .fin n m e => .fin n m (e + k)
  | v => v

/-- `a < b` for values that are not NaN. -/
def Val.lt : Val → Val → Bool
  | .nan, _ => false
  | _, .nan => false
  | .inf a, .inf b => a && !b
  | .inf a, _ => a
  | _, .inf b => !b
  | .fin a m e, .fin b n f =>
    let q := min e f
    decide (smant a (m <<< (e - q).toNat) < smant b (n <<< (f - q).toNat))

/-- `a ≤ b` for values that are not NaN. -/
def Val.le (a b : Val) : Bool :=
  match a, b with
  | .nan, _ => false
  | _, .nan => false
  | _, _ => !(b.lt a)

/-- `floor(log2 |x|)` of a finite value that is not zero. -/
def floorLog2 (m : Nat) (e : Int) : Int := (Nat.log2 m : Int) + e

/-! ### Rounding (R74) -/

/-- The rounding modes of R74, and the upward rounding that R117 and `v.norm2` use. -/
inductive RMode where
  | rne | rtz | sr (draw : Nat) | up
deriving DecidableEq, Repr

/-- `lo`, remainder and divisor of `m · 2^e` on the grid of step `2^q`. -/
def gridSplit (m : Nat) (e q : Int) : Nat × Nat × Nat :=
  if q ≤ e then (m <<< (e - q).toNat, 0, 1)
  else let d := 2 ^ (q - e).toNat; (m / d, m % d, d)

/-- The rounded multiple of `2^q`; `up` rounds toward +∞ and is used with the sign given. -/
def roundGrid (rm : RMode) (neg : Bool) (m : Nat) (e q : Int) : Nat :=
  let (lo, rem, den) := gridSplit m e q
  match rm with
  | .rne => if 2 * rem < den then lo else if den < 2 * rem then lo + 1 else if lo % 2 = 0 then lo else lo + 1
  | .rtz => lo
  | .sr draw => if rem * 65536 / den + draw ≥ 65536 then lo + 1 else lo
  | .up => if rem = 0 ∨ neg then lo else lo + 1

/-- The grid exponent of a value in a floating-point layout: precision `mb + 1`, least exponent `1 − bias`. -/
def gridExp (sp : FpSpec) (m : Nat) (e : Int) : Int :=
  if m = 0 then 1 - (sp.bias : Int) - sp.mb
  else max (floorLog2 m e - sp.mb) (1 - (sp.bias : Int) - sp.mb)

/-- The magnitude code, on an unbounded exponent range, of a finite magnitude rounded to a layout. -/
def fpCode (sp : FpSpec) (rm : RMode) (neg : Bool) (m : Nat) (e : Int) : Nat :=
  let q := gridExp sp m e
  let n := roundGrid rm neg m e q
  (q + sp.mb + sp.bias).toNat * 2 ^ sp.mb + n - 2 ^ sp.mb

/-- The result of a conversion: the element code, whether it counts a saturation (R81), and whether OVF = 1 wrote an infinity (R82). -/
structure Conv where
  code : Nat
  sat : Bool
  madeInf : Bool
deriving DecidableEq, Repr

/-- The code of an integer in `w` bits of two's complement or unsigned. -/
def intCode (w : Nat) (v : Int) : Nat := (v % (2 ^ w : Nat)).toNat

/-- Conversion of an exact value to a format under RMODE and OVF (R74 to R79). -/
def convert (f : Fmt) (rm : RMode) (ovf : Bool) (x : Val) : Conv :=
  match f.fp with
  | some sp =>
    let sgn (neg : Bool) : Nat := if neg then 2 ^ (sp.eb + sp.mb) else 0
    let infC : Nat := (2 ^ sp.eb - 1) * 2 ^ sp.mb
    match x with
    | .nan => if f.nanCode = 0 then ⟨0, true, false⟩ else ⟨f.nanCode, false, false⟩
    | .inf neg => if f.hasInf then ⟨sgn neg + infC, false, false⟩ else ⟨sgn neg + sp.maxCode, true, false⟩
    | .fin neg m e =>
      let c := fpCode sp rm neg m e
      if c > sp.maxCode then
        if ovf then ⟨sgn neg + infC, false, true⟩ else ⟨sgn neg + sp.maxCode, true, false⟩
      else ⟨sgn neg + c, false, false⟩
  | none =>
    let (lo, hi) := f.range
    match x with
    | .nan => ⟨0, true, false⟩
    | .inf neg => ⟨intCode f.bits (if neg then lo else hi), true, false⟩
    | .fin neg m e =>
      let v := smant neg (roundGrid rm neg m e 0)
      if v > hi then ⟨intCode f.bits hi, true, false⟩
      else if v < lo then ⟨intCode f.bits lo, true, false⟩
      else ⟨intCode f.bits v, false, false⟩

/-! ### FP32 -/

/-- The layout of FP32. -/
def f32 : FpSpec := ⟨8, 23, 127, 0x7F7FFFFF⟩

/-- The value of FP32 bits. -/
def f32Val (b : BitVec 32) : Val := Fmt.fp32.decode b.toNat

/-- An exact value rounded to FP32, infinite beyond the largest finite value (IEEE 754 binary32). -/
def f32Of (rm : RMode) (x : Val) : BitVec 32 := BitVec.ofNat 32 (convert .fp32 rm true x).code

/-- FP32_MAX of R92. -/
def fp32Max : Val := .fin false (2 ^ 24 - 1) 104

/-- An exact value rounded to nearest even at FP32 precision on an unbounded exponent range. -/
def roundF32 (x : Val) : Val :=
  match x with
  | .fin neg m e => let q := gridExp f32 m e; .fin neg (roundGrid .rne neg m e q) q
  | v => v

/-! ### Stochastic draws (R85, R86) -/

/-- One step of the LFSR of R85: the output bit and the next state. -/
def lfsrStep (st : BitVec 32) : Bool × BitVec 32 :=
  let out := st.getLsbD 0
  let s := st >>> 1
  (out, if out then s ^^^ 0x80200003#32 else s)

/-- `k` steps from `st`: the bits shifted in, the first one most significant, and the next state. -/
def lfsrBits : Nat → BitVec 32 → Nat → Nat × BitVec 32
  | 0, st, acc => (acc, st)
  | k + 1, st, acc => let (o, st') := lfsrStep st; lfsrBits k st' (2 * acc + o.toNat)

/-- The first `n` draws after seeding with `st`. -/
def lfsrDraws : Nat → BitVec 32 → List Nat
  | 0, _ => []
  | n + 1, st => let (d, st') := lfsrBits 16 st 0; d :: lfsrDraws n st'

/-- A seed with the replacement of R86. -/
def seedOf (s : BitVec 32) : BitVec 32 := if s = 0#32 then 1#32 else s

/-- The seed of the epilogue for a tile tag (R86). -/
def tagSeed (tag : Word) : BitVec 32 := seedOf (fld tag 0 32 ^^^ fld tag 32 32)

/-- The rounding mode of one element: RMODE and its draw. -/
def rmodeOf (rmode : Nat) (draw : Nat) : RMode :=
  if rmode = 0 then .rne else if rmode = 1 then .rtz else .sr draw

/-! ### Block scales (R64, R84) -/

/-- The value multiplied by an E8M0 scale code; 0xFF is NaN (R64). -/
def Val.e8m0 (x : Nat) (v : Val) : Val := if x = 0xFF then .nan else v.scale ((x : Int) - 127)

/-- The larger of two magnitudes. -/
def Val.maxAbs (a b : Val) : Val := if a.abs.lt b.abs then b.abs else a.abs

/-- The largest magnitude of a list; +0 of an empty one. -/
def maxMag (vs : List Val) : Val := vs.foldl Val.maxAbs (.fin false 0 0)

/-- The scale code and converted elements of one block (`block_scale` of R84); each element carries its rounding mode. -/
def blockScale (f : Fmt) (ovf : Bool) (vs : List (Val × RMode)) : Nat × List Conv :=
  if vs.any (fun p => !p.1.isFin) then (0xFF, vs.map (fun _ => ⟨0, false, false⟩))
  else
    match maxMag (vs.map Prod.fst) with
    | .fin _ m e =>
      if m = 0 then (0x7F, vs.map (fun p => convert f p.2 ovf p.1))
      else
        let x := min (max (floorLog2 m e - f.emax + 127) 0) 254
        (x.toNat, vs.map (fun p => convert f p.2 ovf (p.1.scale (127 - x))))
    | _ => (0xFF, vs.map (fun _ => ⟨0, false, false⟩))

/-- The bits of element `i` of a row whose bytes `rd` gives from its first byte (R56). -/
def elemCode (f : Fmt) (rd : Nat → Byte) (i : Nat) : Nat :=
  let lo := f.bits * i
  let hi := (lo + f.bits + 7) / 8
  let bytes := (List.range (hi - lo / 8)).map (fun k => rd (lo / 8 + k))
  (ofLE bytes >>> (lo % 8)) % 2 ^ f.bits

end Sys2Proof.Machine
end

