-- ==== Sys2Proof/Machine/Approx.lean ====
section
/-! DEFINITION. The functions that the spec places within 2 FP32 ulps of an exact one: enclosures of the exact function in integer arithmetic, and the free value held to them (R152, R354).
Every enclosure errs to the outside, so a value that the spec admits is never shut out. -/

namespace Sys2Proof.Machine

/-- `floor(√n)` by base-4 digits; 4^fuel bounds the argument. -/
def isqrt : Nat → Nat → Nat
  | 0, _ => 0
  | fuel + 1, n => if n = 0 then 0 else
    let r := 2 * isqrt fuel (n / 4)
    if (r + 1) * (r + 1) ≤ n then r + 1 else r

/-! ### The interval of 2 ulps -/

/-- An enclosure of a positive real: it lies between `lo` and `hi` in units of `2^e`. -/
structure Encl where
  lo : Nat
  hi : Nat
  e : Int
deriving DecidableEq, Repr

/-- The magnitude code of FP32's infinity. -/
def infCode : Nat := 0x7F800000

/-- The place of an exact finite value on the line of FP32 codes, the least code at or above it with `up`, else the greatest at or below it; beyond the format, infinity. -/
def ordCode (up : Bool) (v : Val) : Int :=
  match v with
  | .fin n m e =>
    let c : Nat := min infCode (fpCode f32 (if up = n then .rtz else .up) false m e)
    if n then -(c : Int) else c
  | _ => 0

/-- The place of FP32 bits on that line. -/
def ordBits (b : BitVec 32) : Int := if b.msb then -((b.toNat % 2 ^ 31 : Nat) : Int) else (b.toNat : Int)

/-- The bits at a place of the line. -/
def bitsOrd (i : Int) : BitVec 32 := if i < 0 then BitVec.ofNat 32 (i.natAbs + 2 ^ 31) else BitVec.ofNat 32 i.natAbs

/-- A free value held between two places. -/
def holdOrd (lo hi : Int) (raw : BitVec 32) : BitVec 32 :=
  if ordBits raw < lo then bitsOrd lo else if hi < ordBits raw then bitsOrd hi else raw

/-- Two ulps at a magnitude. -/
def ulps2 (m : Nat) (e : Int) : Val := .fin false 2 (gridExp f32 m e)

/-- A free value held to the FP32 numbers within 2 ulps of a value in an enclosure, of sign `neg` (R152, R354). -/
def within2 (neg : Bool) (x : Encl) (raw : BitVec 32) : BitVec 32 :=
  let lo := (Val.fin false x.lo x.e).sub (ulps2 x.lo x.e)
  let hi := (Val.fin false x.hi x.e).add (ulps2 x.hi x.e)
  if neg then holdOrd (ordCode true hi.neg) (ordCode false lo.neg) raw else holdOrd (ordCode true lo) (ordCode false hi) raw

/-! ### Enclosures in units of `2^−128` -/

/-- 1 in units of `2^−128`. -/
def one128 : Nat := 2 ^ 128

/-- ln 2 rounded down. -/
def ln2Fix : Nat := 0xB17217F7D1CF79ABC9E3B39803F2F6AF

/-- `2·√(2/π)` rounded down. -/
def geluFix : Nat := 0x19884533D436508D0FCB3C500BAB8E2FF

/-- An exact value rounded down to units of `2^−128`, its magnitude held to 256. -/
def fixOf (v : Val) : Int :=
  match v with
  | .fin n m e =>
    let k := e + 128
    let x := if k ≥ 0 then m <<< k.toNat else m >>> (-k).toNat
    smant n (min x (256 * one128))
  | _ => 0

/-- Σ rⁿ/n! from term `n` on, for r below 1: at most `fuel` terms, each rounded down. -/
def expSum (r : Nat) : Nat → Nat → Nat → Nat
  | 0, _, _ => 0
  | fuel + 1, n, t => t + expSum r fuel (n + 1) (t * r / one128 / (n + 1))

/-- An enclosure of `e^x` for x in units of `2^−128`; the margin covers the rounding of x, of ln 2 and of the terms. -/
def expEncl (x : Int) : Encl :=
  let k := x / (ln2Fix : Int)
  let s := expSum (x - k * (ln2Fix : Int)).toNat 41 0 one128
  ⟨s - 65536, s + 65536, k - 128⟩

/-- An enclosure in units of `2^−128`, for one that is at most about 1. -/
def Encl.fix (x : Encl) : Nat × Nat :=
  let k := (-(x.e + 128)).toNat
  (x.lo >>> k, (x.hi >>> k) + 1)

/-- An enclosure of `1/(1 + e^−x)`. -/
def sigmoidEncl (x : Int) : Encl :=
  let e := expEncl (-(x.natAbs : Int))
  let (lo, hi) := e.fix
  if x < 0 then ⟨e.lo * one128 / (one128 + hi), e.hi * one128 / (one128 + lo) + 1, e.e⟩
  else ⟨one128 * one128 / (one128 + hi), one128 * one128 / (one128 + lo) + 1, -128⟩

/-- An enclosure of `tanh |x|`: for small |x| the series `x − x³/3 + 2x⁵/15`. -/
def tanhEncl (m : Nat) (e : Int) : Encl :=
  let x := (fixOf (.fin false m e)).toNat
  if x < one128 / 1024 then
    let q := x * x / one128 / 3
    ⟨m * (one128 - q - 4), m * (one128 - q + 2 ^ 86), e - 128⟩
  else
    let (lo, hi) := (expEncl (-(2 * x : Int))).fix
    ⟨(one128 - hi) * one128 / (one128 + hi), (one128 - lo) * one128 / (one128 + lo) + 1, -128⟩

/-- `2·√(2/π)·(x + 0.044715·x³)` in units of `2^−128`, for x held to 16. -/
def geluArg (v : Val) : Int :=
  let x := fixOf v
  let x := if x < -(16 * one128 : Nat) then -(16 * one128 : Int) else if (16 * one128 : Nat) < x then (16 * one128 : Int) else x
  let cube := x * x / (one128 : Int) * x / (one128 : Int)
  let arg := (geluFix : Int) * (x + cube * 44715 / 1000000) / (one128 : Int)
  if arg < -(256 * one128 : Nat) then -(256 * one128 : Int) else if (256 * one128 : Nat) < arg then (256 * one128 : Int) else arg

/-- A magnitude times an enclosure. -/
def Encl.times (m : Nat) (e : Int) (x : Encl) : Encl := ⟨m * x.lo, m * x.hi, e + x.e⟩

/-! ### The functions -/

/-- The limit of a function at an infinite input, which a free value meets within 2 places. -/
def nearLimit (v : Int) (raw : BitVec 32) : BitVec 32 := holdOrd (v - 2) (min (v + 2) infCode) raw

/-- The activations ACT 4 to 7 (R152): GELU in its tanh form, SiLU, sigmoid, tanh. A NaN stays NaN. -/
def actFn (a : Nat) (b : BitVec 32) : BitVec 32 :=
  let raw := Config.act a b
  match f32Val b with
  | .nan => 0x7FC00000
  | .inf n =>
    if a = 4 ∨ a = 5 then (if n then nearLimit 0 raw else 0x7F800000)
    else if a = 6 then nearLimit (if n then 0 else 0x3F800000) raw
    else nearLimit (if n then -0x3F800000 else 0x3F800000) raw
  | .fin n m e =>
    let x := Val.fin n m e
    match a with
    | 4 => within2 n (Encl.times m e (sigmoidEncl (geluArg x))) raw
    | 5 => within2 n (Encl.times m e (sigmoidEncl (fixOf x))) raw
    | 6 => within2 false (sigmoidEncl (fixOf x)) raw
    | _ => within2 n (tanhEncl m e) raw

/-- `v.exp` on FP32 bits (R354). -/
def expFn (b : BitVec 32) : BitVec 32 :=
  match f32Val b with
  | .nan => 0x7FC00000
  | .inf n => if n then 0 else 0x7F800000
  | x => within2 false (expEncl (fixOf x)) (Config.vExp b)

/-- An enclosure of `1/√x` for a positive x. -/
def rsqrtEncl (m : Nat) (e : Int) : Encl :=
  let (m, e) : Nat × Int := if e % 2 = 0 then (m, e) else (2 * m, e - 1)
  let r := isqrt 200 (2 ^ 320 / m)
  ⟨r - 1, r + 2, -(e / 2) - 160⟩

/-- `v.rsqrt` on FP32 bits: the cases that R354 names, and otherwise a free value within 2 ulps. -/
def rsqrtFn (b : BitVec 32) : BitVec 32 :=
  match f32Val b with
  | .nan => 0x7FC00000
  | .inf n => if n then 0x7FC00000 else 0
  | .fin n m e =>
    if m = 0 then (if n then 0xFF800000 else 0x7F800000)
    else if n then 0x7FC00000
    else within2 false (rsqrtEncl m e) (Config.vRsqrt b)

end Sys2Proof.Machine
end

