-- ==== Sys2Proof/Machine/Accum.lean ====
section
/-! DEFINITION. Block sums, scaled partials, the accumulator formats and exact words of chapter 4 (R88 to R117). -/

namespace Sys2Proof.Machine

/-- An array element as a cell receives it, a finite value in units of `2^−16` (R88, R89). -/
inductive El where
  | nan
  | inf (neg : Bool)
  | num (v : Int)
deriving DecidableEq, Repr

/-- The cell's view of an exact array-format value: every one is a multiple of `2^−16` (R88). -/
def El.ofVal : Val → El
  | .nan => .nan
  | .inf n => .inf n
  | .fin n m e => .num (if 0 ≤ e + 16 then smant n (m <<< (e + 16).toNat) else smant n (m >>> (-(e + 16)).toNat))

/-- The block register and its sticky bits (R88, R90). -/
structure BlockReg where
  sum : Int
  nan : Bool
  pinf : Bool
  ninf : Bool
deriving DecidableEq, Repr

/-- The cleared block register. -/
def BlockReg.zero : BlockReg := ⟨0, false, false, false⟩

/-- One product added into the block register (R88, R90). -/
def BlockReg.add (r : BlockReg) (a b : El) : BlockReg :=
  match a, b with
  | .num x, .num y => { r with sum := r.sum + x * y }
  | .nan, _ => { r with nan := true }
  | _, .nan => { r with nan := true }
  | .inf s, .inf t => if s = t then { r with pinf := true } else { r with ninf := true }
  | .inf s, .num y =>
    if y = 0 then { r with nan := true } else if s = decide (y < 0) then { r with pinf := true } else { r with ninf := true }
  | .num x, .inf s =>
    if x = 0 then { r with nan := true } else if s = decide (x < 0) then { r with pinf := true } else { r with ninf := true }

/-- A scaled block partial with its SCALE_HI and SCALE_LO reports (R92). -/
structure Part where
  v : Val
  hi : Bool
  lo : Bool
deriving DecidableEq, Repr

/-- `scale_partial` of R92: `bsum` in units of `2^−32`. -/
def scalePartial (bsum : Int) (e : Int) : Part :=
  if bsum = 0 then ⟨.fin false 0 0, false, false⟩
  else
    let lg := floorLog2 bsum.natAbs (e - 32)
    let neg := decide (bsum < 0)
    if lg ≥ 128 then ⟨.fin neg (2 ^ 24 - 1) 104, true, false⟩
    else if lg < -149 then ⟨.fin false 0 0, false, true⟩
    else ⟨.fin neg bsum.natAbs (e - 32), false, false⟩

/-- The partial of a finished block register under the scale codes of the two operands (`block_partial` of chapter 4). -/
def BlockReg.partial' (r : BlockReg) (sa sb : Nat) : Part :=
  if sa = 0xFF ∨ sb = 0xFF ∨ r.nan ∨ (r.pinf ∧ r.ninf) then ⟨.nan, false, false⟩
  else if r.pinf then ⟨.inf false, false, false⟩
  else if r.ninf then ⟨.inf true, false, false⟩
  else scalePartial r.sum ((sa : Int) + sb - 254)

/-- The block register after the positions of one block; `none` marks padding (R88, R89). -/
def blockReg (as bs : List (Option El)) : BlockReg :=
  (as.zip bs).foldl (fun r p =>
    match p with
    | (some a, some b) => r.add a b
    | _ => r) BlockReg.zero

/-- `block_partial` over the positions of one block. -/
def blockPartial (as bs : List (Option El)) (sa sb : Nat) : Part := (blockReg as bs).partial' sa sb

/-- The accumulator formats of R94. -/
inductive Acc where
  | cf32 | i48 | pf32 | i32
deriving DecidableEq, Repr

/-- The accumulator of a 2-bit code (R94). -/
def Acc.ofCode : Nat → Acc
  | 0 => .cf32 | 1 => .i48 | 2 => .pf32 | _ => .i32

/-- The code of an accumulator (R94). -/
def Acc.code : Acc → Nat
  | .cf32 => 0 | .i48 => 1 | .pf32 => 2 | .i32 => 3

/-- Whether the accumulator takes integer products only (R95). -/
def Acc.isInt : Acc → Bool
  | .i48 | .i32 => true
  | _ => false

/-- The bank of one output element: its two storage words and its reports.
CF32 holds s and e, PF32 the sum in `w0`, I48 the low and high half of its 64-bit slot, I32 `w0` (R94). -/
structure Cell where
  w0 : BitVec 32
  w1 : BitVec 32
  sat : Bool
  hi : Bool
  lo : Bool
deriving DecidableEq, Repr

/-- The zero bank of R97. -/
def Cell.zero : Cell := ⟨0, 0, false, false, false⟩

/-- The integer that an I48 or I32 bank holds. -/
def Cell.int (acc : Acc) (c : Cell) : Int :=
  match acc with
  | .i48 => (c.w1 ++ c.w0).toInt
  | _ => c.w0.toInt

/-- The bank with an integer written to it.
DESIGN CHOICE (log 174): bits [63:48] of an I48 bank's slot hold its sign. -/
def Cell.setInt (acc : Acc) (c : Cell) (v : Int) : Cell :=
  match acc with
  | .i48 => let w := BitVec.ofInt 64 v; { c with w0 := fld w 0 32, w1 := fld w 32 32 }
  | _ => { c with w0 := BitVec.ofInt 32 v }

/-- The integer of an integer partial. -/
def Val.int : Val → Int
  | .fin n m e => smant n (if 0 ≤ e then m <<< e.toNat else m >>> (-e).toNat)
  | _ => 0

/-- The bits of a value that FP32 represents. -/
def f32Exact (v : Val) : BitVec 32 := f32Of .rne v

/-- The addition of one scaled block partial into a bank (`cf32_add`, `pf32_add`, `sat_add` of R97). -/
def accAdd (acc : Acc) (c : Cell) (p : Part) : Cell :=
  let c := { c with sat := c.sat || p.hi, hi := c.hi || p.hi, lo := c.lo || p.lo }
  match acc with
  | .cf32 =>
    let s := f32Val c.w0
    if !s.isFin || !p.v.isFin then { c with w0 := f32Of .rne (s.add p.v), w1 := 0 }
    else
      let x := s.add p.v
      let s1 := roundF32 x
      if fp32Max.lt s1.abs then { c with w0 := f32Exact (if s1.sign then fp32Max.neg else fp32Max), w1 := 0, sat := true }
      else { c with w0 := f32Exact s1, w1 := f32Of .rne ((f32Val c.w1).add (x.sub s1)) }
  | .pf32 =>
    let a := f32Val c.w0
    if !a.isFin || !p.v.isFin then { c with w0 := f32Of .rne (a.add p.v) }
    else
      let a1 := roundF32 (a.add p.v)
      if fp32Max.lt a1.abs then { c with w0 := f32Exact (if a1.sign then fp32Max.neg else fp32Max), sat := true }
      else { c with w0 := f32Exact a1 }
  | .i48 =>
    let x := c.int .i48 + p.v.int
    if x > 2 ^ 47 - 1 then { (c.setInt .i48 (2 ^ 47 - 1)) with sat := true }
    else if x < -(2 ^ 47) then { (c.setInt .i48 (-(2 ^ 47))) with sat := true }
    else c.setInt .i48 x
  | .i32 =>
    let x := c.int .i32 + p.v.int
    if x > 2 ^ 31 - 1 then { (c.setInt .i32 (2 ^ 31 - 1)) with sat := true }
    else if x < -(2 ^ 31) then { (c.setInt .i32 (-(2 ^ 31))) with sat := true }
    else c.setInt .i32 x

/-- `cf32_merge` of R205: the sum and the error of two CF32 pairs. -/
def cf32Merge (c d : Cell) : Cell :=
  let c := { c with sat := c.sat || d.sat, hi := c.hi || d.hi, lo := c.lo || d.lo }
  let a := f32Val c.w0
  let b := f32Val d.w0
  if !a.isFin || !b.isFin then { c with w0 := f32Of .rne (a.add b), w1 := 0 }
  else
    let x := a.add b
    let s1 := roundF32 x
    if fp32Max.lt s1.abs then { c with w0 := f32Exact (if s1.sign then fp32Max.neg else fp32Max), w1 := 0, sat := true }
    else { c with w0 := f32Exact s1, w1 := f32Of .rne (((f32Val c.w1).add (x.sub s1)).add (f32Val d.w1)) }

/-- `i48_merge` of R205. -/
def i48Merge (c d : Cell) : Cell :=
  let c := { c with sat := c.sat || d.sat, hi := c.hi || d.hi, lo := c.lo || d.lo }
  accAdd .i48 c ⟨.ofInt (d.int .i48), false, false⟩

/-- The exact value of a finished bank: s + e for CF32 (R97, R103). -/
def Cell.value (acc : Acc) (c : Cell) : Val :=
  match acc with
  | .cf32 => (f32Val c.w0).add (f32Val c.w1)
  | .pf32 => f32Val c.w0
  | a => .ofInt (c.int a)

/-! ### Exact words (R106 to R110) -/

/-- One ExW element: VALUE in units of `2^−149`, CLASS and the three state bits (R106). -/
structure ExW where
  value : Int
  cls : BitVec 2
  sat : Bool
  hi : Bool
  lo : Bool
deriving DecidableEq, Repr

/-- The zero element. -/
def ExW.zero : ExW := ⟨0, 0, false, false, false⟩

/-- The element that 48 bytes hold (R106). -/
def ExW.ofBytes (bs : List Byte) : ExW :=
  let v := ofLE (bs.take 40)
  let st := ofLE (bs.drop 40)
  ⟨twos 320 v, BitVec.ofNat 2 st, st.testBit 2, st.testBit 3, st.testBit 4⟩

/-- The 48 bytes of an element (R106). -/
def ExW.bytes (x : ExW) : List Byte :=
  leBytes 40 (intCode 320 x.value) ++
    leBytes 8 (x.cls.toNat + 4 * x.sat.toNat + 8 * x.hi.toNat + 16 * x.lo.toNat)

/-- The CLASS code of a value: finite 0, +∞ 1, −∞ 2, NaN 3 (R106). -/
def classOf : Val → BitVec 2
  | .fin _ _ _ => 0
  | .inf false => 1
  | .inf true => 2
  | .nan => 3

/-- CLASS combined as IEEE 754 addition combines classes (R108). -/
def classAdd (a b : BitVec 2) : BitVec 2 :=
  if a = 3#2 ∨ b = 3#2 then 3 else if a = 0#2 then b else if b = 0#2 then a else if a = b then a else 3

/-- A finite value that is a multiple of `2^−149`, in those units; a value that is not finite adds nothing (R108). -/
def exwUnits : Val → Int
  | .fin n m e => smant n (if 0 ≤ e + 149 then m <<< (e + 149).toNat else m >>> (-(e + 149)).toNat)
  | _ => 0

/-- VALUE held to the 320-bit range; whether it saturated (R108). -/
def exwClamp (x : Int) : Int × Bool :=
  if x > 2 ^ 319 - 1 then (2 ^ 319 - 1, true) else if x < -(2 ^ 319) then (-(2 ^ 319), true) else (x, false)

/-- What the ExW adder takes in one contribution (R108): the finite values that it adds one after the other, in units of `2^−149`, with CLASS and the three state bits. -/
structure Contrib where
  terms : List Int
  cls : BitVec 2
  sat : Bool
  hi : Bool
  lo : Bool
deriving DecidableEq, Repr

/-- One finite value added into VALUE, which saturates with SAT (R108). -/
def ExW.term (x : ExW) (u : Int) : ExW :=
  let (v, s) := exwClamp (x.value + u)
  { x with value := v, sat := x.sat || s }

/-- One contribution added into an element (R108). -/
def ExW.take (x : ExW) (k : Contrib) : ExW :=
  let y := k.terms.foldl ExW.term x
  { y with cls := classAdd y.cls k.cls, sat := y.sat || k.sat, hi := y.hi || k.hi, lo := y.lo || k.lo }

/-- An exact word as a contribution. -/
def ExW.contrib (x : ExW) : Contrib := ⟨[x.value], x.cls, x.sat, x.hi, x.lo⟩

/-- The sum of two exact words (R108). -/
def ExW.add (x y : ExW) : ExW := x.take y.contrib

/-- The contribution of a finished bank element: s and then e for CF32, the sum for PF32, the total for I48 and I32; a non-finite s adds nothing (R108). -/
def Cell.contrib (acc : Acc) (c : Cell) : Contrib :=
  match acc with
  | .cf32 =>
    let s := f32Val c.w0
    if s.isFin then ⟨[exwUnits s, exwUnits (f32Val c.w1)], 0, c.sat, c.hi, c.lo⟩ else ⟨[], classOf s, c.sat, c.hi, c.lo⟩
  | .pf32 =>
    let s := f32Val c.w0
    ⟨[exwUnits s], classOf s, c.sat, c.hi, c.lo⟩
  | a => ⟨[c.int a * 2 ^ 149], 0, c.sat, c.hi, c.lo⟩

/-- The value that the epilogue receives from an element (R110). -/
def ExW.val (x : ExW) : Val :=
  if x.cls = 1#2 then .inf false else if x.cls = 2#2 then .inf true else if x.cls = 3#2 then .nan
  else .fin (decide (x.value < 0)) x.value.natAbs (-149)

end Sys2Proof.Machine
end

