-- ==== Sys2Proof/Syntax.lean ====
section
/-! DEFINITION. The commands of the block: the operand layouts of chapter 12 and one constructor for each row of spec/opcode_table.json. -/

namespace Sys2Proof

/-- Layout A, of CTL and ALU instructions (R341, R343). -/
structure LayA where
  im : Bool
  rd : Fin 32
  ra : Fin 32
  rb : Fin 32
  u : Bool
  imm : BitVec 32
deriving DecidableEq, Repr

/-- Layout F, of `fence.k`; the mode is the row's (R284). -/
structure LayF where
  mask : BitVec 7
  sem : Fin 64
  ra : Fin 32
deriving DecidableEq, Repr

/-- Layout L, of `ld`, `st`, `csr.rd` and `csr.wr` (R344). -/
structure LayL where
  r : Fin 32
  ra : Fin 32
  size : BitVec 2
  sx : Bool
  space : BitVec 2
  imm : BitVec 32
deriving DecidableEq, Repr

/-- The fields of `lg.set` (R345). -/
structure LaySet where
  dd : Fin 32
  ra : Fin 32
  tbl : Bool
  imm : BitVec 32
deriving DecidableEq, Repr

/-- The fields of `lg.mod` (R346). -/
structure LayMod where
  im : Bool
  dd : Fin 32
  ra : Fin 32
  field : BitVec 5
  imm : BitVec 32
deriving DecidableEq, Repr

/-- The fields of `lg.view` (R347). -/
structure LayView where
  dd : Fin 32
  ds : Fin 32
  ra : Fin 32
  rb : Fin 32
  rc : Fin 32
deriving DecidableEq, Repr

/-- Layout S, first word of the STR class (R348). -/
structure LayS where
  slot : Fin 16
  src : Fin 32
  dst : Fin 32
  idx : Fin 32
  idxq : Bool
  merge : Bool
  lite : Bool
  sstrict : Bool
  rcount : Fin 32
  den : Bool
  done : Fin 64
  een : Bool
  esem : Fin 64
deriving DecidableEq, Repr

/-- Extension word X of the STR class (R348). -/
structure LayX where
  pen : Bool
  prog : Fin 64
  pgran : BitVec 16
  men : Bool
  msem : Fin 64
  gkind : Bool
  grp : BitVec 8
deriving DecidableEq, Repr

/-- Layout C, of `arr.cfg` (R349). -/
structure LayC where
  array : Fin 2
  ctx : Fin 2
  dual : Bool
  acc : BitVec 2
  kind : Bool
  aclass : BitVec 2
  bclass : BitVec 2
  exact' : Bool
  exwMode : BitVec 2
  rmode : BitVec 2
  ovf : Bool
  rx : Fin 32
  re : Fin 32
  ace : Bool
  acvt : BitVec 4
  bce : Bool
  bcvt : BitVec 4
deriving DecidableEq, Repr

/-- Layout P, of `arr.mm`, `jct.spmm`, `jct.spdot` and `jct.bag`. -/
structure LayP where
  array : Fin 2
  ctx : Fin 2
  start : Bool
  fin : Bool
  da : Fin 32
  db : Fin 32
  dc : Fin 32
  rk : Fin 32
  ro : Fin 32
  rt : Fin 32
  den : Bool
  done : Fin 64
  fen : Bool
  free : Fin 64
  wgt : Bool
deriving DecidableEq, Repr

/-- Layout R, of `arr.drain`, `arr.save`, `arr.load` and `jct.drain`; FORM is the row's. -/
structure LayR where
  array : Fin 2
  ctx : Fin 2
  d : Fin 32
  rs : Fin 32
  rd : Fin 32
  ro : Fin 32
  rt : Fin 32
  den : Bool
  done : Fin 64
deriving DecidableEq, Repr

/-- Layout J, of `jct.route` (R186). -/
structure LayJ where
  ds : Fin 32
  d2 : Fin 32
  kind : BitVec 2
  tsrc : Bool
  rt : Fin 32
  pd : Fin 8
  gc : Fin 32
deriving DecidableEq, Repr

/-- Extension word D, the declaration word of the junction commands (R353). -/
structure LayD where
  acc : BitVec 2
  kind : Bool
  aclass : BitVec 2
  bclass : BitVec 2
  exact' : Bool
  exwMode : BitVec 2
  rmode : BitVec 2
  ovf : Bool
  rx : Fin 32
  re : Fin 32
  rowsem : Fin 64
deriving DecidableEq, Repr

/-- Layout V, of the VEC class (R354). -/
structure LayV where
  dd : Fin 32
  dx : Fin 32
  dy : Fin 32
  dz : Fin 32
  scal : Bool
  rmode : BitVec 2
  ovf : Bool
  rs : Fin 32
  rw : Fin 32
  stw : Bool
  den : Bool
  done : Fin 64
  opt : BitVec 6
deriving DecidableEq, Repr

/-- Layout Y with the SEM, DIE and CORE fields of `sem.*`. -/
structure LayY where
  sem : Fin 64
  die : Bool
  core : Fin 16
  im : Bool
  ra : Fin 32
  imm : BitVec 16
  rto : Fin 32
  pd : Fin 8
  gd : Fin 32
deriving DecidableEq, Repr

/-- Layout Y as `bar.*` use it. -/
structure LayB where
  ch : Fin 8
  rto : Fin 32
  pd : Fin 8
deriving DecidableEq, Repr

/-- Layout Y as `dsp.*` use it; the FORM of `dsp.set` is the row's. -/
structure LayT where
  k : Fin 16
  retire : Bool
  ra : Fin 32
  gd : Fin 32
deriving DecidableEq, Repr

/-- Layout Y as `q.*` use it. -/
structure LayQ where
  q : Fin 8
  sop : Bool
  eop : Bool
  ra : Fin 32
  gd : Fin 32
deriving DecidableEq, Repr

/-- Layout K, of the SKT class. -/
structure LayK where
  array : Fin 2
  da : Fin 32
  db : Fin 32
  rd : Fin 32
  ace : Bool
  acvt : BitVec 4
  ro : Fin 32
  rt : Fin 32
  den : Bool
  done : Fin 64
deriving DecidableEq, Repr

/-- The condition codes of `br` and `cmp`. -/
inductive CC where
  | eq | ne | lt | ge | le | gt | ltu | geu | leu | gtu
deriving DecidableEq, Repr

/-- The engines of a core that hold a command queue (R20), in the order of the fence mask bits (R284). -/
inductive Engine where
  | str | ga0 | ga1 | jx | vec | skt | syn
deriving DecidableEq, Repr

/-- The engine whose next command begins; each stream slot is an engine of its own (R260). -/
inductive Unit' where
  | slot (n : Fin 16)
  | ga (a : Fin 2)
  | jx
  | vec
  | skt
  | syn
  /-- The signal-box queues of the core and of these others of its die, whose heads are served in one FCLK cycle (R252, R311). -/
  | syns (others : List (Fin 16))
deriving DecidableEq, Repr

/-- Where a POOLREL write lands: a CLM pool of a core or a depot pool of a die (R328). -/
inductive PoolAt where
  | clm (c : CoreId) (i : Fin 4)
  | depot (d : Fin 8) (i : Fin 8)
deriving DecidableEq, Repr

/-- The agent of a write or a read from outside a core's sequencer: a host function (0 the PF, n a VF), or another part over Rail. -/
inductive Agent where
  | host (fn : Fin 9)
  | remote (part : BitVec 12)
deriving DecidableEq, Repr

/-- What a patrol scrub meets in a protected unit: nothing, a correctable or an uncorrectable error (R379, R380); or an error that strikes the unit behind it, for the next read to find; or an uncorrectable error in memory that no address of the model holds: the region of a Tier N stack with the legend tables, or the PKC's own memory (R521). -/
inductive Finding where
  | clean | corr | unc | corrAfter | uncAfter | legendTables | pkcMemory
deriving DecidableEq, Repr

/-- How a read of host memory ends: with good data, with data marked poisoned (R379), or with an error completion (R376). -/
inductive HostEnd where
  | good | poisoned | failed
deriving DecidableEq, Repr

/-- What the host does to registers that have no row of their own: a write or a read through BAR0 (R439), a write of the PCIe configuration that the spec names (R434 to R436, R442, R471), or a change of a setting that a locked interface fixes and that no field of the model holds (R472). -/
inductive HostWrite where
  | bar0 (off size : Nat) (v : Word)
  | bar0Read (off size : Nat)
  /-- A read or write of BAR0 that arrives without IDE protection (R471, R473); every other command that stands for a TLP of a function comes in its stream. -/
  | clear (read : Bool) (off size : Nat) (v : Word)
  | aer (v : BitVec 32)
  | lockedSetting
  | ats (en : Bool)
  | pri (en : Bool)
  | prAlloc (n : Nat)
  | numVfs (n : Nat)
  | bar2Size (log2 : Nat)
  | ideSecure (en : Bool)
deriving DecidableEq, Repr

/-- Whether a host access is a configuration request; the others are memory requests to BAR0 (R438, R499). -/
def HostWrite.isConfig : HostWrite → Bool
  | .bar0 _ _ _ => false
  | .bar0Read _ _ => false
  | .clear _ _ _ _ => false
  | .aer _ => true
  | .lockedSetting => true
  | .ats _ => true
  | .pri _ => true
  | .prAlloc _ => true
  | .numVfs _ => true
  | .bar2Size _ => true
  | .ideSecure _ => true

/-- A work list as the lead sends it (R419). -/
structure WorkList where
  epoch : BitVec 32
  slot : BitVec 16
  step : BitVec 32
  first : BitVec 32
  items : BitVec 32
  mapId : BitVec 16
  pr : BitVec 16
  pc : BitVec 16
  arg : List Byte
  /-- The job's number, which names its scale digest: the model's own field (R429). -/
  job : Nat
deriving DecidableEq, Repr

/-- An epoch message (R423, R427): the new epoch and the configuration that it carries. -/
structure EpochMsg where
  epoch : BitVec 32
  gaz : List (Fin 4096 × BitVec 9)
  mcg : List (Fin 256 × BitVec 73)
  xpart : BitVec 8
  /-- RAIL_TORUS (R404). -/
  torus : BitVec 64
  ctx : List (Fin 64 × Leg)
  members : List (BitVec 12)
  /-- The job of the group, whose scale digest enters every part's benchmark digest (R429). -/
  job : Nat
deriving DecidableEq, Repr

/-- What a CTRL message tells the firmware (R391, R413): the verified identity of a part that joins, or its refusal; what the lead's firmware has worked out for a part (routes, multicast groups, cross-part channels and reduction contexts, R403, R405, R427), from the cars that its parts exchange; or anything else. -/
inductive CtrlMsg where
  | joined (part : BitVec 12) (ok : Bool)
  | plan (part : BitVec 12) (m : EpochMsg)
  /-- Reduction contexts that the lead's firmware arms at this part (R406, R432). -/
  | arm (ctx : List (Fin 64 × Leg))
  /-- The group's job, at a part that holds none of its slots (R429). -/
  | job (n : Nat)
  | keyUpdate (port : Fin 18) (group : Nat)
  | other
deriving DecidableEq, Repr

/-- What a BARRIER message says (R325, R425): arrivals on a channel as the part `src` sends them, or the lead's release, each under an epoch. -/
inductive BarMsg where
  | arrival (src : BitVec 12) (k : Fin 8) (epoch : BitVec 32) (srcs : List (BitVec 12))
  | release (k : Fin 8) (epoch : BitVec 32)
deriving DecidableEq, Repr

/-- The number of a survey, and whether a message is the lead's direct question or an answer to it (R430, R431). -/
structure SurveyNum where
  n : Nat
  direct : Bool
deriving DecidableEq, Repr

/-- How a training or keying state ends (R387, R399, R409). -/
structure Training where
  ok : Bool
  slow : Bool
  peer : BitVec 12
  peerLink : Byte
deriving DecidableEq, Repr

/-- What one control step measures (R491): VIN in millivolts, the power in milliwatts of everything that CCLK does not drive, and the averages of a millisecond boundary. -/
structure PowerStep where
  vin : Nat
  other : Nat
  meas : Option Word
deriving DecidableEq, Repr

/-- Who sends an SPDM request (R464, R471). -/
inductive Requester where
  | doe (fn : Fin 9)
  | sideband
  | rail (port : Fin 18)
deriving DecidableEq, Repr

/-- The two owner signatures and the nonce of an owner request (R468). -/
structure OwnerAuth where
  nonce : List Byte
  ecsig : List Byte
  mlsig : List Byte
deriving DecidableEq, Repr

/-- A debug token (R475). -/
structure DbgToken where
  magic : BitVec 32
  serial : List Byte
  nonce : List Byte
  scope : Byte
  ecpub : List Byte
  mlpub : List Byte
  ecsig : List Byte
  mlsig : List Byte
deriving DecidableEq, Repr

/-- An access on the debug access port: of registers only, or of memory. -/
inductive DbgAccess where
  | ident | regs | memory
deriving DecidableEq, Repr

/-- The buffers that a context of a grid array reads its operands into. -/
structure ArrPath where
  arr : Fin 2
  ctx : Fin 2
deriving DecidableEq, Repr

/-- The blocks of a grid array up to a bank switch: for each of the first block boundaries, the contexts whose buffers lack their next block (R138). -/
structure ArrBlocks where
  arr : Fin 2
  dry : List (BitVec 2)
deriving DecidableEq, Repr

/-- A translated range: its first address, and the Translated Address of that (R376). -/
structure AtsRange where
  page : Nat
  dst : Nat
deriving DecidableEq, Repr

/-- What the FEC decoder says of a car (R389): how many uncorrectable codewords begin in its slot, and whether one that began in an earlier slot holds bits of it. A codeword is longer than a slot, and counts once. -/
structure FecCheck where
  words : Nat
  spill : Bool
deriving DecidableEq, Repr

/-- Whether a car has bits in a codeword that the decoder cannot correct (R389). -/
def FecCheck.bad (f : FecCheck) : Bool := decide (f.words ≠ 0) || f.spill

/-- A write to SEMPOSTn of an agent: whole and aligned or not, with SUB, and its amount (R316). -/
structure PostAt where
  agent : Agent
  full : Bool
  sub : Bool
  amt : BitVec 32
deriving DecidableEq, Repr

/-- How a write reaches SEMPOST: whole and aligned or not, and the further writes to the same port that reach the box in its FCLK cycle (R311, R316). -/
structure PostForm where
  full : Bool
  others : List PostAt
deriving DecidableEq, Repr

/-- What a peer's chain shows: that it ends in the Azverel root, and that its serial number is the board's (R471). -/
structure PeerChain where
  root : Bool
  serial : Bool
deriving DecidableEq, Repr

/-- The addresses of a SETDASA: the static one that it names, and the dynamic one that it assigns (R452). -/
structure Dasa where
  static : BitVec 7
  dyn : BitVec 7
deriving DecidableEq, Repr

/-- The commands: one constructor for each row of spec/opcode_table.json. -/
inductive Instr where
  /-- NOP (R341). The sequencer issues a nop, which has no effect. -/
  | nop (c : CoreId) (p : Fin 8) (l : LayA)
  /-- JMP (R341). Jump to a PC-relative target or to a register target. -/
  | jmp (c : CoreId) (p : Fin 8) (l : LayA)
  /-- CALL (R341). Push PC+8 onto the 16-entry return stack and jump. -/
  | call (c : CoreId) (p : Fin 8) (l : LayA)
  /-- RET (R341). Pop the return stack and continue at the popped offset. -/
  | ret (c : CoreId) (p : Fin 8) (l : LayA)
  /-- LOOP (R342). Create a hardware loop record from a count and a body length. -/
  | loop (c : CoreId) (p : Fin 8) (l : LayA)
  /-- HALT (R47). Stop issuing and begin ending the core's part of the task. -/
  | halt (c : CoreId) (p : Fin 8) (l : LayA)
  /-- TRAP (R341). Raise ILLEGAL_INSTR with the TRAP cause and the code in IMM. -/
  | trap (c : CoreId) (p : Fin 8) (l : LayA)
  /-- FENCE_K_SEM (R285). Place SEM-mode fence markers in the queues of the masked engines. -/
  | fenceKSem (c : CoreId) (p : Fin 8) (l : LayF)
  /-- FENCE_K_DRAIN (R285). Place DRAIN-mode fence markers in the queues of the masked engines. -/
  | fenceKDrain (c : CoreId) (p : Fin 8) (l : LayF)
  /-- BR (R341). Branch PC-relative when the condition code holds for two registers. -/
  | br (c : CoreId) (p : Fin 8) (cc : CC) (l : LayA)
  /-- ADD (R343). rd := ra + b modulo 2^64. -/
  | add (c : CoreId) (p : Fin 8) (l : LayA)
  /-- SUB (R343). rd := ra - b modulo 2^64. -/
  | sub (c : CoreId) (p : Fin 8) (l : LayA)
  /-- MUL (R343). rd := the low 64 bits of ra times b. -/
  | mul (c : CoreId) (p : Fin 8) (l : LayA)
  /-- AND (R343). Bitwise and. -/
  | and (c : CoreId) (p : Fin 8) (l : LayA)
  /-- OR (R343). Bitwise or. -/
  | or (c : CoreId) (p : Fin 8) (l : LayA)
  /-- XOR (R343). Bitwise exclusive or. -/
  | xor (c : CoreId) (p : Fin 8) (l : LayA)
  /-- SHL (R343). Shift left by b[5:0]. -/
  | shl (c : CoreId) (p : Fin 8) (l : LayA)
  /-- SHR (R343). Logical shift right, filling with 0. -/
  | shr (c : CoreId) (p : Fin 8) (l : LayA)
  /-- SAR (R343). Arithmetic shift right, filling with the sign. -/
  | sar (c : CoreId) (p : Fin 8) (l : LayA)
  /-- MIN (R343). Smaller of ra and b, signed or unsigned as U selects. -/
  | min (c : CoreId) (p : Fin 8) (l : LayA)
  /-- MAX (R343). Larger of ra and b, signed or unsigned as U selects. -/
  | max (c : CoreId) (p : Fin 8) (l : LayA)
  /-- LI (R343). Load an immediate or an extension word into rd. -/
  | li (c : CoreId) (p : Fin 8) (l : LayA) (x : Option Word)
  /-- SEL (R343). Select ra or rb by a predicate. -/
  | sel (c : CoreId) (p : Fin 8) (l : LayA)
  /-- CMP (R343). Set a predicate from a condition code. -/
  | cmp (c : CoreId) (p : Fin 8) (cc : CC) (l : LayA)
  /-- LD (R344). Load SIZE bytes from CLM, the core block or a device address. -/
  | ld (c : CoreId) (p : Fin 8) (l : LayL) (h : HostEnd) (v : Word)
  /-- ST (R344). Store SIZE bytes to CLM, the core block or a device address. -/
  | st (c : CoreId) (p : Fin 8) (l : LayL)
  /-- CSR_RD (R27). Read a control and status register into a general register. -/
  | csrRd (c : CoreId) (p : Fin 8) (l : LayL)
  /-- CSR_WR (R27). Write a CSR under its access codes, for example clearing FLAGS_SUM bits. -/
  | csrWr (c : CoreId) (p : Fin 8) (l : LayL)
  /-- LG_SET (R345). Load a legend register from CLM or from the legend table. -/
  | lgSet (c : CoreId) (p : Fin 8) (l : LaySet)
  /-- LG_MOD (R346). Replace one legend field with the low bits of a value. -/
  | lgMod (c : CoreId) (p : Fin 8) (l : LayMod)
  /-- LG_VIEW (R347). Write a derived, offset and clipped view of a source legend. -/
  | lgView (c : CoreId) (p : Fin 8) (l : LayView)
  /-- STR_LOAD (R259). Issue a stream that loads a view into a CLM or a depot. -/
  | strLoad (c : CoreId) (p : Fin 8) (l : LayS) (x : Option LayX)
  /-- STR_STORE (R259). Issue a stream that stores a view from CLM or the depot. -/
  | strStore (c : CoreId) (p : Fin 8) (l : LayS) (x : Option LayX)
  /-- STR_GATHER (R271). Issue an index-driven stream that gathers table rows into CLM. -/
  | strGather (c : CoreId) (p : Fin 8) (l : LayS) (x : Option LayX)
  /-- STR_MCAST (R241). Issue a multicast stream to a core group or a die group. -/
  | strMcast (c : CoreId) (p : Fin 8) (l : LayS) (x : LayX)
  /-- STR_RATE (R282). Set a slot's token-bucket regulator and fill its bucket. -/
  | strRate (c : CoreId) (p : Fin 8) (l : LayS)
  /-- STR_RESUME (R289). Restart a STOPPED slot with a resumable cause from its saved position. -/
  | strResume (c : CoreId) (p : Fin 8) (l : LayS)
  /-- STR_ABORT (R289). Return a slot to IDLE, discarding its saved position. -/
  | strAbort (c : CoreId) (p : Fin 8) (l : LayS)
  /-- ARR_CFG (R349). Configure an array context, its mode and its epilogue descriptor. -/
  | arrCfg (c : CoreId) (p : Fin 8) (l : LayC)
  /-- ARR_MM (R125). Start or continue a pass of an array tile, ending it when END is 1. -/
  | arrMm (c : CoreId) (p : Fin 8) (l : LayP)
  /-- ARR_DRAIN_PLAIN (R155). End the context's tile in progress and drain it. -/
  | arrDrainPlain (c : CoreId) (p : Fin 8) (l : LayR)
  /-- ARR_DRAIN_EXW (R110). Run the epilogue over an ExW region without a pass. -/
  | arrDrainExw (c : CoreId) (p : Fin 8) (l : LayR)
  /-- ARR_DRAIN_EXW_ADD (R352). Add one ExW region into another and write a TSR. -/
  | arrDrainExwAdd (c : CoreId) (p : Fin 8) (l : LayR)
  /-- ARR_SAVE (R156). Write a context's bank to CLM as a save record. -/
  | arrSave (c : CoreId) (p : Fin 8) (l : LayR)
  /-- ARR_LOAD (R158). Restore a save record into an idle matching context. -/
  | arrLoad (c : CoreId) (p : Fin 8) (l : LayR)
  /-- JCT_ROUTE (R186). Count a tile's stored positions and choose the engine. -/
  | jctRoute (c : CoreId) (p : Fin 8) (l : LayJ)
  /-- JCT_SPMM (R193). Start or continue a sparse-times-dense junction tile. -/
  | jctSpmm (c : CoreId) (p : Fin 8) (l : LayP) (d : LayD)
  /-- JCT_SPDOT (R194). Start or continue a CSR-times-CSR intersection tile. -/
  | jctSpdot (c : CoreId) (p : Fin 8) (l : LayP) (d : LayD)
  /-- JCT_BAG (R195). Start or continue a reduction of gathered rows into bags. -/
  | jctBag (c : CoreId) (p : Fin 8) (l : LayP) (d : LayD)
  /-- JCT_DRAIN (R192). End the junction tile in progress and drain it. -/
  | jctDrain (c : CoreId) (p : Fin 8) (l : LayR)
  /-- V_ADD (R354). Elementwise FP32 addition of two views into D. -/
  | vAdd (c : CoreId) (p : Fin 8) (l : LayV)
  /-- V_MUL (R354). Elementwise FP32 multiplication into D. -/
  | vMul (c : CoreId) (p : Fin 8) (l : LayV)
  /-- V_FMA (R354). Elementwise fused multiply-add into D. -/
  | vFma (c : CoreId) (p : Fin 8) (l : LayV)
  /-- V_MAX (R354). Elementwise maximum into D. -/
  | vMax (c : CoreId) (p : Fin 8) (l : LayV)
  /-- V_EXP (R354). Elementwise exponential into D. -/
  | vExp (c : CoreId) (p : Fin 8) (l : LayV)
  /-- V_RSQRT (R354). Elementwise reciprocal square root into D. -/
  | vRsqrt (c : CoreId) (p : Fin 8) (l : LayV)
  /-- V_CVT (R354). Convert a view to D's format. -/
  | vCvt (c : CoreId) (p : Fin 8) (l : LayV)
  /-- V_REDUCE (R354). Reduce each row by sum, max or largest magnitude. -/
  | vReduce (c : CoreId) (p : Fin 8) (l : LayV)
  /-- V_NORM2 (R354). Write the Euclidean norm of each row, optionally rounded upward. -/
  | vNorm2 (c : CoreId) (p : Fin 8) (l : LayV)
  /-- V_LD (R354). Return one element of a view to a general register. -/
  | vLd (c : CoreId) (p : Fin 8) (l : LayV)
  /-- V_ST (R354). Write one converted FP32 value into every element of D. -/
  | vSt (c : CoreId) (p : Fin 8) (l : LayV)
  /-- SEM_ADD (R306). Add an amount to a semaphore of the core or of the die. -/
  | semAdd (c : CoreId) (p : Fin 8) (l : LayY)
  /-- SEM_SUB (R306). Subtract an amount from a semaphore. -/
  | semSub (c : CoreId) (p : Fin 8) (l : LayY)
  /-- SEM_WAIT (R306). Hold the sequencer until a semaphore reaches a target under serial comparison. -/
  | semWait (c : CoreId) (p : Fin 8) (l : LayY)
  /-- SEM_TAKE (R306). Wait until a semaphore reaches a target, then subtract the target. -/
  | semTake (c : CoreId) (p : Fin 8) (l : LayY)
  /-- SEM_READ (R306). Read a semaphore value into a general register. -/
  | semRead (c : CoreId) (p : Fin 8) (l : LayY)
  /-- BAR_ARRIVE (R322). Arrive on a barrier channel. -/
  | barArrive (c : CoreId) (p : Fin 8) (l : LayB)
  /-- BAR_WAIT (R322). Wait until the barrier generation reaches the core's target. -/
  | barWait (c : CoreId) (p : Fin 8) (l : LayB)
  /-- DSP_TAKE (R248). Take a ticket from a dispatch counter, optionally retiring the oldest first. -/
  | dspTake (c : CoreId) (p : Fin 8) (l : LayT)
  /-- DSP_SET_LIMIT (R250). Write LIMIT of a dispatch counter. -/
  | dspSetLimit (c : CoreId) (p : Fin 8) (l : LayT)
  /-- DSP_SET_NEXT (R250). Write NEXT of a dispatch counter when no ticket is held or requeued. -/
  | dspSetNext (c : CoreId) (p : Fin 8) (l : LayT)
  /-- DSP_SET_RETIRE (R250). Remove the core's oldest held ticket without a take. -/
  | dspSetRetire (c : CoreId) (p : Fin 8) (l : LayT)
  /-- Q_PUSH (R296). Push a word into a queue of the issuing core. -/
  | qPush (c : CoreId) (p : Fin 8) (l : LayQ)
  /-- Q_POP (R296). Pop the oldest visible queue word, or return an empty word. -/
  | qPop (c : CoreId) (p : Fin 8) (l : LayQ)
  /-- SKT_PASS (R215). Run a sketch pass on an array and write bound entries. -/
  | sktPass (c : CoreId) (p : Fin 8) (l : LayK)
  /-- SKT_SELECT (R223). Turn bound entries into masks, a column list and a status record. -/
  | sktSelect (c : CoreId) (p : Fin 8) (l : LayK)
  /-- SKT_AUDIT (R229). Check audited skipped outputs against exact values and count misses. -/
  | sktAudit (c : CoreId) (p : Fin 8) (l : LayK)
  /-- QUEUE_ROOM_ISSUE (R20). A stalled instruction issues once its engine's command queue has space. -/
  | queueRoomIssue (c : CoreId)
  /-- PENDING_RESULT_ARRIVE (R339). An engine result lands in a pending destination register. -/
  | pendingResultArrive (c : CoreId) (r : Fin 32)
  /-- ENGINE_COMMAND_BEGIN (R22). An engine begins its next queued command once its predecessor and fences allow. -/
  | engineCommandBegin (c : CoreId) (u : Unit')
  /-- FENCE_OPEN (R285). A fence marker's condition holds and the engine resumes beginning commands. -/
  | fenceOpen (c : CoreId) (e : Engine)
  /-- ARR_FREE_POST (R127). The feeders have read an arr.mm's last operand byte and FREE is posted. -/
  | arrFreePost (c : CoreId) (a : ArrPath)
  /-- ARR_BANK_SWITCH (R129). A pass or chunk ends and the finished bank becomes the shadow bank. -/
  | arrBankSwitch (c : CoreId) (a : ArrBlocks)
  /-- EXW_CHUNK_ADD_COMPLETE (R102). The drain unit finishes adding a chunk's bank into ExW. -/
  | exwChunkAddComplete (c : CoreId) (e : Engine)
  /-- ARR_DRAIN_COMPLETE (R127). A tile's output, scales and TSR are visible and DONE is posted. -/
  | arrDrainComplete (c : CoreId) (a : Fin 2)
  /-- ARR_SAVE_COMPLETE (R156). The saved bank has been shifted out and the context is idle. -/
  | arrSaveComplete (c : CoreId) (a : Fin 2)
  /-- STRICT_VIOLATION_FAULT (R180). A strict violation reaches its fault point, faults the core and drops the tile. -/
  | strictViolationFault (c : CoreId) (e : Engine)
  /-- META_ERR (R181). Repeated N:M metadata indices fault the core at the fault point. -/
  | metaErr (c : CoreId) (e : Engine)
  /-- JCT_ROUTE_COMPLETE (R190). The route unit writes pd and gc. -/
  | jctRouteComplete (c : CoreId)
  /-- JCT_TILE_END (R209). The recombine stage moves the tile bank to the shadow bank. -/
  | jctTileEnd (c : CoreId)
  /-- JCT_DRAIN_COMPLETE (R209). The junction drain writes the TSR and posts DONE. -/
  | jctDrainComplete (c : CoreId)
  /-- SKT_PASS_COMPLETE (R221). The sketch epilogue writes the last bound row and the TSR, then posts DONE. -/
  | sktPassComplete (c : CoreId) (a : Fin 2)
  /-- SKT_SELECT_COMPLETE (R227). Masks, list and status record are visible and DONE is posted. -/
  | sktSelectComplete (c : CoreId)
  /-- SKT_AUDIT_COMPLETE (R230). Miss results and a TSR are written and DONE is posted. -/
  | sktAuditComplete (c : CoreId)
  /-- VEC_COMPLETE (R355). A VEC command writes its status word and posts DONE. -/
  | vecComplete (c : CoreId)
  /-- CORE_HALT_REPORT (R253). A faulted core reports itself halted after its streams stop and its writes land. -/
  | coreHaltReport (c : CoreId)
  /-- HALT_COMPLETE (R47). A halting core reports itself halted after its commands complete. -/
  | haltComplete (c : CoreId)
  /-- TASK_END (R49). All cores have halted; the loader checks balance, records completion and zeroes regions. -/
  | taskEnd (n : Fin 8)
  /-- TRANSFER_ISSUE (R277). A slot issues a transfer when tracker entries, the regulator and pool room allow. -/
  | transferIssue (c : CoreId) (n : Fin 16)
  /-- TRANSFER_DELIVER (R277). A transfer's bytes are delivered and it stops being outstanding. -/
  | transferDeliver (c : CoreId) (n : Fin 16) (t : Nat) (data : List Byte) (h : HostEnd)
  /-- MERGE_CLOSE_TIMEOUT (R280). No new small request arrives within 4 FCLK cycles and the merge closes. -/
  | mergeCloseTimeout (c : CoreId) (n : Fin 16)
  /-- SLOT_PAGING_SAVE (R290). A paging slot, with nothing outstanding, saves its resume position. -/
  | slotPagingSave (c : CoreId) (n : Fin 16)
  /-- PAGE_REQUEST_SEND (R290). The slot takes a PRG index and sends its Page Request Group. -/
  | pageRequestSend (c : CoreId) (n : Fin 16)
  /-- PRG_RESPONSE (R290). A PRG Response resumes the slot or fails it with HOST_DENIED. -/
  | prgResponse (f : Fin 9) (prg : Nat) (ok : Bool)
  /-- STREAM_STOP (R288). A failed stream with nothing outstanding enters STOPPED and posts ESEM or faults. -/
  | streamStop (c : CoreId) (n : Fin 16)
  /-- ATS_TRANSLATION_COMPLETE (R376). An ATS Translation Completion fills the ATC and the transfer proceeds. -/
  | atsTranslationComplete (f : Fin 9) (addr : AtsRange) (size : Nat) (rd wr : Bool)
  /-- ATS_INVALIDATE (R377). An ATS Invalidate Request removes ATC entries and completes after their transfers. -/
  | atsInvalidate (f : Fin 9) (addr size tag : Nat)
  /-- POOL_RELEASE (R328). A write to POOLREL or DPOOLREL returns space to a pool context. -/
  | poolRelease (a : Agent) (t : PoolAt) (v : Word)
  /-- QUEUE_PUSH_PORT_WRITE (R296). An agent pushes a word through a queue's push port. -/
  | queuePushPortWrite (a : Agent) (c : CoreId) (q : Fin 8) (full : Bool) (v : Word)
  /-- SEMPOST_ADD (R316). A write to SEMPOST with SUB=0 adds to a semaphore. -/
  | sempostAdd (a : Agent) (c : CoreId) (n : Fin 64) (full : PostForm) (amt : BitVec 32)
  /-- SEMPOST_SUB (R316). A write to SEMPOST with SUB=1 subtracts from a semaphore. -/
  | sempostSub (a : Agent) (c : CoreId) (n : Fin 64) (full : PostForm) (amt : BitVec 32)
  /-- WAIT_TIMEOUT (R315). A timed wait reaches its deadline cycle unmet and returns pd=0. -/
  | waitTimeout (c : CoreId)
  /-- STALL (R330). A core sees no activity for STALL_LIMIT ACLK cycles and faults. -/
  | stall (c : CoreId)
  /-- CORE_GATE (R333). A core waiting for WAIT_LEND has its CCLK stopped and its share lent. -/
  | coreGate (c : CoreId)
  /-- CORE_WAKE (R334). A Gated core's waking event restarts its CCLK after borrowers are lowered. -/
  | coreWake (c : CoreId)
  /-- CORE_COLLAPSE (R487). A core without a section idle for 100 us enters Collapsed. -/
  | coreCollapse (c : CoreId)
  /-- CORE_UNCOLLAPSE (R488). A Collapsed core wakes for a CLM access or placement. -/
  | coreUncollapse (c : CoreId)
  /-- DSP_CTL_HOST_WRITE (R258). A host write to DSPn_CTL while no task of the partition runs. -/
  | dspCtlHostWrite (f : Fin 9) (d : Fin 8) (k : Fin 16) (v : Word)
  /-- SQ_TAIL_DOORBELL (R446). A write to SQ_TAIL announces submissions or sets RINGERR. -/
  | sqTailDoorbell (f : Fin 9) (v : Word)
  /-- CQ_HEAD_DOORBELL (R446). A write to CQ_HEAD frees consumed completion entries or sets RINGERR. -/
  | cqHeadDoorbell (f : Fin 9) (v : Word)
  /-- RING_CFG_WRITE (R443). A write to RING_CFG enables or disables rings and resets their pointers. -/
  | ringCfgWrite (f : Fin 9) (v : Word)
  /-- CQ_IRQ_WRITE (R443). A write to CQ_IRQ sets the completion vector and coalescing, or is refused. -/
  | cqIrqWrite (f : Fin 9) (v : Word)
  /-- SUBMISSION_FETCH (R446). The PKC fetches one submission entry in rotating function order. -/
  | submissionFetch (f : Fin 9) (e : List Byte)
  /-- LOAD (R43). The loader checks an image and places it, or refuses it. -/
  | load (f : Fin 9) (cid : BitVec 16)
  /-- ABORT (R50). The host aborts a running task by number. -/
  | abort (f : Fin 9) (cid : BitVec 16)
  /-- SET_ROLE (R411). The host sets the part's group role, partition and lead. -/
  | setRole (f : Fin 9) (cid : BitVec 16)
  /-- ADD_MEMBER (R413). A lead's host names a part to join the group or upper tier. -/
  | addMember (f : Fin 9) (cid : BitVec 16)
  /-- SUBMIT_JOB (R449). A lead accepts a job and dispatches step 0. -/
  | submitJob (f : Fin 9) (cid : BitVec 16)
  /-- COMPLETION_WRITE (R448). The PKC writes a completion entry when the ring has room. -/
  | completionWrite (f : Fin 9)
  /-- CQ_INTERRUPT_TIMEOUT (R451). ITIME expires after a written entry and the completion vector is sent. -/
  | cqInterruptTimeout (f : Fin 9)
  /-- MSIX_UNMASK (R451). Unmasking a pending vector sends its message. -/
  | msixUnmask (f : Fin 9) (v : Fin 128)
  /-- HOST_BAR2_WRITE (R442). A host write to device memory through the BAR2 aperture. -/
  | hostBar2Write (f : Fin 9) (off : Nat) (data : List Byte) (ep : Bool)
  /-- HOST_BAR2_READ (R442). A host read of device memory through BAR2 after earlier writes are visible. -/
  | hostBar2Read (f : Fin 9) (off len : Nat)
  /-- REGISTER_WRITE (R8). A write to a register without a row of its own, under its access codes. -/
  | registerWrite (f : Fin 9) (w : HostWrite)
  /-- FLR_VF (R435). A Function Level Reset of a VF aborts its task and resets its function. -/
  | flrVf (n : Fin 8)
  /-- FLR_PF (R435). A Function Level Reset of the PF resets the PF and every VF. -/
  | flrPf
  /-- WORK_LIST_RECEIVE (R419). Group firmware receives a work list and writes a work record into the mailbox. -/
  | workListReceive (w : WorkList)
  /-- MAILBOX_WRITE (R418). A write to GRP_MBOX0 or GRP_MBOX1 clears MBERR and resets the record count. -/
  | mailboxWrite (f : Fin 9) (d : Fin 8) (second : Bool) (v : Word)
  /-- GRP_DONE_WRITE (R420). A program reports a finished work list and firmware forwards it. -/
  | grpDoneWrite (f : Fin 9) (d : Fin 8) (v : Word)
  /-- COMPLETION_ACCEPT (R421). The lead accepts or discards a completion message by epoch. -/
  | completionAccept (src : BitVec 12) (epoch : BitVec 32) (slot : Fin 64) (step : BitVec 16)
  /-- HEARTBEAT_TIMER (R426). Every 1 ms a part sends its heartbeat. -/
  | heartbeatTimer
  /-- HEARTBEAT_RECEIVE (R426). A heartbeat arrives, possibly with TASK_FAULT set. -/
  | heartbeatReceive (src : BitVec 12) (epoch : BitVec 32) (fault : Bool)
  /-- HEARTBEAT_CHECK (R426). At each millisecond boundary the lead counts missed periods. -/
  | heartbeatCheck
  /-- EPOCH_RECEIVE (R423). A worker installs a new epoch, writes an abandon record and acknowledges. -/
  | epochReceive (m : EpochMsg)
  /-- EPOCH_ACK_RECEIVE (R427). The lead receives an epoch acknowledgement. -/
  | epochAckReceive (src : BitVec 12) (epoch : BitVec 32)
  /-- EPOCH_ACK_TIMEOUT (R427). A member does not acknowledge within 3 ms and is failed. -/
  | epochAckTimeout
  /-- SURVEY_TIMER (R430). Every SURVEY_MS the lead starts a survey. -/
  | surveyTimer
  /-- SURVEY_REQUEST_RECEIVE (R430). A part receives a survey request and forwards it down the tree. -/
  | surveyRequestReceive (src : BitVec 12) (num : SurveyNum) (epoch : BitVec 32)
  /-- SURVEY_REPLY_RECEIVE (R430). A part receives a child's survey reply. -/
  | surveyReplyReceive (src : BitVec 12) (num : SurveyNum) (epoch : BitVec 32) (lo hi : Leg) (count : Nat)
  /-- SURVEY_CHILD_TIMEOUT (R430). After 2 ms a part sends its minimum, maximum and count upward. -/
  | surveyChildTimeout
  /-- SURVEY_DIGEST_TIMEOUT (R431). Members that do not answer a direct digest request within 2 ms count as failed. -/
  | surveyDigestTimeout
  /-- CAR_RECEIVE (R398). A link receives a car and checks CRC, FEC, SEQ and type. -/
  | carReceive (l : Fin 72) (fec : FecCheck) (car : List Byte)
  /-- RAIL_WRITE (R395). A target performs a remote WRITE and returns WRITE_ACK or ERR. -/
  | railWrite
  /-- RAIL_READ (R395). A target performs a remote READ and returns READ_RESP or ERR. -/
  | railRead
  /-- RAIL_MCWRITE (R405). A part forwards a multicast write and writes locally when a member. -/
  | railMcwrite
  /-- RAIL_READ_RESP (R395). Read data arrive and deliver the requester's transfers. -/
  | railReadResp
  /-- RAIL_WRITE_ACK (R395). A write acknowledgement delivers the requester's transfers. -/
  | railWriteAck
  /-- RAIL_ERR (R395). A refusal fails the requester's stream or access. -/
  | railErr
  /-- RAIL_REDUCE (R407). A reduction contribution arrives and is combined in fixed order. -/
  | railReduce
  /-- RAIL_BARRIER (R425). A barrier arrival or release message is processed. -/
  | railBarrier (m : BarMsg)
  /-- RAIL_CTRL (R391). A group firmware, heartbeat or SPDM control message is delivered. -/
  | railCtrl (m : CtrlMsg)
  /-- REPLAY_TIMEOUT (R398). The oldest unacknowledged car waits REPLAY_TO and is resent. -/
  | replayTimeout (l : Fin 72)
  /-- NAK_REPEAT (R398). Every 64 car slots the receiver repeats its NAK. -/
  | nakRepeat (l : Fin 72)
  /-- GROUP_PAD_TIMEOUT (R402). After 32 idle FCLK cycles an incomplete group is padded. -/
  | groupPadTimeout (l : Fin 72)
  /-- MESSAGE_CLOSE_TIMEOUT (R395). A WRITE message closes when the slot has no transfer for 8 FCLK cycles. -/
  | messageCloseTimeout (c : CoreId) (n : Fin 16)
  /-- RESPONSE_TIMEOUT (R395). A remote response misses RSP_TO and the request fails with REMOTE_LOSS. -/
  | responseTimeout (tag : BitVec 16)
  /-- LINK_TRAINING_COMPLETE (R409). A link finishes a training or keying state. -/
  | linkTrainingComplete (l : Fin 72) (r : Training)
  /-- LINK_RETRAIN_TIMEOUT (R399). A link not back UP in 100 ms enters FAILED. -/
  | linkRetrainTimeout (l : Fin 72)
  /-- LINK_RETRY_TIMER (R409). Every 1 s the PKC retries training a FAILED link. -/
  | linkRetryTimer (l : Fin 72)
  /-- RAIL_ISOLATION_TIMEOUT (R521). All enabled links FAILED for 10 s set HEALTH.FATAL. -/
  | railIsolationTimeout
  /-- SCRUB (R380). A patrol scrub reads and writes back a unit. -/
  | scrub (a : Nat) (e : Finding)
  /-- ECC_RATE_WINDOW (R518). At each 1 s window end the PKC checks correction rates. -/
  | eccRateWindow
  /-- VAUX_POR (R478). VAUX enters its window and the always-on domain resets. -/
  | vauxPor
  /-- COLD_RESET (R495). COLD_RST_N asserts or releases a cold reset. -/
  | coldReset (low : Bool) (strap : Byte)
  /-- PWRFAIL (R483). PWR_OK falls and the VIN domain is reset. -/
  | pwrfail
  /-- BROWNOUT (R483). VIN falls to 1.60 V and the VIN domain is reset. -/
  | brownout
  /-- SAG (R481). VIN falls to 1.67 V, SAG_N asserts and CCLK steps halve. -/
  | sag (mv : BitVec 32)
  /-- SAG_CLEAR (R481). VIN rises to 1.685 V and the 100 us hold begins. -/
  | sagClear
  /-- SAG_HOLD_EXPIRE (R482). The 100 us hold ends and halving stops. -/
  | sagHoldExpire
  /-- CLKFAIL (R486). REFCLK is lost and the VIN domain is held in reset. -/
  | clkfail
  /-- REFCLK_RETURN (R486). REFCLK returns and the VIN domain may leave reset. -/
  | refclkReturn
  /-- THROTTLE (R493). Each millisecond at or above 100 C the die budget drops by 1/16. -/
  | throttle (d : Fin 8) (temp : BitVec 16)
  /-- HOT (R493). A die at 105 C is held at step 8. -/
  | hot (d : Fin 8) (temp : BitVec 16)
  /-- THERMTRIP (R493). A die at 110 C trips THERMTRIP_N and resets the VIN domain. -/
  | thermtrip (d : Fin 8) (temp : BitVec 16)
  /-- REGFAULT (R480). A regulator fault resets the VIN domain. -/
  | regfault
  /-- PERST (R496). PCIe Fundamental Reset aborts tasks and resets the port. -/
  | perst
  /-- ACTIVATE (R495). PERST# with a pending component becomes a cold-class reset. -/
  | activate
  /-- WARM (R496). RST_CTL.WARM resets tasks and restarts the PKC firmware. -/
  | warm
  /-- DIE_RESET (R497). RST_CTL.DIE resets a die or is refused. -/
  | dieReset (d : Fin 8)
  /-- CORE_RESET (R497). RST_CTL.CORE_GO resets a core or is refused. -/
  | coreReset (c : CoreId)
  /-- POWER_CONTROL_STEP (R491). Every 1 us the power controller sets core shares and steps. -/
  | powerControlStep (r : PowerStep)
  /-- PWR_CAP_WRITE (R489). A write of the programmed power cap. -/
  | pwrCapWrite (v : Word)
  /-- MGMT (R499). The boot ROM completes identity and the part reaches MGMT. -/
  | mgmt (certOk : Bool)
  /-- EARLY (R499). Firmware passes and Tier N trains; the part reaches EARLY. -/
  | early (stack : Option (Fin 16))
  /-- FULL (R500). Tier F and Rail finish; the part reaches FULL. -/
  | full (tf : Bool)
  /-- BOOT_PUSH_GO (R503). BOOT_CTL.GO checks a host-pushed firmware component. -/
  | bootPushGo (len : BitVec 25)
  /-- BOOT_FAIL_RETURN (R503). 1 ms after a failed check, STATE returns to waiting. -/
  | bootFailReturn
  /-- GET_MEASUREMENTS (R465). An SPDM request returns measurements or the evidence record. -/
  | getMeasurements (r : Requester) (idx : Byte) (nonce : List Byte)
  /-- GET_CERTIFICATE (R464). An SPDM request returns a certificate chain. -/
  | getCertificate (r : Requester) (slot : Fin 8)
  /-- CHALLENGE (R464). An SPDM challenge is answered with a signature. -/
  | challenge (r : Requester) (nonce : List Byte)
  /-- KEY_EXCHANGE (R464). An SPDM key exchange opens a secured session. -/
  | keyExchange (r : Requester) (peer : BitVec 12) (rootOk : PeerChain) (debug : Bool)
  /-- SET_OWNER (R468). Enrol an owner record when none exists. -/
  | setOwner (r : Requester) (ec ml : List Byte)
  /-- CHANGE_OWNER (R468). Replace the owner keys under owner signatures. -/
  | changeOwner (r : Requester) (ec ml : List Byte) (a : OwnerAuth)
  /-- SET_POLICY (R468). Set or clear OWNER_ONLY under owner signatures. -/
  | setPolicy (r : Requester) (only : Bool) (a : OwnerAuth)
  /-- CLEAR_OWNER (R468). Erase the owner record under owner signatures. -/
  | clearOwner (r : Requester) (a : OwnerAuth)
  /-- GET_DEBUG_NONCE (R475). Return a debug nonce. -/
  | getDebugNonce (r : Requester)
  /-- UNLOCK_DEBUG (R475). Accept a debug token, destroy keys and open the debug port. -/
  | unlockDebug (r : Requester) (t : DbgToken)
  /-- LOCK_INTERFACE (R472). Lock a VF's TDI and extend its partition measurement. -/
  | lockInterface (n : Fin 8) (nonce : List Byte)
  /-- GET_DEVICE_INTERFACE_REPORT (R472). Return the TDI interface report. -/
  | getDeviceInterfaceReport (n : Fin 8)
  /-- START_INTERFACE_REQUEST (R472). Move a locked TDI to RUN. -/
  | startInterfaceRequest (n : Fin 8)
  /-- STOP_INTERFACE_REQUEST (R472). Abort the task, re-create the partition and unlock the TDI. -/
  | stopInterfaceRequest (n : Fin 8)
  /-- KEY_PROG (R469). IDE_KM programs a function's IDE stream keys. -/
  | keyProg (f : Fin 9)
  /-- K_SET_STOP (R469). IDE_KM destroys a function's IDE stream keys. -/
  | kSetStop (f : Fin 9)
  /-- PARTITION_CREATE (R470). Security firmware enables a partition, installs new keys and zeroes its memory. -/
  | partitionCreate (n : Fin 8) (w : Word)
  /-- PLDM_GET_SENSOR_READING (R453). Return a sensor reading over PLDM. -/
  | pldmGetSensorReading (id : Byte) (v : Nat)
  /-- PLDM_SET_EFFECTER (R453). Set the programmed power cap effecter. -/
  | pldmSetEffecter (v : Nat)
  /-- PLDM_GET_FRU_RECORD (R454). Return the FRU record. -/
  | pldmGetFruRecord
  /-- PLDM_UPDATE_COMPONENT (R455). Write and verify a firmware component in the inactive bank. -/
  | pldmUpdateComponent (id : Fin 3) (img : List Byte)
  /-- PLDM_ACTIVATE_FIRMWARE (R455). Mark verified components to become active at the next reset. -/
  | pldmActivateFirmware
  /-- SET_ENDPOINT_ID (R452). The bus owner assigns the MCTP endpoint ID. -/
  | setEndpointId (eid : Byte)
  /-- ENTDAA (R452). The I3C controller assigns a dynamic address and the part becomes an I3C target. -/
  | entdaa (addr : BitVec 7)
  /-- SETDASA (R452). The I3C controller assigns a dynamic address from static address 0x62. -/
  | setdasa (addr : Dasa)
  /-- RSTDAA (R452). The part returns to SMBus mode. -/
  | rstdaa
  /-- VAUX_LOSS (R479). VAUX leaves its window, the always-on domain loses power and the VIN domain is held in reset. -/
  | vauxLoss
  /-- PWR_OK_RISE (R546). PWR_OK rises and, with COLD_RST_N high and REFCLK good, the cold reset releases and the VIN domain leaves reset. -/
  | pwrOkRise (strap : Byte)
  /-- BROWNOUT_CLEAR (R483). VIN rises to 1.615 V and the brown-out held by the monitor clears, letting the VIN domain boot when PWR_OK is high. -/
  | brownoutClear
  /-- PERST_DEASSERT (R499). PERST# is deasserted and the PCIe port begins to train. -/
  | perstDeassert
  /-- PCIE_LINK_DOWN (R469). The PCIe link goes down, IDE stream keys are destroyed and locked TDIs leave the secure state. -/
  | pcieLinkDown
  /-- DIE_RESET_COMPLETE (R497). A running die reset ends, RST_CTL.DIE clears and the die's registers and memories become reachable again. -/
  | dieResetComplete (d : Fin 8)
  /-- CORE_RESET_COMPLETE (R496). A running core reset ends with the core reset and its CLM zeroed, and CORE_GO clears. -/
  | coreResetComplete (c : CoreId)
  /-- JOIN_TIMEOUT (R445). A named part whose links are not UP or whose identity is not verified within 1 s completes ADD_MEMBER with JOIN_FAILED. -/
  | joinTimeout (part : BitVec 12)
  /-- DELAYED_EPOCH_RAISE (R423). A raise of the epoch that the lead delayed takes place once a millisecond has passed since the last raise. -/
  | delayedEpochRaise
  /-- DEBUG_PORT_ACCESS (R474). An access on the debug access port is answered with the identification code while locked, or within the token's scope while unlocked. -/
  | debugPortAccess (a : DbgAccess)
  /-- JCT_FREE_POST (R192). The junction engine has read the last byte of a command's operands and posts FREE. -/
  | jctFreePost (c : CoreId)
deriving DecidableEq, Repr

end Sys2Proof
end

