-- ==== Sys2Proof/Machine/CoreState.lean ====
section
/-! DEFINITION. The state of one core: registers, sequencer, engine queues, stream slots, arrays, junction engine, signal box, queues and pools. -/

namespace Sys2Proof.Machine

/-- A semaphore operand that may be absent. -/
abbrev SemOpt := Option (Fin 64)

/-- A legend operand as captured at issue (R21): its register, the primary legend and the extension legend. -/
structure View where
  reg : Fin 32
  prim : Leg
  ext : Leg
deriving DecidableEq, Repr

/-! ### Engine commands as captured at issue -/

/-- An `arr.mm` or junction tile command. -/
structure MmCmd where
  start : Bool
  fin : Bool
  a : View
  b : View
  o : View
  kbase : Word
  origin : Word
  tag : Word
  done : SemOpt
  free : SemOpt
deriving DecidableEq, Repr

/-- A command in the queue of a grid array. -/
inductive ArrCmd where
  | cfg (l : LayC) (exwOff desc : BitVec 32)
  | mm (x : Fin 2) (m : MmCmd)
  | drain (x : Fin 2) (o : View) (origin tag : Word) (done : SemOpt)
  | drainExw (x : Fin 2) (o : View) (src : BitVec 32) (origin tag : Word) (done : SemOpt)
  | drainAdd (x : Fin 2) (o : View) (src dst : BitVec 32) (tag : Word) (done : SemOpt)
  | save (x : Fin 2) (off : BitVec 32) (done : SemOpt)
  | load (x : Fin 2) (off : BitVec 32) (done : SemOpt)
  | skt (a b : View) (desc : BitVec 32) (ace : Bool) (acvt : BitVec 4) (origin tag : Word) (done : SemOpt)
deriving DecidableEq, Repr

/-- The three junction operations (R197). -/
inductive JOp where
  | spmm | spdot | bag
deriving DecidableEq, Repr

/-- A command in the queue of the junction engine. -/
inductive JctCmd where
  | route (l : LayJ) (s t : View) (thr : BitVec 16)
  | mm (op : JOp) (m : MmCmd) (d : LayD) (exwOff desc : BitVec 32) (weighted : Bool)
  | drain (o : View) (origin tag : Word) (done : SemOpt)
deriving DecidableEq, Repr

/-- The operations of the vector unit (R354). -/
inductive VOp where
  | add | mul | fma | max | exp | rsqrt | cvt | reduce | norm2 | ld | st
deriving DecidableEq, Repr

/-- A command in the queue of the vector unit; `rmode` and `ovf` are those that govern the output conversion. -/
structure VecCmd where
  op : VOp
  d : View
  x : View
  y : View
  z : View
  scal : Bool
  sval : BitVec 32
  rmode : Nat
  ovf : Bool
  seed : BitVec 32
  stw : Option (BitVec 32)
  done : SemOpt
  opt : BitVec 6
  gd : Fin 32
  index : Word
deriving DecidableEq, Repr

/-- A command in the sketch sequencing queue; `pass` stands for the entry that `skt.pass` takes there (R217). -/
inductive SktCmd where
  | pass (a : Fin 2)
  | select (desc : BitVec 32) (done : SemOpt)
  | audit (desc : BitVec 32) (tag : Word) (done : SemOpt)
deriving DecidableEq, Repr

/-- A command in the signal-box, queue and dispatch command queue (R307, R297, R255). -/
inductive SynCmd where
  | semAdd (core : Fin 16) (n : Fin 64) (amt : BitVec 32)
  | semSub (core : Fin 16) (n : Fin 64) (amt : BitVec 32)
  | semWait (core : Fin 16) (n : Fin 64) (tgt tmo : BitVec 32) (pd : Fin 8)
  | semTake (core : Fin 16) (n : Fin 64) (tgt tmo : BitVec 32) (pd : Fin 8)
  | semRead (core : Fin 16) (n : Fin 64) (gd : Fin 32)
  | barArrive (k : Fin 8)
  | barWait (k : Fin 8) (tmo : BitVec 32) (pd : Fin 8)
  | dspTake (k : Fin 16) (retire : Bool) (gd : Fin 32)
  | dspLimit (k : Fin 16) (v : BitVec 32)
  | dspNext (k : Fin 16) (v : BitVec 32)
  | dspRetire (k : Fin 16)
  | qPush (q : Fin 8) (sop eop : Bool) (v : Word)
  | qPop (q : Fin 8) (gd : Fin 32)
deriving DecidableEq, Repr

/-- The moving stream commands of R259. -/
inductive StrKind where
  | load | store | gather | mcast
deriving DecidableEq, Repr

/-- A moving stream command as captured at issue (R262). -/
structure MoveCmd where
  kind : StrKind
  src : View
  dst : View
  idx : Option View
  queue : Option (Fin 8)
  count : BitVec 32
  sstrict : Bool
  merge : Bool
  lite : Bool
  done : SemOpt
  esem : SemOpt
  prog : SemOpt
  msem : SemOpt
  pgran : Nat
  gkind : Bool
  grp : BitVec 8
deriving DecidableEq, Repr

/-- A command in the queue of the stream engine. -/
inductive StrCmd where
  | move (slot : Fin 16) (m : MoveCmd)
  | rate (slot : Fin 16) (v : BitVec 28)
  | resume (slot : Fin 16)
  | abort (slot : Fin 16)
deriving DecidableEq, Repr

/-- What a fence marker waits for (R285). -/
inductive FenceCond where
  | sem (n : Fin 64) (tgt : BitVec 32)
  | drain (mask : BitVec 7)
deriving DecidableEq, Repr

/-- One entry of a command queue: a command with its text offset and issue number, or a fence marker. -/
inductive QItem (α : Type) where
  | cmd (seq : Nat) (pc : BitVec 32) (x : α)
  | fence (seq : Nat) (f : FenceCond)
deriving DecidableEq, Repr

/-! ### Stream slots -/

/-- STATE of a slot (R293). -/
inductive SlotSt where
  | idle | running | paging | stopped | aborting
deriving DecidableEq, Repr

/-- What a request moves: the array of the view that it belongs to (the ARRAY codes of R293). -/
inductive ReqArr where
  | elems | ptrs | idxs | bitmap | scales
deriving DecidableEq, Repr

/-- One request: a piece of a run with its source and its destinations (R264, R280).
`lo` bits of the first byte lie before the view and `bits` bits of the last byte belong to it (R56); `run` numbers the progress run; the index fields give the position of its first byte. -/
structure Req where
  src : Nat
  len : Nat
  dsts : List Nat
  lo : Nat
  bits : Nat
  arr : ReqArr
  run : Nat
  i0 : Nat
  i1 : Nat
  i2 : Nat
  i3 : Nat
  i4 : Nat
  /-- An index read of a gather: 0 for off[0], 1 for off[EXT1], `2 + j` for the indices from entry `j` (R272). -/
  index : Option Nat
deriving DecidableEq, Repr

/-- One transfer: its number and the requests that it carries. -/
structure Xfer where
  no : Nat
  reqs : List Req
  /-- Whether it waits for an address translation (R376). -/
  ats : Bool
  /-- Whether it host-faulted (R290). -/
  hostFault : Bool
  /-- Rail messages that carry it and have not been answered (R395). -/
  owed : Nat
  /-- The translations that it uses, from page to page: none where the function's ATS is disabled (R376). -/
  trans : List (Nat × Nat)
  /-- The ATC entries that it uses: first page address and size (R377). -/
  used : List (Nat × Nat)
deriving DecidableEq, Repr

/-- A transfer that has not been on its way. -/
def Xfer.new (no : Nat) (reqs : List Req) : Xfer := ⟨no, reqs, false, false, 0, [], []⟩

/-- What a stream still has to learn before its whole plan is known: the indices of a gather as they arrive (R271 to R276), or the arrays of a sparse view that lies outside the part (R265). -/
structure GatherSt where
  off0 : Option Nat
  offN : Option Nat
  /-- Indices that have arrived and whose rows are not planned. -/
  idx : List (Nat × Nat)
  /-- The row whose index comes next. -/
  next : Nat
  /-- Whether the plan is whole. -/
  ended : Bool
  /-- Progress runs planned so far. -/
  rows : Nat
deriving DecidableEq, Repr

/-- One stream slot (R260, R282, R288 to R293). -/
structure Slot where
  st : SlotSt
  cause : BitVec 5
  saved : List Nat
  resumeNo : Nat
  i0 : BitVec 20
  i1 : BitVec 32
  i2 : BitVec 20
  i3 : BitVec 20
  i4 : BitVec 20
  array : BitVec 3
  bytes : BitVec 48
  irange : BitVec 32
  first : BitVec 32
  cmd : Option (Nat × BitVec 32 × MoveCmd)
  plan : List Req
  redo : List Xfer
  merge : List Req
  next : Nat
  out : List Xfer
  /-- Progress runs whose unit is not posted: run, requests not yet delivered, and the number behind its last transfer. -/
  runs : List (Nat × Nat × Nat)
  posts : Nat
  gather : GatherSt
  failing : Option (BitVec 5 × Nat)
  prg : Option (Nat × Nat)
  pages : List Nat
  poolWait : Bool
  /-- Whether the open merge has closed but could not issue yet (R280). -/
  closed : Bool
  /-- The issue number of the command that a running `str.abort` ended (R285, R289). -/
  aborted : Option Nat
  /-- Whether a failure of what is outstanding is a fault of a core that has faulted: its abandoned command names no ESEM (R514). -/
  lateFault : Bool
  rate : BitVec 16
  burst : BitVec 12
  /-- Tokens in the bucket in units of 1/256 byte (R283). -/
  bucket : Nat
deriving DecidableEq, Repr

/-! ### Tiles and drains -/

/-- What a tile carries to its drain: its declarations and its reports so far. -/
structure TileInfo where
  acc : Acc
  exact' : Bool
  exwMode : BitVec 2
  exwOff : Nat
  rmode : Nat
  ovf : Bool
  epi : List Byte
  dual : Bool
  m : Nat
  n : Nat
  flags : BitVec 13
  viol : Nat
  vpos : BitVec 32
  conv : Nat
deriving DecidableEq, Repr

/-- A tile in progress in a context or in the junction engine. -/
structure Tile where
  info : TileInfo
  cells : List Cell
  /-- The chunk counter of the bank (R119), held at 4,097, where BOUND is set (R100). -/
  cnt : BitVec 13
  knext : Nat
  b16 : Bool
  firstDone : Bool
  /-- Extents of `cells`. -/
  m : Nat
  n : Nat
  /-- In-bounds extents: those of the command that runs, or ran last (R144). -/
  bm : Nat
  bn : Nat
  /-- Whether `arr.load` restored it and no command has continued it yet (R158). -/
  loaded : Bool
deriving DecidableEq, Repr

/-- What a finished bank or a drain command waits for. -/
inductive JobKind where
  | chunk | final | exw | exwAdd
deriving DecidableEq, Repr

/-- A finished bank on its way through the drain unit, or an ExW form of `arr.drain` (R129, R155). -/
structure DrainJob where
  kind : JobKind
  ctx : Fin 2
  seq : Nat
  pc : BitVec 32
  info : TileInfo
  cells : List Cell
  first : Bool
  o : View
  origin : Word
  tag : Word
  done : SemOpt
  src : Nat
  dst : Nat
  /-- Blocks that the feeders still issue before the pass or chunk ends (R129, R138); a junction tile counts as one. -/
  left : Nat
deriving DecidableEq, Repr

/-- A fault that the array or the junction engine raises at its fault point (R180, R181). -/
structure FaultPt where
  ctx : Fin 2
  pc : BitVec 32
  tag : Word
  /-- Each fault code with its position word, ascending. -/
  recs : List (BitVec 16 × BitVec 32)
  suppressed : Nat
deriving DecidableEq, Repr

/-- A configured context (R349). -/
structure CtxCfg where
  l : LayC
  exwOff : Nat
  /-- CLM offset of the epilogue descriptor (R149). -/
  desc : BitVec 32
  epi : List Byte
  /-- Whether the read of the epilogue descriptor corrected an error (R509). -/
  corr : Bool
deriving DecidableEq, Repr

/-- One context of a grid array. -/
structure ArrCtx where
  cfg : Option CtxCfg
  tile : Option Tile
deriving DecidableEq, Repr

/-- A sketch pass on its way to its bound rows (R219 to R221). -/
structure SktRun where
  seq : Nat
  pc : BitVec 32
  desc : List Byte
  info : TileInfo
  cells : List Cell
  origin : Word
  tag : Word
  done : SemOpt
deriving DecidableEq, Repr

/-- A save on its way to CLM (R156). -/
structure SaveRun where
  seq : Nat
  pc : BitVec 32
  ctx : Fin 2
  off : Nat
  bytes : List Byte
  done : SemOpt
deriving DecidableEq, Repr

/-- A FREE post that the feeders still owe: its issue number and semaphore. -/
abbrev FreeDue := Nat × SemOpt

/-- One slot of a row or column path (R121). An element that is none has PAD = 1; `index` is META, in N:M mode only. -/
structure PathSlot where
  valid : Bool
  data : List (Option El)
  index : List Nat
  eob : Bool
  scale : BitVec 8
  swap : Bool
  bank : Bool
  ctx : Fin 2
deriving DecidableEq, Repr

/-- The block register of a cell with its sticky bits NAN, PINF and NINF (R88, R90, R119). -/
structure CellRegs where
  sum : BitVec 72
  nan : Bool
  pinf : Bool
  ninf : Bool
deriving DecidableEq, Repr

/-- The operand registers, group latches and block registers of an array's cells (R119): every cell of a row holds the row's A slot, every cell of a column the column's B slot. -/
structure CellPipe where
  rows : List PathSlot
  cols : List PathSlot
  /-- The dense operand's group of each lane, in N:M mode. -/
  latch : List (List (Option El))
  /-- In raster order over the extents of the command. -/
  regs : List CellRegs
deriving DecidableEq, Repr

/-- One grid array (R118, R119, R137). -/
structure GridArray where
  dual : Bool
  ctx : Vector ArrCtx 2
  /-- The context whose block the feeders took last (R138). -/
  last : Fin 2
  /-- The bank of each context that its block partials enter (R121, R129). -/
  bank : Vector Bool 2
  /-- Blocks that the feeders still issue for a context after its jobs: those of its commands with END = 0 that end no chunk (R138). -/
  owed : Vector Nat 2
  pipe : CellPipe
  /-- FREE posts that the feeders owe, each with its context. -/
  frees : List (Fin 2 × FreeDue)
  todo : List DrainJob
  jobs : List DrainJob
  saving : Option SaveRun
  skt : Option SktRun
  fault : Option FaultPt
deriving DecidableEq, Repr

/-- A bag command whose rows the junction engine has not read yet (R195): for each bag, the gathered row and the weight of every entry that is not skipped. -/
structure BagRun where
  seq : Nat
  pc : BitVec 32
  m : MmCmd
  ents : List (List (Nat × El))
  rowsem : Fin 64
deriving DecidableEq, Repr

/-- The declarations of a junction tile (R192, R353). -/
structure JctDecl where
  op : JOp
  d : LayD
  exwOff : BitVec 32
  /-- CLM offset of the epilogue descriptor (R149, R192). -/
  desc : BitVec 32
  ext1 : Nat
  cols : Nat
  /-- Entries of each bag that are not skipped, so far (R206). -/
  counts : List Nat
deriving DecidableEq, Repr

/-- The junction engine (R184). -/
structure Junction where
  tile : Option (Tile × JctDecl)
  bag : Option BagRun
  frees : List FreeDue
  todo : List DrainJob
  jobs : List DrainJob
  routes : List (Nat × Fin 8 × Fin 32 × Bool × Word)
  fault : Option FaultPt
deriving DecidableEq, Repr

/-! ### The sequencer -/

/-- A hardware loop record (R342): first word and end of its body, and the repeats left. -/
structure LoopRec where
  start : Nat
  stop : Nat
  left : Nat
deriving DecidableEq, Repr

/-- A result on its way to a pending destination (R339): the value, or none while it is not known. -/
structure Result where
  seq : Nat
  rd : Fin 32
  val : Word
  /-- The counter of a `dsp.take` result (R249). -/
  dsp : Option (Fin 16)
deriving DecidableEq, Repr

/-- The sequencer's outstanding wait (R307, R316). -/
structure Wait where
  kind : BitVec 2
  sem : Fin 64
  core : Fin 16
  tgt : BitVec 32
  timed : Bool
  pd : Fin 8
  /-- Whether the wait has reached the box (R311). -/
  arrived : Bool
deriving DecidableEq, Repr

/-- What a core does for its task. -/
inductive RunSt where
  | idle | running | halting | faulting | halted
deriving DecidableEq, Repr

/-- The section that a core runs (R40, R42, R44); offsets are CLM byte offsets. -/
structure Section where
  part : Fin 8
  task : BitVec 16
  index : BitVec 16
  textLen : Nat
  workOff : Nat
  workLen : Nat
  exwOff : Nat
  exwLen : Nat
  semMask : Word
  slotMask : BitVec 16
  queueMask : BitVec 8
  barMask : BitVec 8
  counterMask : BitVec 16
  entrySems : List (BitVec 32)
deriving DecidableEq, Repr

/-- One barrier channel of a core (R320). -/
structure Bar where
  arr : Bool
  gen : BitVec 32
  tgt : BitVec 32
deriving DecidableEq, Repr

/-- Who pushed a word that waits at a full queue. -/
structure HeldPush where
  word : Word
deriving DecidableEq, Repr

/-- The ECC state of a queue word (R301). -/
inductive WordEcc where
  | good | corr | unc
deriving DecidableEq, Repr

/-- One hardware queue (R295, R298, R302). `words` are the words held, oldest first, each with its check state;
`vis` of them are visible; `held` wait in the holding register and the fabric channel. -/
structure HwQueue where
  words : List (Word × WordEcc)
  rd : BitVec 9
  wr : BitVec 9
  vis : Nat
  opened : Bool
  /-- Words of the open packet written so far. -/
  openLen : Nat
  /-- Whether the open packet has become visible (R298). -/
  openVis : Bool
  /-- CUT as it stood when the open packet began (R302). -/
  openCut : BitVec 8
  frame : Bool
  corr : BitVec 16
  badpush : BitVec 16
  cut : BitVec 8
  nsem : Fin 64
  nen : Bool
  held : List HeldPush
deriving DecidableEq, Repr

/-- One reservation of a pool context (R326). -/
structure Resv where
  min : Nat
  hr : Nat
  hs : Nat
  /-- The core and slot that hold it. -/
  core : CoreId
  slot : Fin 16
deriving DecidableEq, Repr

/-- One pool context (R326). -/
structure Pool where
  lo : Nat
  hi : Nat
  free : Nat
  waiting : BitVec 16
  overrel : BitVec 16
  resv : List Resv
deriving DecidableEq, Repr

/-- PSTATE of a core (R487). -/
inductive PState where
  | run | gated | collapsed | reset
deriving DecidableEq, Repr

/-- FRING_STAT (R514). -/
structure FRing where
  first : BitVec 16
  count : BitVec 16
  suppressed : BitVec 8
  faulted : Bool
  halted : Bool
deriving DecidableEq, Repr

/-- What of a core shows activity in the sense of R330, as it stood at a tick of ACLK: the program counter and the issue number, results and waits, command queues, engines, slots, semaphores, queues, barriers and pools. -/
structure CoreAct where
  pc : BitVec 32
  seq : Nat
  results : List Result
  wait : Option Wait
  left : List Nat
  slots : Vector Slot 16
  ga : Vector GridArray 2
  jx : Junction
  vec : Option (Nat × BitVec 32 × VecCmd)
  skt : Option (Nat × BitVec 32 × SktCmd)
  sems : Vector (BitVec 32) 64
  bars : Vector Bar 8
  queues : Vector HwQueue 8
  pools : Vector (Option Pool) 4
deriving DecidableEq, Repr

/-- The state of one core. -/
structure Core where
  g : Vector Word 32
  p : Vector Bool 8
  d : Vector Leg 32
  pc : BitVec 32
  ret : List (BitVec 32)
  loops : List LoopRec
  seq : Nat
  results : List Result
  stalled : Option Instr
  wait : Option Wait
  run : RunSt
  sect : Option Section
  /-- CYCLE in quarter cycles of CCLK (R27, R484). -/
  cycleQ : Nat
  tsrRing : Word
  tsrCount : BitVec 32
  flagsSum : BitVec 13
  taskInfo : BitVec 32
  partition : Fin 8
  qStr : List (QItem StrCmd)
  qGa : Vector (List (QItem ArrCmd)) 2
  qJx : List (QItem JctCmd)
  qVec : List (QItem VecCmd)
  qSkt : List (QItem SktCmd)
  qSyn : List (QItem SynCmd)
  slots : Vector Slot 16
  /-- The slot that takes the lead among those that have a transfer ready (R261). -/
  lead : Fin 16
  ga : Vector GridArray 2
  jx : Junction
  vec : Option (Nat × BitVec 32 × VecCmd)
  skt : Option (Nat × BitVec 32 × SktCmd)
  /-- Reached fence markers and the bag command whose condition a value of the semaphore has met that it no longer has: engine and issue number (R285, R311). -/
  met : List (Engine × Nat)
  sems : Vector (BitVec 32) 64
  /-- Semaphores whose FCLK cycle still takes updates (R311): the model's own field, in use only while a step combines the updates of a cycle. -/
  boxOpen : BitVec 64
  semQ : Vector (Fin 16) 64
  badPost : BitVec 16
  bars : Vector Bar 8
  queues : Vector HwQueue 8
  pools : Vector (Option Pool) 4
  routeCsr : Word
  routeB8 : Word
  routeB16 : Word
  routeBmp : Word
  routeDot : Word
  waitCfg : Word
  fring : FRing
  pstate : PState
  step : Nat
  /-- The step that fits the core's own share, as the last control step found it (R334, R491). -/
  own : Nat
  resetting : Bool
  /-- The activity picture of the last ACLK tick (R330). -/
  seen : Option CoreAct
  /-- Whether the core has shown an activity since that tick that the picture need not show: a changed semaphore, a push or a pop, a release (R330). -/
  moved : Bool
  /-- ACLK cycles without activity (R330). -/
  still : Nat
  /-- ACLK cycles that the core has been waiting (R332, R333). -/
  waited : Nat
deriving DecidableEq, Repr

/-! ### Reset values -/

/-- The gather state of a slot that gathers nothing. -/
def GatherSt.reset : GatherSt := ⟨none, none, [], 0, false, 0⟩

/-- A slot at its Reset column (R293) with its regulator off (R282). -/
def Slot.reset : Slot where
  st := .idle
  cause := 0
  saved := []
  resumeNo := 0
  i0 := 0
  i1 := 0
  i2 := 0
  i3 := 0
  i4 := 0
  array := 0
  bytes := 0
  irange := 0
  first := 0xFFFFFFFF
  cmd := none
  plan := []
  redo := []
  merge := []
  next := 0
  out := []
  runs := []
  posts := 0
  gather := GatherSt.reset
  failing := none
  prg := none
  pages := []
  poolWait := false
  closed := false
  aborted := none
  lateFault := false
  rate := 0
  burst := 0
  bucket := 0

/-- An array with both contexts unconfigured, in single-context mode (R349). DESIGN CHOICE (log 167): `.c1` counts as taken last, so `.c0` goes first (R138); an empty pipe holds bubbles. -/
def GridArray.reset : GridArray :=
  ⟨false, Vector.replicate 2 ⟨none, none⟩, 1, Vector.replicate 2 false, Vector.replicate 2 0, ⟨[], [], [], []⟩, [], [], [], none, none, none⟩

/-- A junction engine that holds no tile (R45). -/
def Junction.reset : Junction := ⟨none, none, [], [], [], [], none⟩

/-- A barrier channel at task entry (R320). -/
def Bar.reset : Bar := ⟨false, 0, 0⟩

/-- An empty queue (R302). -/
def HwQueue.reset : HwQueue := ⟨[], 0, 0, 0, false, 0, false, 0, false, 0, 0, 0, 0, false, []⟩

/-- FRING_STAT at its Reset column. -/
def FRing.reset : FRing := ⟨0, 0, 0, false, false⟩

/-- ROUTE_CSR at reset (R189). -/
def routeCsrReset : Word := 0x06660CCD0CCD

/-- ROUTE_BCSR8 at reset (R189). -/
def routeB8Reset : Word := 0x072B0E140E14

/-- ROUTE_BCSR16 at reset (R189). -/
def routeB16Reset : Word := 0x076D0ED90ED9

/-- ROUTE_BITMAP at reset (R189). -/
def routeBmpReset : Word := 0x05A20B440B44

/-- ROUTE_SPDOT at reset (R189). -/
def routeDotReset : Word := 0x001A00340069

/-- WAITCFG at reset: STALL_LIMIT 500,000, WAIT_LEND 100, LEND_EN 1 (R334). -/
def waitCfgReset : Word := 0x100640007A120

/-- A core after reset. The general registers, predicates and PC have no stated reset value: DESIGN CHOICE, zero (p0 reads 1 through its accessor). -/
def Core.reset : Core where
  g := Vector.replicate 32 0
  p := Vector.replicate 8 false
  d := Vector.replicate 32 0
  pc := 0
  ret := []
  loops := []
  seq := 0
  results := []
  stalled := none
  wait := none
  run := .idle
  sect := none
  cycleQ := 0
  tsrRing := 0
  tsrCount := 0
  flagsSum := 0
  taskInfo := 0
  partition := 0
  qStr := []
  qGa := Vector.replicate 2 []
  qJx := []
  qVec := []
  qSkt := []
  qSyn := []
  slots := Vector.replicate 16 Slot.reset
  lead := 0
  ga := Vector.replicate 2 GridArray.reset
  jx := Junction.reset
  vec := none
  skt := none
  met := []
  sems := Vector.replicate 64 0
  boxOpen := 0
  semQ := Vector.replicate 64 0
  badPost := 0
  bars := Vector.replicate 8 Bar.reset
  queues := Vector.replicate 8 HwQueue.reset
  pools := Vector.replicate 4 none
  routeCsr := routeCsrReset
  routeB8 := routeB8Reset
  routeB16 := routeB16Reset
  routeBmp := routeBmpReset
  routeDot := routeDotReset
  waitCfg := waitCfgReset
  fring := FRing.reset
  pstate := .run
  step := 0
  own := 0
  resetting := false
  seen := none
  moved := false
  still := 0
  waited := 0

end Sys2Proof.Machine
end

