-- ==== Sys2Proof/Machine/Memory.lean ====
section
/-! DEFINITION. Memory: a list of (local device address, byte) pairs in one canonical form, and reads and writes of one byte and of byte strings (R7, R357). -/

namespace Sys2Proof.Machine

/-- The contents of every addressed memory of the part by local device address (R357):
Tier N, Tier F, the depots and the CLMs. Ascending by address, no entry equal to what an unlisted address reads as. -/
structure Memory where
  cells : List Host.Cell
deriving DecidableEq, Repr

/-- What an address that no entry lists reads as. DESIGN CHOICE: 0; the spec gives no contents after power-on. -/
def Memory.unlisted : Byte := 0

/-- Read one byte of a cell list. -/
def cellGet : List Host.Cell → Nat → Byte
  | [], _ => Memory.unlisted
  | (k, v) :: rest, a => if k = a then v else if a < k then Memory.unlisted else cellGet rest a

/-- Write one byte of a cell list, keeping the canonical form. -/
def cellSet : List Host.Cell → Nat → Byte → List Host.Cell
  | [], a, b => if b = Memory.unlisted then [] else [(a, b)]
  | (k, v) :: rest, a, b =>
    if a < k then (if b = Memory.unlisted then (k, v) :: rest else (a, b) :: (k, v) :: rest)
    else if k = a then (if b = Memory.unlisted then rest else (a, b) :: rest)
    else (k, v) :: cellSet rest a b

/-- The canonical form above a lower bound: addresses strictly rising, no entry at the unlisted value. -/
def cellsWf : Nat → List Host.Cell → Bool
  | _, [] => true
  | lo, (k, v) :: rest => decide (lo ≤ k) && decide (v ≠ Memory.unlisted) && cellsWf (k + 1) rest

/-- Read one byte. -/
def Memory.get (m : Memory) (a : Nat) : Byte := cellGet m.cells a

/-- Write one byte. -/
def Memory.set (m : Memory) (a : Nat) (b : Byte) : Memory := ⟨cellSet m.cells a b⟩

/-- The canonical form of the memory. -/
def Memory.wf (m : Memory) : Bool := cellsWf 0 m.cells

/-- Memory with nothing listed. -/
def Memory.empty : Memory := ⟨[]⟩

/-- Read `n` bytes from `a` upward. -/
def Memory.read (m : Memory) (a n : Nat) : List Byte := (List.range n).map (fun i => m.get (a + i))

/-- Read an `n`-byte little-endian number (R7). -/
def Memory.readN (m : Memory) (a n : Nat) : Nat := ofLE (m.read a n)

/-- Write a byte string from `a` upward. -/
def Memory.write (m : Memory) (a : Nat) : List Byte → Memory
  | [] => m
  | b :: bs => (m.set a b).write (a + 1) bs

/-- Write the low `bits` bits of the byte at `a`, leaving the others (R56). -/
def Memory.setBits (m : Memory) (a lo bits : Nat) (v : Nat) : Memory :=
  let old := (m.get a).toNat
  let keep := old - (old >>> lo) % 2 ^ bits * 2 ^ lo
  m.set a (BitVec.ofNat 8 (keep + (v % 2 ^ bits) <<< lo))

/-- Remove every entry in `[lo, hi)`: the range then reads 0. -/
def Memory.zero (m : Memory) (lo hi : Nat) : Memory :=
  ⟨m.cells.filter (fun c => decide (c.1 < lo) || decide (hi ≤ c.1))⟩

/-- The part of a memory that lies in one of two ranges `[lo, hi)`. -/
def Memory.within (m : Memory) (lo hi lo' hi' : Nat) : Memory :=
  ⟨m.cells.filter (fun c => decide (lo ≤ c.1 ∧ c.1 < hi ∨ lo' ≤ c.1 ∧ c.1 < hi'))⟩

/-- Replace every listed byte in `[lo, hi)` by what `f` gives for its address. -/
def Memory.scramble (m : Memory) (lo hi : Nat) (f : Nat → Byte) : Memory :=
  ⟨m.cells.filterMap (fun c =>
    if lo ≤ c.1 ∧ c.1 < hi then (if f c.1 = Memory.unlisted then none else some (c.1, f c.1)) else some c)⟩

end Sys2Proof.Machine
end

