-- ==== Sys2Proof/Machine/PkgState.lean ====
section
/-! DEFINITION. The state of the package: fuses and pins, registers, host functions, tasks, Rail, group, security, power and management. -/

namespace Sys2Proof.Machine

/-! ### What the part sends -/

/-- A group message of the firmware; the spec gives these messages no layout (R391). -/
inductive GroupMsg where
  | work (w : WorkList)
  | done (epoch : BitVec 32) (slot : BitVec 16) (step : BitVec 16)
  | heartbeat (epoch : BitVec 32) (fault : Bool)
  | epoch (m : EpochMsg)
  | ack (epoch : BitVec 32)
  | survey (num : Nat) (epoch : BitVec 32)
  | reply (num : Nat) (epoch : BitVec 32) (lo hi : Leg) (count : Nat)
  | digestAsk (num : Nat)
  /-- Arrivals of these parts, combined on their way up the tree (R425). -/
  | arrival (k : Fin 8) (epoch : BitVec 32) (srcs : List (BitVec 12))
  | release (k : Fin 8) (epoch : BitVec 32)
  /-- The answer to the lead's direct question (R431). -/
  | digest (num : Nat) (d : Leg)
  /-- Reduction contexts for a part (R432). -/
  | arm (ctx : List (Fin 64 × Leg))
  /-- A job, for a part that holds none of its slots (R429). -/
  | job (n : Nat)
deriving DecidableEq, Repr

/-- What the part sends out of itself. -/
inductive Out where
  /-- Bytes written to host memory in a function's domain. -/
  | hostWrite (fn : Fin 9) (addr : Nat) (data : List Byte)
  /-- A read request to host memory. -/
  | hostRead (fn : Fin 9) (addr len : Nat)
  /-- Bytes written to host memory at a Translated Address (R376). -/
  | hostWriteTr (fn : Fin 9) (addr : Nat) (data : List Byte)
  /-- A read request to host memory at a Translated Address (R376). -/
  | hostReadTr (fn : Fin 9) (addr len : Nat)
  /-- A completion of a host read of device memory; `ep` marks it poisoned (R519). -/
  | readData (fn : Fin 9) (data : List Byte) (ep : Bool)
  /-- A completion with Unsupported Request. -/
  | unsupported (fn : Fin 9)
  /-- A completion of a configuration request with Request Retry Status (R499). -/
  | retry (fn : Fin 9)
  /-- An MSI-X message. -/
  | msix (fn : Fin 9) (vec : Nat)
  /-- An ATS Translation Request. -/
  | atsRequest (fn : Fin 9) (addr : Nat) (write : Bool)
  /-- A Page Request message. -/
  | pageRequest (fn : Fin 9) (prg : Nat) (addr : Nat) (write last : Bool)
  /-- An ATS Invalidate Completion. -/
  | invalidateComplete (fn : Fin 9) (tag : Nat)
  /-- A car sent on a link. -/
  | car (l : Fin 72) (bytes : List Byte)
  /-- A group message to a part. -/
  | group (dst : BitVec 12) (m : GroupMsg)
  /-- An SPDM, TDISP or IDE_KM answer: whether the request was accepted, and its data. -/
  | spdm (r : Requester) (ok : Bool) (data : List Byte)
  /-- A PLDM answer: completion code and data. -/
  | pldm (code : Nat) (data : List Byte)
  /-- An SPDM request of the part, as requester, on a Rail port (R464, R471). -/
  | spdmAsk (port : Fin 18)
  /-- A PLDM event about a boot that failed (R501): 0 firmware, 1 the board configuration record, 2 a Tier N stack, 3 Tier F. -/
  | pldmEvent (kind : Nat)
  /-- A TLP that travels in its function's IDE stream, which is secure (R471). -/
  | secured (o : Out)
  /-- An answer of the debug access port: the identification code, an access within the scope, or none. -/
  | debug (granted : Bool)
deriving DecidableEq, Repr

/-! ### Tasks and host functions -/

/-- A task of the part (R44, R49). -/
structure Task where
  num : BitVec 16
  part : Fin 8
  /-- The function that loaded it (R448). -/
  fn : Fin 9
  /-- Physical die of each logical die, in order (R44). -/
  dies : List (Fin 8)
  /-- The cores that hold its sections, in section order. -/
  cores : List CoreId
  aborted : Bool
  /-- Whether its task-end record is discarded (R435). -/
  discard : Bool
  /-- DEPOT_BYTES of each logical die. -/
  depot : List Nat
  /-- Digest of its image (R38). -/
  digest : List Byte
  /-- SHA-384 of its image's mapping table, or of zero bytes (R429). -/
  mapDigest : List Byte
  /-- ISA generation of its image. -/
  gen : Byte
deriving DecidableEq, Repr

/-- One entry of the address translation cache (R377), most recently used first in its list. -/
structure AtcEntry where
  fn : Fin 9
  page : Nat
  size : Nat
  /-- The Translated Address of `page`. -/
  dst : Nat
  rd : Bool
  wr : Bool
deriving DecidableEq, Repr

/-- The TDISP state of a VF's interface (R472). -/
inductive TdiSt where
  | unlocked | locked | run | error
deriving DecidableEq, Repr

/-- A completion entry that waits for its ring (R447, R448); TIME and EPOCH are filled when it is written. -/
structure CqEntry where
  cid : BitVec 16
  kind : Byte
  aborted : Bool
  unbalanced : Bool
  status : BitVec 16
  task : BitVec 16
  detail : BitVec 32
  faulted : BitVec 16
  flagsSum : BitVec 32
  /-- The partition of a task-end entry. -/
  part : Option (Fin 8)
deriving DecidableEq, Repr

/-- A fetched submission (R444). -/
structure Submission where
  op : Byte
  cid : BitVec 16
  part : Byte
  arg0 : Word
  arg1 : Word
  arg2 : Word
  /-- Whether a reset of its function has taken its completion entry from it (R435). -/
  mute : Bool
deriving DecidableEq, Repr

/-- A LOAD that has passed step 1 of R43 and holds its partition (R556). -/
structure LoadJob where
  fn : Fin 9
  sub : Submission
  part : Fin 8
  /-- Once every check has passed: the image and its argument blocks as the checks read them; the placement follows (R44, R557). -/
  checked : Option Memory
  /-- Whether an event has aborted it (R50), and whether its task-end record is discarded (R435). -/
  aborted : Bool
  discard : Bool
deriving DecidableEq, Repr

/-- The IDE stream of a function (R469, R471). -/
inductive IdeSt where
  | none | keyed | secure
deriving DecidableEq, Repr

/-- One host function: 0 the PF, f the VF of partition f − 1 (R435). -/
structure HostFn where
  sqBase : BitVec 52
  cqBase : BitVec 52
  sqSize : BitVec 4
  sqEn : Bool
  cqSize : BitVec 4
  cqEn : Bool
  sqHead : BitVec 12
  sqTail : BitVec 12
  cqHead : BitVec 12
  cqTail : BitVec 12
  phase : Bool
  ringErr : Bool
  bounds : BitVec 16
  badwr : BitVec 16
  vector : BitVec 7
  ithresh : BitVec 8
  itime : BitVec 16
  apBase : BitVec 18
  /-- Entries written since the last completion interrupt (R451). -/
  since : Nat
  held : List CqEntry
  fetched : List Submission
  msixMask : BitVec 128
  msixPend : BitVec 128
  /-- Address and data of the MSI-X table entries. -/
  msixTab : Vector (Word × BitVec 32) 128
  ats : Bool
  pri : Bool
  prAlloc : Nat
  /-- AER Uncorrectable Error Status (R434). -/
  aer : BitVec 32
  /-- PRG indices in use, with the number of page requests of each group (R290, R436). -/
  prgs : List (Nat × Nat)
  ide : IdeSt
  /-- Log2 of the size of BAR2 (R442). -/
  bar2 : Nat
deriving DecidableEq, Repr

/-! ### Rail (chapter 14) -/

/-- One car (R390). -/
structure Car where
  dst : BitVec 12
  src : BitVec 12
  epoch : BitVec 16
  typ : BitVec 4
  vc : Fin 4
  dl : Bool
  len : Byte
  seq : BitVec 11
  ack : BitVec 11
  nak : Bool
  cvc : Fin 4
  cdl : Bool
  ccnt : BitVec 5
  ver : BitVec 2
  tags : Byte
  crc : BitVec 32
  payload : List Byte
deriving DecidableEq, Repr

/-- The state of a link (R409). -/
inductive LinkSt where
  | disabled | training | keying | up | retrain | failed
deriving DecidableEq, Repr

/-- A link key, by a name of the model's own, with the first group that is sent and the first that is received under it: the group counter of each direction counts from there (R400, R402). -/
structure LinkKey where
  name : Nat
  tx : Nat
  rx : Nat
deriving DecidableEq, Repr

/-- One link (R384, R396 to R402, R409). -/
structure Link where
  st : LinkSt
  slow : Bool
  peer : BitVec 12
  peerLink : Byte
  replays : BitVec 16
  fecUnc : BitVec 16
  auth : BitVec 16
  badCar : BitVec 16
  /-- Sent and not acknowledged, oldest first, in clear, each with its number since the keys were installed: SEQ is that number modulo 2,048 (R398). -/
  buf : List (Nat × Car)
  /-- Cars that wait for a credit or for room, each with the link and (VC, DL) whose receive buffer it still occupies while this part forwards it. -/
  txq : List (Car × Option (Fin 72 × Fin 8))
  /-- Number of the next car to send. -/
  next : Nat
  credit : Vector Nat 8
  /-- Tags of the groups sent last, newest first, each with its group counter (R400). -/
  tagsTx : List (Nat × List Byte)
  /-- Number of the car expected next. -/
  expect : Nat
  /-- Cars received in authenticated groups: ACK is this number less 1 (R398). -/
  authed : Nat
  nak : Bool
  /-- Whether the car expected has not arrived since a car was discarded, so that NAK repeats (R398). -/
  naking : Bool
  /-- Accepted cars that wait for their group's tag, oldest first (R401). -/
  heldRx : List Car
  /-- The tag of the oldest group that waits, once a TAG car has brought it. -/
  tagRx : Option (List Byte)
  /-- Credits to return for each (VC, DL). -/
  owe : Vector Nat 8
  /-- Replays of the oldest SEQ without ACK advancing (R399). -/
  tries : Nat
  /-- ACLK times at which the link entered RETRAIN in the last second (R399). -/
  retrains : List Nat
  /-- Consecutive wrong tags (R401). -/
  wrong : Nat
  /-- The key of the link; none until its keys are installed (R402). -/
  key : Option LinkKey
  /-- Key updates that both ends have agreed, newest first (R402). -/
  rekey : List LinkKey
deriving DecidableEq, Repr

/-- A port's configuration (R384, R387). -/
structure Port where
  en : Bool
  split : BitVec 2
  rate : Bool
  /-- Whether its SPDM session stands (R402). -/
  session : Bool
  /-- Whether this part, as the requester, has asked for a session that has not been settled (R471). -/
  asked : Bool
deriving DecidableEq, Repr

/-- A message as it reaches its destination (R393). -/
structure RailMsg where
  typ : BitVec 4
  dst : BitVec 12
  src : BitVec 12
  addr : Nat
  len : Nat
  rtag : BitVec 16
  rdc : Fin 64
  code : BitVec 4
  data : List Byte
  /-- Multicast group of an MCWRITE, and the link that its message came on. -/
  grp : Byte
  link : Fin 72
  /-- The (VC, DL) and the number of cars that it occupies in the receive buffer of the link (R396). -/
  ix : Fin 8
  cars : Nat
  /-- EPOCH of its first car, and whether the destination refuses it by R408. -/
  epoch : BitVec 16
  drop : Bool
deriving DecidableEq, Repr

/-- A message whose cars are still arriving, per (SRC, VC) (R394); MCWRITEs of one source are kept apart by their group. -/
structure Reasm where
  dst : BitVec 12
  src : BitVec 12
  vc : Fin 4
  drop : Bool
  /-- EPOCH of its first car (R408). -/
  epoch : BitVec 16
  typ : BitVec 4
  via : Fin 72
  ix : Fin 8
  cars : Nat
  bytes : List Byte
deriving DecidableEq, Repr

/-- A message that this part forwards (R394): its arrival link, the link that its first car took, and the bytes still to come. -/
structure Fwd where
  src : BitVec 12
  dst : BitVec 12
  vc : Fin 4
  via : Fin 72
  out : Option (Fin 72 × Bool)
  left : Nat
deriving DecidableEq, Repr

/-- Who waits for a response (R395). -/
inductive RemWait where
  | writes (c : CoreId) (n : Fin 16) (ts : List Nat)
  | read (c : CoreId) (n : Fin 16) (t : Nat)
  | ld (c : CoreId) (rd : Fin 32) (size : Nat) (sx : Bool) (pc : BitVec 32)
  | st (c : CoreId) (pc : BitVec 32)
deriving DecidableEq, Repr

/-- An outstanding request. -/
structure PendReq where
  tag : BitVec 16
  part : BitVec 12
  /-- The link that it left on. -/
  link : Fin 72
  addr : Nat
  who : RemWait
deriving DecidableEq, Repr

/-- A WRITE message that a slot is still filling (R395). -/
structure OpenMsg where
  c : CoreId
  n : Fin 16
  part : BitVec 12
  addr : Nat
  bytes : List Byte
  ts : List Nat
deriving DecidableEq, Repr

/-- A multicast write whose acknowledgements are outstanding (R405). -/
structure McWait where
  tag : BitVec 16
  src : BitVec 12
  from' : Option (Fin 72)
  need : List (Fin 72)
  /-- Whether this part's own write was not performed: it never acknowledges. -/
  refused : Bool
deriving DecidableEq, Repr

/-- A fired reduction context (R406): its own contribution, the pieces that its children have sent, and the pieces it has combined. -/
structure RedRun where
  ctx : Fin 64
  own : List Byte
  got : List (BitVec 12 × Nat × List Byte)
  doneTo : Nat
  result : List Byte
  /-- Whether it is poisoned and never completes (R519). -/
  dead : Bool
deriving DecidableEq, Repr

/-! ### Groups (chapter 15) -/

/-- States of a member (GRP_MEMBERn.STATE). -/
inductive MemSt where
  | joining | active | spare | excluded
deriving DecidableEq, Repr

/-- One entry of the member table (R413). -/
structure Member where
  part : BitVec 12
  st : MemSt
  miss : Nat
  /-- Whether a heartbeat arrived in the running millisecond (R426). -/
  heard : Bool
  acked : Bool
  /-- Its answer to a direct digest request (R431). -/
  digest : Option Leg
  links : Bool
  verified : Bool
deriving DecidableEq, Repr

/-- A job (R416, R449). -/
structure Job where
  fn : Fin 9
  addr : Nat
  slots : Nat
  steps : Nat
  step : Nat
  /-- The part of each slot (R416). -/
  map : List (BitVec 12)
  accepted : List Nat
  /-- Its number among the jobs of the lead (R429). -/
  num : Nat
deriving DecidableEq, Repr

/-- A survey in progress (R430). -/
structure Survey where
  num : Nat
  epoch : BitVec 32
  parent : Option (BitVec 12)
  lo : Leg
  hi : Leg
  count : Nat
  /-- Parts of the upper tier whose groups the replies have covered (R414). -/
  up : Nat
  wait : List (BitVec 12)
deriving DecidableEq, Repr

/-- A join that has not completed (R413, R445). -/
structure Join where
  part : BitVec 12
  fn : Fin 9
  cid : BitVec 16
  spare : Bool
  glead : Bool
  /-- Whether it completes without a completion entry (R435). -/
  mute : Bool
deriving DecidableEq, Repr

/-- GRP_STAT.STATE. -/
inductive GrpSt where
  | standalone | forming | running | remapping | orphan
deriving DecidableEq, Repr

/-- The state of the group firmware. -/
structure Group where
  role : BitVec 2
  strapErr : Bool
  part : Fin 8
  lead : BitVec 12
  surveyMs : BitVec 16
  upper : Bool
  topLead : BitVec 12
  st : GrpSt
  cons : Bool
  surveyFail : BitVec 16
  stale : BitVec 16
  digest : Leg
  members : List Member
  upperTab : List Member
  /-- ACTIVE members in ascending order, as the last epoch message or the table gives them (R415). -/
  tree : List (BitVec 12)
  /-- The tree of the upper tier at one of its group leads: the top lead and the other ACTIVE group leads (R414, R415). -/
  upTree : List (BitVec 12)
  /-- What the firmware has worked out for each part of the group: the configuration that the next epoch message carries (R427). -/
  plan : List (BitVec 12 × EpochMsg)
  job : Option Job
  heldWork : List WorkList
  /-- Millisecond boundaries that must still pass before the epoch may be raised again, and whether a raise is delayed (R423). -/
  raised : Nat
  delayed : Bool
  survey : Option Survey
  surveyNum : Nat
  asking : Bool
  joins : List Join
  leadMiss : Nat
  leadHeard : Bool
  taskFault : Bool
  /-- Barrier arrivals held, at the lead and at a part that has not arrived itself: channel and member (R425). -/
  arrivals : List (Fin 8 × BitVec 12)
  /-- The number of the last job that this part knows: it names the scale digest (R429). -/
  jobs : Nat
deriving DecidableEq, Repr

/-! ### Security, boot and management -/

/-- The owner record in the flash, with its HMAC-SHA-384 (R468). -/
structure Owner where
  ec : List Byte
  ml : List Byte
  only : Bool
  mac : List Byte
deriving DecidableEq, Repr

/-- One flash bank of a component (R455). -/
structure Bank where
  img : List Byte
  ok : Bool
deriving DecidableEq, Repr

/-- One component in flash (R455): its banks, which one is active, and whether the other awaits activation. -/
structure Component where
  a : Bank
  b : Bank
  useB : Bool
  verified : Bool
  pend : Bool
deriving DecidableEq, Repr

/-- The repair map of one array: up to two failed physical rows (R133). -/
structure Repair where
  a : Option (Fin 130)
  b : Option (Fin 130)
deriving DecidableEq, Repr

/-- Fused values (R133, R457, R530). -/
structure Fuses where
  variant : Fin 3
  vendor : BitVec 16
  stepping : Byte
  serial : List Byte
  /-- The unique device secret (R457). -/
  uds : List Byte
  /-- The repair map of each array: die, core, array. -/
  repair : Vector (Vector (Vector Repair 2) 16) 8
  svn : Nat
  imgEc : List Byte
  imgMl : List Byte
  fwEc : List Byte
  fwMl : List Byte
  dbgEc : List Byte
  dbgMl : List Byte
deriving DecidableEq, Repr

/-- Pins and supplies (R478, R481, R543, R546). -/
structure Pins where
  vaux : Bool
  /-- VIN is above the brown-out that the monitor holds (R483). -/
  vin : Bool
  pwrOk : Bool
  coldRst : Bool
  perst : Bool
  refclk : Bool
  strap : Byte
  sagN : Bool
  thermN : Bool
deriving DecidableEq, Repr

/-- The security engine and its firmware. -/
structure Sec where
  bankB : Bool
  /-- No firmware has passed R458. -/
  bootFail : Bool
  /-- The DeviceID certificates do not match the derived keys (R459). -/
  certFail : Bool
  /-- The read lock of the UDS (R457). -/
  udsLock : Bool
  /-- The boot ROM's working copy of the UDS, until it has derived the identity and erases it (R457, R459). -/
  romUds : Option (List Byte)
  /-- The DeviceID (R459). -/
  deviceId : List Byte
  /-- The locked Alias key pairs, until a debug unlock erases them (R459, R475). -/
  aliasLocked : List Byte
  /-- The debug Alias key pairs (R459). -/
  aliasDebug : List Byte
  /-- The key of the owner record's HMAC, which the security engine derives from the UDS (R468). -/
  ownerKey : List Byte
  fwSvn : Byte
  owner : Option Owner
  debug : Option Byte
  /-- Bit n: partition n holds live memory keys. -/
  keys : BitVec 8
  /-- The PKC's memory key pair is live (R469, R381). -/
  pkcKeys : Bool
  /-- Bit n: the key pair of partition n is destroyed, and its interface enters ERROR, as soon as no access of the partition is outstanding (R469, R470). -/
  dying : BitVec 8
  /-- Functions whose K_SET_STOP is answered once the memory keys that it destroys are gone (R469). -/
  kstops : List (Fin 9)
  /-- Bit n: a STOP_INTERFACE_REQUEST of VF n + 1 waits for the task to end (R472). -/
  stopping : BitVec 8
  /-- A debug unlock that waits for the tasks to end: who asked, and the scope (R475). -/
  unlock : Option (Requester × Byte)
  tdi : Vector TdiSt 8
  pm : Vector (List Byte) 8
  /-- Measurements 1 to 4 (R461). -/
  meas : Vector (List Byte) 4
  /-- The nonce that the part issued last, until a request uses it (R468, R475). -/
  nonce : Option (List Byte)
  /-- The session in which the part issued it, while that session stands (R475). -/
  nonceFor : Option Requester
  sessions : List Requester
deriving DecidableEq, Repr

/-- Power and thermal control (R481 to R493). -/
structure Power where
  cap : BitVec 7
  sag : Bool
  halved : Bool
  /-- The 100 µs hold after a clearing crossing runs (R482). -/
  hold : Bool
  power : Bool
  current : Bool
  therm : BitVec 8
  hot : BitVec 8
  sagCount : BitVec 16
  meas : Word
deriving DecidableEq, Repr

/-- The package. -/
structure Pkg where
  fuses : Fuses
  pins : Pins
  numVfs : Nat
  fns : Vector HostFn 9
  pcieUp : Bool
  tasks : List Task
  /-- LOADs that hold their partitions (R556). -/
  loads : List LoadJob
  /-- The function at which the rotating order of the fetches stands (R446). -/
  fetchTurn : Fin 9
  nextTask : BitVec 16
  atc : List AtcEntry
  /-- Pages for which the sequencers have an ATS Translation Request outstanding: function and page number (R376). -/
  atsAsked : List (Fin 9 × Nat)
  /-- ATS Invalidate Requests not completed: function, tag, and the transfers that still use an entry they removed (R377). -/
  invals : List (Fin 9 × Nat × List (CoreId × Fin 16 × Nat))
  legTab : List (BitVec 16 × List Leg)
  fwVer : Word
  /-- Version of the PKC firmware that has passed R458; ID_FWVER takes it at EARLY. -/
  fwRun : BitVec 32
  aclk : BitVec 64
  regSeq : BitVec 32
  level : BitVec 2
  tnFail : Bool
  failStack : BitVec 4
  tfFail : Bool
  cfgFail : Bool
  /-- Whether MEM_CFG has been set from the board configuration record since the cold reset (R367). -/
  cfgSet : Bool
  /-- Whether Tier F has trained, so that CAP_FEATURES.TIERF reads 1 at FULL (R52). -/
  tierF : Bool
  /-- CAP_FEATURES.RAIL (R52, R409). -/
  railUp : Bool
  strapStat : BitVec 9
  rstCause : BitVec 12
  rstLast : BitVec 4
  rstDie : BitVec 8
  rstCore : BitVec 7
  rstGo : Bool
  rstRefused : Bool
  bootLen : BitVec 25
  bootSt : BitVec 2
  bootWin : Memory
  intStat : BitVec 6
  intFault : BitVec 10
  pow : Power
  sec : Sec
  healthFatal : Bool
  healthReason : BitVec 8
  uncTotal : BitVec 16
  pkcCount : BitVec 32
  pkcRecs : List (List Byte)
  memCfg : Word
  eccCfg : Word
  eccNext : Word
  partMem : Vector Word 8
  barXpart : BitVec 8
  /-- Channels whose package arrival has been sent and not released (R325, R425). -/
  xArrived : BitVec 8
  railCfg : Word
  partId : BitVec 12
  epoch : BitVec 32
  torus : Word
  epochDrop : BitVec 32
  late : BitVec 16
  ports : Vector Port 18
  links : Vector Link 72
  mcg : Vector (BitVec 73) 256
  rdctx : Vector Leg 64
  gaz : List (Fin 4096 × BitVec 9)
  reasm : List Reasm
  fwds : List Fwd
  inbox : List RailMsg
  opens : List OpenMsg
  pends : List PendReq
  nextTag : BitVec 16
  mcWaits : List McWait
  reds : List RedRun
  grp : Group
  flash : Vector Component 3
  /-- The provisioning area of the flash: the DeviceID certificates (R459, R551). -/
  provision : List Byte
  i3c : Bool
  dynAddr : BitVec 7
  eid : Byte
deriving DecidableEq, Repr

/-! ### Reset values -/

/-- A host function at reset (R443). PRESUMED (PCIe): every MSI-X vector masked; ATS and PRI disabled; no allocation; table words 0. -/
def HostFn.reset : HostFn where
  sqBase := 0
  cqBase := 0
  sqSize := 0
  sqEn := false
  cqSize := 0
  cqEn := false
  sqHead := 0
  sqTail := 0
  cqHead := 0
  cqTail := 0
  phase := true
  ringErr := false
  bounds := 0
  badwr := 0
  vector := 0
  ithresh := 1
  itime := 0
  apBase := 0
  since := 0
  held := []
  fetched := []
  msixMask := BitVec.allOnes 128
  msixPend := 0
  msixTab := Vector.replicate 128 (0, 0)
  ats := false
  pri := false
  prAlloc := 0
  aer := 0
  prgs := []
  ide := .none
  bar2 := 36

/-- Credits of a link at its buffer sizes (R396). -/
def creditsFull : Vector Nat 8 := #v[192, 192, 192, 192, 96, 96, 32, 32]

/-- A link before its first training. -/
def Link.reset : Link where
  st := .disabled
  slow := false
  peer := 0
  peerLink := 0
  replays := 0
  fecUnc := 0
  auth := 0
  badCar := 0
  buf := []
  txq := []
  next := 0
  credit := creditsFull
  tagsTx := []
  expect := 0
  authed := 0
  nak := false
  naking := false
  heldRx := []
  tagRx := none
  owe := Vector.replicate 8 0
  tries := 0
  retrains := []
  wrong := 0
  key := none
  rekey := []

/-- A standalone part's group state. -/
def Group.reset : Group where
  role := 0
  strapErr := false
  part := 0
  lead := 0
  surveyMs := 0x64
  upper := false
  topLead := 0
  st := .standalone
  cons := false
  surveyFail := 0
  stale := 0
  digest := 0
  members := []
  upperTab := []
  tree := []
  upTree := []
  plan := []
  job := none
  heldWork := []
  raised := 0
  delayed := false
  survey := none
  surveyNum := 0
  asking := false
  joins := []
  leadMiss := 0
  leadHeard := false
  taskFault := false
  arrivals := []
  jobs := 0

/-- A run of zero bytes. -/
def zeros (n : Nat) : List Byte := List.replicate n 0

/-- Fuses. DESIGN CHOICE: an LDP-880 whose other fuses read 0. -/
def Fuses.reset : Fuses :=
  ⟨2, 0, 0, zeros 16, zeros 32, Vector.replicate 8 (Vector.replicate 16 (Vector.replicate 2 ⟨none, none⟩)), 0, zeros 48, zeros 48, zeros 48, zeros 48, zeros 48, zeros 48⟩

/-- Pins. DESIGN CHOICE: every supply in its window and the cold reset just released, with straps 0. -/
def Pins.reset : Pins := ⟨true, true, true, true, true, true, 0, true, true⟩

/-- The security state after a cold reset: no owner, debug locked, no keys. -/
def Sec.reset : Sec where
  bankB := false
  bootFail := false
  certFail := false
  udsLock := false
  romUds := none
  deviceId := []
  aliasLocked := []
  aliasDebug := []
  ownerKey := []
  fwSvn := 0
  owner := none
  debug := none
  keys := 0
  pkcKeys := true
  dying := 0
  kstops := []
  stopping := 0
  unlock := none
  tdi := Vector.replicate 8 .unlocked
  pm := Vector.replicate 8 (zeros 48)
  meas := Vector.replicate 4 (zeros 48)
  nonce := none
  nonceFor := none
  sessions := []

/-- The cap of STRAP[4:3] (R494). -/
def capOf (strap : Byte) : BitVec 7 :=
  match (strap.extractLsb' 3 2).toNat with
  | 0 => 100 | 1 => 85 | 2 => 70 | _ => 55

/-- Power control at reset under a strap. -/
def Power.reset (strap : Byte) : Power := ⟨capOf strap, false, false, false, false, false, 0, 0, 0, 0⟩

/-- MEM_CFG at reset: TF_PRESENT, TN_STACKS and TF_CHANNELS of the strap and the variant (ch. 13). -/
def memCfgReset (variant : Fin 3) (strap : Byte) : Word :=
  let tf := strap.getLsbD 6
  at' tf.toNat 2 ||| at' (4 * 2 ^ variant.val) 8 ||| at' (if tf then 6 * 2 ^ variant.val else 0) 13

/-- ECC_CFG at reset. -/
def eccCfgReset : Word := 0x00080100

/-- RAIL_CFG at reset: RSP_TO 200,000, REPLAY_TO 200. -/
def railCfgReset : Word := at' 0x30D40 1 ||| at' 0xC8 24

/-- An empty flash bank. -/
def Bank.empty : Bank := ⟨[], false⟩

/-- The package at reset. -/
def Pkg.reset : Pkg where
  fuses := Fuses.reset
  pins := Pins.reset
  numVfs := 0
  fns := Vector.replicate 9 HostFn.reset
  pcieUp := false
  tasks := []
  loads := []
  fetchTurn := 0
  nextTask := 1
  atc := []
  atsAsked := []
  invals := []
  legTab := []
  fwVer := 0
  fwRun := 0
  aclk := 0
  regSeq := 0
  level := 0
  tnFail := false
  failStack := 0
  tfFail := false
  cfgFail := false
  cfgSet := false
  tierF := false
  railUp := false
  strapStat := 0
  rstCause := 1
  rstLast := 0
  rstDie := 0
  rstCore := 0
  rstGo := false
  rstRefused := false
  bootLen := 0
  bootSt := 0
  bootWin := Memory.empty
  intStat := 0
  intFault := 0
  pow := Power.reset 0
  sec := Sec.reset
  healthFatal := false
  healthReason := 0
  uncTotal := 0
  pkcCount := 0
  pkcRecs := []
  memCfg := memCfgReset 2 0
  eccCfg := eccCfgReset
  eccNext := eccCfgReset
  partMem := Vector.replicate 8 0
  barXpart := 0
  xArrived := 0
  railCfg := railCfgReset
  partId := 0
  epoch := 0
  torus := 0
  epochDrop := 0
  late := 0
  ports := Vector.replicate 18 ⟨false, 0, false, false, false⟩
  links := Vector.replicate 72 Link.reset
  mcg := Vector.replicate 256 0
  rdctx := Vector.replicate 64 0
  gaz := []
  reasm := []
  fwds := []
  inbox := []
  opens := []
  pends := []
  nextTag := 0
  mcWaits := []
  reds := []
  grp := Group.reset
  flash := Vector.replicate 3 ⟨Bank.empty, Bank.empty, false, false, false⟩
  provision := []
  i3c := false
  dynAddr := 0
  eid := 0

end Sys2Proof.Machine
end

