-- ==== Sys2Proof/Machine/State.lean ====
section
/-! DEFINITION. The state of the block, its reset, and the reasons for which a step stops. -/

namespace Sys2Proof.Machine

/-- Why the machine stops. The spec gives every command an effect or none, and a command without one leaves the state as it is; so no command ends in a fault. -/
inductive Fault where
deriving DecidableEq, Repr

/-- Why a command has no meaning. -/
inductive Refusal where
  /-- Raised by an arm of `exec` whose command has no meaning yet. Safe: nothing follows about a refused command. -/
  | notModelled (mnemonic : String)
deriving DecidableEq, Repr

/-- One dispatch counter of a die (R247). -/
structure Dispatch where
  next : BitVec 32
  limit : BitVec 32
  held : Vector (List (BitVec 32)) 16
  requeue : List (BitVec 32)
  ptr : Fin 16
deriving DecidableEq, Repr

/-- One ECC counter pair of a die (R517), with CORR as it stood when the running window began (R518). -/
structure EccUnit where
  corr : BitVec 32
  unc : BitVec 16
  rate : BitVec 16
  addr : BitVec 48
  base : BitVec 32
deriving DecidableEq, Repr

/-- What a protected unit holds besides good data (R379): an error that no read has found yet, or the poison syndrome. -/
inductive EccMark where
  | corr | unc | poison
deriving DecidableEq, Repr

/-- The state of one die outside its cores. -/
structure Die where
  dsp : Vector Dispatch 16
  pools : Vector (Option Pool) 8
  ecc : Vector EccUnit 8
  mbox0 : Word
  mbox1 : Word
  done : List Word
  sent : BitVec 32
  resetting : Bool
  /-- Sixteenths taken off the die's core budget (R493). -/
  throttle : Nat
  /-- Die temperature in units of 0.25 degrees Celsius. -/
  temp : BitVec 16
deriving DecidableEq, Repr

/-- The whole state of the block. -/
structure State where
  /-- The commands that wait, first in, first out: the model's own field. -/
  pending : List Instr
  /-- The counter that feeds free values: the model's own field. -/
  fresh : Nat
  /-- What the part has sent on its pins and links, newest first: the model's own field. -/
  outbox : List Out
  mem : Memory
  /-- Marks of protected units, ascending by unit address (R378, R379). -/
  ecc : List (Nat × EccMark)
  cores : Vector (Vector Core 16) 8
  dies : Vector Die 8
  pkg : Pkg
deriving DecidableEq, Repr

/-- A counter at its reset (R247). -/
def Dispatch.reset : Dispatch := ⟨0, 0, Vector.replicate 16 [], [], 0⟩

/-- An ECC counter pair at its reset (R517). -/
def EccUnit.reset : EccUnit := ⟨0, 0, 0, 0, 0⟩

/-- A die at its reset. DESIGN CHOICE: 25 degrees Celsius, no thermal step taken. -/
def Die.reset : Die where
  dsp := Vector.replicate 16 Dispatch.reset
  pools := Vector.replicate 8 none
  ecc := Vector.replicate 8 EccUnit.reset
  mbox0 := 0
  mbox1 := 0
  done := []
  sent := 0
  resetting := false
  throttle := 0
  temp := 100

/-- The block right after reset. -/
def State.reset : State where
  pending := []
  fresh := 0
  outbox := []
  mem := Memory.empty
  ecc := []
  cores := Vector.replicate 8 (Vector.replicate 16 Core.reset)
  dies := Vector.replicate 8 Die.reset
  pkg := Pkg.reset

end Sys2Proof.Machine
end

