-- ==== Sys2Proof/Machine/Ops.lean ====
section
/-! DEFINITION. The shared operations: access to cores, dies and registers, the address map and its bounds, ECC reads, fault records, interrupts and taking a core fault. -/

namespace Sys2Proof.Machine

/-! ### Cores, dies and registers -/

/-- The state of a core. -/
def State.core (s : State) (c : CoreId) : Core := vget (vget s.cores c.die) c.core

/-- Replace the state of a core. -/
def State.setCore (s : State) (c : CoreId) (k : Core) : State :=
  { s with cores := vmod s.cores c.die (fun row => vset row c.core k) }

/-- Change the state of a core. -/
def State.modCore (s : State) (c : CoreId) (f : Core → Core) : State := s.setCore c (f (s.core c))

/-- The state of a die. -/
def State.die (s : State) (d : Fin 8) : Die := vget s.dies d

/-- Change the state of a die. -/
def State.modDie (s : State) (d : Fin 8) (f : Die → Die) : State := { s with dies := vmod s.dies d f }

/-- Change the package state. -/
def State.modPkg (s : State) (f : Pkg → Pkg) : State := { s with pkg := f s.pkg }

/-- Read a general register: `g0` reads 0 (R26). -/
def Core.getG (k : Core) (r : Fin 32) : Word := if r = 0 then 0 else vget k.g r

/-- Write a general register: a write to `g0` is ignored (R26). -/
def Core.setG (k : Core) (r : Fin 32) (v : Word) : Core := if r = 0 then k else { k with g := vset k.g r v }

/-- Read a predicate: `p0` reads 1 (R26). -/
def Core.getP (k : Core) (r : Fin 8) : Bool := if r = 0 then true else vget k.p r

/-- Write a predicate: a write to `p0` is ignored (R26). -/
def Core.setP (k : Core) (r : Fin 8) (v : Bool) : Core := if r = 0 then k else { k with p := vset k.p r v }

/-- Read a legend register. -/
def Core.getD (k : Core) (r : Fin 32) : Leg := vget k.d r

/-- Write a legend register. -/
def Core.setD (k : Core) (r : Fin 32) (v : Leg) : Core := { k with d := vset k.d r v }

/-- Compute dies of the variant: 2, 4 or 8 (R2). -/
def State.dieCount (s : State) : Nat := 2 ^ (s.pkg.fuses.variant.val + 1)

/-- Whether the variant has a die. -/
def State.hasDie (s : State) (d : Fin 8) : Bool := decide (d.val < s.dieCount)

/-- The partition of a VF. -/
def partOfVf (f : Fin 9) : Option (Fin 8) := if h : f.val = 0 then none else some ⟨f.val - 1, by omega⟩

/-- Whether memory requests pass between the host and a function: those of a VF whose interface is locked, running or in error pass only inside its secure IDE stream (R471, R473). -/
def State.tlpOk (s : State) (f : Fin 9) : Bool :=
  match partOfVf f with
  | some n => decide (vget s.pkg.sec.tdi n = .unlocked ∨ (vget s.pkg.fns f).ide = .secure)
  | none => true

/-- The function of a TLP that the part sends to the host. -/
def Out.tlpFn : Out → Option (Fin 9)
  | .hostWrite f _ _ | .hostRead f _ _ | .hostWriteTr f _ _ | .hostReadTr f _ _ | .msix f _ | .atsRequest f _ _ | .pageRequest f _ _ _ _
  | .invalidateComplete f _ | .readData f _ _ | .unsupported f | .retry f => some f
  | .car .. | .group .. | .spdm .. | .pldm .. | .pldmEvent _ | .spdmAsk _ | .debug _ | .secured _ => none

/-- Whether a TLP completes a request as not supported, which answers also one without IDE protection (R473). -/
def Out.refuses : Out → Bool
  | .unsupported _ | .retry _ => true
  | .hostWrite .. | .hostRead .. | .hostWriteTr .. | .hostReadTr .. | .msix .. | .atsRequest .. | .pageRequest .. | .invalidateComplete .. | .readData ..
  | .car .. | .group .. | .spdm .. | .pldm .. | .pldmEvent _ | .spdmAsk _ | .debug _ | .secured _ => false

/-- A TLP as it leaves: in the IDE stream of its function once that is secure (R471). -/
def State.onStream (s : State) (o : Out) : Out :=
  match o.tlpFn with
  | some f => if (vget s.pkg.fns f).ide = .secure then .secured o else o
  | none => o

/-- Send something on the part's pins or links; nothing leaves for a VF outside its IDE stream while R473 protects it, but a completion that refuses. -/
def State.send (s : State) (o : Out) : State :=
  { s with outbox := if o.refuses || (o.tlpFn.map s.tlpOk).getD true then s.onStream o :: s.outbox else s.outbox }

/-! ### The address map (R357) -/

/-- What a local address names. -/
inductive Region where
  | tierN (a : Nat)
  | tierF (f : Nat)
  | depot (d : Fin 8) (o : Nat)
  | clm (c : CoreId) (o : Nat)
  | pkgReg (o : Nat)
  | dieReg (d : Fin 8) (o : Nat)
  | host (a : Nat)
  | unmapped
deriving DecidableEq, Repr

/-- Start of the Tier F window. -/
def tierFBase : Nat := 0x010000000000
/-- Offset of an address of the Tier F window: the address less the window's start. -/
def tierFOff (a : Nat) : Nat := tierFBase * (a / tierFBase - 1) + a % tierFBase
/-- Start of the depots. -/
def depotBase : Nat := 0x080000000000
/-- Start of the CLMs. -/
def clmBase0 : Nat := 0x090000000000
/-- Start of the package register block. -/
def pkgBase : Nat := 0x0A0000000000
/-- Start of the die register blocks. -/
def dieRegBase : Nat := 0x0A0001000000
/-- Start of the host window. -/
def hostBase : Nat := 0x100000000000
/-- End of the host window. -/
def hostEnd : Nat := 0x200000000000
/-- 8 MiB, the size of a CLM. -/
def clmSize : Nat := 0x800000
/-- 64 MiB, the used part of a depot. -/
def depotSize : Nat := 0x4000000
/-- One GiB. -/
def gib : Nat := 0x40000000

/-- Device address of CLM offset 0 of a core (R357). -/
def clmAddr (c : CoreId) : Nat := clmBase0 + 0x10000000 * c.die.val + 0x01000000 * c.core.val

/-- Device address of depot offset 0 of a die (R357). -/
def depotAddr (d : Fin 8) : Nat := depotBase + 0x100000000 * d.val

/-- Channel capacity in GiB of MEM_CFG.TF_CAP (R362). -/
def tfCapGib (code : Nat) : Nat :=
  match code with
  | 1 => 32 | 2 => 48 | 3 => 64 | 4 => 96 | 5 => 128 | _ => 0

/-- Populated bytes of Tier N: 48 GiB for each of the 4, 8 or 16 stacks (R357, R360). -/
def State.tierNBytes (s : State) : Nat := gib * (96 * s.dieCount)

/-- Tier F channels of the variant (R530). -/
def State.tfChannels (s : State) : Nat := 3 * s.dieCount

/-- Populated bytes of Tier F: 0 while it is strapped absent or the part is below FULL (R362, R363). -/
def State.tierFBytes (s : State) : Nat :=
  if s.pkg.tierF ∧ s.pkg.level.toNat ≥ 3 then gib * (tfCapGib (fldN s.pkg.memCfg 5 3) * s.tfChannels) else 0

/-- The region of a local address; every row of the table of R357 and the unmapped rest. -/
def State.region (s : State) (a : Nat) : Region :=
  if a < s.tierNBytes then .tierN a
  else if a < tierFBase then .unmapped
  else if a < 0x050000000000 then (if tierFOff a < s.tierFBytes then .tierF (tierFOff a) else .unmapped)
  else if a < depotBase then .unmapped
  else if a < clmBase0 then
    let d := a / 0x100000000 % 0x100
    let o := a % 0x100000000
    if h : d < 8 then (if d < s.dieCount ∧ o < depotSize ∧ ¬(s.die ⟨d, h⟩).resetting then .depot ⟨d, h⟩ o else .unmapped) else .unmapped
  else if a < pkgBase then
    let d := a / 0x10000000 % 0x1000
    let r := a % 0x10000000
    let o := r % 0x01000000
    if h : d < 8 then
      (if d < s.dieCount ∧ o < clmSize ∧ ¬(s.die ⟨d, h⟩).resetting then .clm ⟨⟨d, h⟩, ⟨r / 0x01000000 % 16, Nat.mod_lt _ (by decide)⟩⟩ o else .unmapped)
    else .unmapped
  else if a < dieRegBase then .pkgReg (a % 0x01000000)
  else if a < 0x0A0009000000 then
    let d := a / 0x01000000 % 0x10 - 1
    if h : d < 8 then (if d < s.dieCount then .dieReg ⟨d, h⟩ (a % 0x01000000) else .unmapped) else .unmapped
  else if a < hostBase then .unmapped
  else if a < hostEnd then .host (a % hostBase)
  else .unmapped

/-- A device address split by R357 and R373: local (with its own part ID served locally), remote, or unmapped. -/
inductive DevAddr where
  | loc (a : Nat)
  | rem (part : BitVec 12) (a : Nat)
  | bad
deriving DecidableEq, Repr

/-- The kind of a 64-bit device address (R357, R373); a remote address is unmapped while CAP_FEATURES.RAIL reads 0 and outside the bounds of a standalone part (R52, R369). -/
def State.devAddr (s : State) (a : Nat) : DevAddr :=
  if a < 2 ^ 63 then (if a < 2 ^ 48 then .loc a else .bad)
  else
    if a ≥ 2 ^ 63 + 2 ^ 60 then .bad
    else
      let part := BitVec.ofNat 12 (a / 2 ^ 48)
      if part = s.pkg.partId then .loc (a % 2 ^ 48)
      else if s.pkg.railUp ∧ s.pkg.level = 3#2 ∧ s.pkg.grp.role ≠ 0#2 then .rem part (a % 2 ^ 48) else .bad

/-- Fields of PARTn_MEM (R371). -/
def partDies (w : Word) : BitVec 8 := fld w 44 8

/-- Whether the partition is enabled (R371). -/
def partEn (w : Word) : Bool := bit w 52

/-- PARTn_MEM of a partition. -/
def State.partMem (s : State) (n : Fin 8) : Word := vget s.pkg.partMem n

/-- Whether an enabled partition owns a die (R369). -/
def State.ownsDie (s : State) (n : Fin 8) (d : Fin 8) : Bool :=
  partEn (s.partMem n) && (partDies (s.partMem n)).getLsbD d.val

/-- The partition that owns a die (R369). -/
def State.dieOwner (s : State) (d : Fin 8) : Option (Fin 8) := (fins 8).find? (fun n => s.ownsDie n d)

/-- Whether `len` bytes from a local address lie in one region that partition `n` owns (R369, R370). An access to a tier whose memory keys are destroyed is a bounds failure (R470). -/
def State.inBounds (s : State) (n : Fin 8) (a len : Nat) : Bool :=
  let w := s.partMem n
  if len = 0 then true
  else if !partEn w then false
  else
    match s.region a, s.region (a + len - 1) with
    | .tierN x, .tierN y => s.pkg.sec.keys.getLsbD n.val && decide (gib * fldN w 0 10 ≤ x) && decide (y < gib * fldN w 10 10)
    | .tierF x, .tierF y => s.pkg.sec.keys.getLsbD n.val && decide (gib * fldN w 20 12 ≤ x) && decide (y < gib * fldN w 32 12)
    | .depot d _, .depot e _ => decide (d = e) && s.ownsDie n d
    | .clm c _, .clm e _ => decide (c = e) && s.ownsDie n c.die
    | .dieReg d x, .dieReg e y => decide (d = e) && s.ownsDie n d && decide (x / 0x100000 = y / 0x100000)
    | .host _, .host _ => true
    | _, _ => false

/-- Whether a byte lies in a range of an enabled partition, whatever its memory keys (R369, R382). -/
def State.ownsByte (s : State) (n : Fin 8) (a : Nat) : Bool :=
  let w := s.partMem n
  partEn w && match s.region a with
    | .tierN x => decide (gib * fldN w 0 10 ≤ x) && decide (x < gib * fldN w 10 10)
    | .tierF x => decide (gib * fldN w 20 12 ≤ x) && decide (x < gib * fldN w 32 12)
    | .depot d _ => s.ownsDie n d
    | .clm c _ => s.ownsDie n c.die
    | _ => false

/-- The partition whose ranges hold a byte, if any (R381, R521). -/
def State.memOwner (s : State) (a : Nat) : Option (Fin 8) := (fins 8).find? (fun n => s.ownsByte n a)

/-! ### Interrupts (R450, R451, R531) -/

/-- Send a function's MSI-X message, or set its pending bit while it is masked (R451). -/
def State.msix (s : State) (fn : Fin 9) (v : Nat) : State :=
  let f := vget s.pkg.fns fn
  if f.msixMask.getLsbD v then
    s.modPkg (fun p => { p with fns := vmod p.fns fn (fun f => { f with msixPend := f.msixPend ||| (1 <<< v) }) })
  else s.send (.msix fn v)

/-- A PF event that INT_STAT latches (R531): its bit and its vector. -/
def State.pfEvent (s : State) (b v : Nat) : State :=
  (s.modPkg (fun p => { p with intStat := p.intStat ||| (1 <<< b) })).msix 0 v

/-- A PF event that INT_FAULT latches, with vector 3 (R531). -/
def State.pfFault (s : State) (b : Nat) : State :=
  (s.modPkg (fun p => { p with intFault := p.intFault ||| (1 <<< b) })).msix 0 3

/-- The enabled VF of a partition (R435). -/
def State.vfOf (s : State) (n : Fin 8) : Option (Fin 9) :=
  if n.val < s.pkg.numVfs then some ⟨n.val + 1, by omega⟩ else none

/-- The function of a partition's host-window accesses: its VF, else the PF (R375). -/
def State.fnOf (s : State) (n : Fin 8) : Fin 9 := (s.vfOf n).getD 0

/-- Report a core record to the host (R516). -/
def State.coreRecEvent (s : State) (n : Fin 8) : State :=
  match s.vfOf n with
  | some fn => s.msix fn 1
  | none => if vget s.pkg.sec.tdi n = .unlocked then s.pfFault n.val else s

/-- Whether something holds the VIN domain in reset: VAUX, VIN, PWR_OK, COLD_RST_N, REFCLK or a thermal trip. -/
def Pins.held (p : Pins) : Bool := !(p.vaux && p.vin && p.pwrOk && p.coldRst && p.refclk && p.thermN)

/-! ### The steps of the cores (R333, R334, R482, R487, R491, R492) -/

/-- A halved step (R482); a core that has taken no control step yet has none. -/
def halveStep (j : Nat) : Nat := if j = 0 then 0 else Nat.max (j / 2) 4

/-- The step of a core that its limits allow (R492), `est` being the step of R491; halved while a sag's halving is in force (R482). -/
def State.stepOf (s : State) (c : CoreId) (est : Nat) : Nat :=
  let j := Nat.max 4 (Nat.min 32 est)
  let j := if s.pkg.level.toNat < 3 then Nat.min j 16 else j
  let j := if s.pkg.pow.hot.getLsbD c.die.val then Nat.min j 8 else j
  if s.pkg.pow.halved then halveStep j else j

/-- The step of a core on its own share; none before the first control step. -/
def State.ownStep (s : State) (c : CoreId) : Nat := if (s.core c).own = 0 then 0 else s.stepOf c (s.core c).own

/-- A core that is not in Run restarts: the running cores of its die go down to their own shares first (R334). -/
def State.wakeCore (s : State) (c : CoreId) : State :=
  let s := (fins 16).foldl (fun s i =>
    let o : CoreId := ⟨c.die, i⟩
    if (s.core o).pstate = .run then s.modCore o (fun k => { k with step := Nat.min k.step (s.ownStep o) }) else s) s
  s.modCore c (fun k => { k with pstate := .run, step := s.ownStep c })

/-- An access to the CLM of a Collapsed core waits for the wake (R487, R488). -/
def State.wakeFor (s : State) (a : Nat) : State :=
  match s.region a with
  | .clm c _ => if (s.core c).pstate = .collapsed then s.wakeCore c else s
  | _ => s

/-! ### Fault records (R511 to R515) -/

/-- The fields of a fault record that its code uses (R511). -/
structure FRec where
  code : BitVec 16
  pc : BitVec 32
  detail : BitVec 32
  addr : Nat
  payload : List Byte
deriving DecidableEq, Repr

/-- The 64 bytes of a record (R511). -/
def State.recBytes (s : State) (r : FRec) (core : Nat) (task : BitVec 16) (part : Nat) : List Byte :=
  leBytes 2 r.code.toNat ++ leBytes 2 core ++ leBytes 2 task.toNat ++ leBytes 1 part ++ leBytes 1 0 ++
    leBytes 8 s.pkg.aclk.toNat ++ leBytes 4 r.pc.toNat ++ leBytes 4 r.detail.toNat ++ leBytes 8 r.addr ++
    (r.payload ++ List.replicate 32 0).take 32

/-- Write a PKC record, newest first in the ring of 256 (R515). -/
def State.pkcRecord (s : State) (r : FRec) : State :=
  let bs := s.recBytes { r with pc := 0xFFFFFFFF } 0xFFFF 0 0xFF
  s.modPkg (fun p => { p with pkcCount := p.pkcCount + 1, pkcRecs := (bs :: p.pkcRecs).take 256 })

/-- A PKC record that R516 reports through vector 3. -/
def State.pkcReport (s : State) (r : FRec) : State := (s.pkcRecord r).pfFault 8

/-- HEALTH_FATAL (R521): the first cause sets FATAL and writes a FATAL record; the record and FATAL are two events of vector 3, each with its bit and its message (R516, R531). -/
def State.fatal (s : State) (reason : BitVec 8) : State :=
  if s.pkg.healthFatal then s
  else
    let s := s.modPkg (fun p => { p with healthFatal := true, healthReason := reason })
    (s.pkcReport ⟨0x0A05, 0, reason.setWidth 32, 0, []⟩).pfFault 9

/-! ### ECC reads (R378, R379, R517) -/

/-- First byte of the protected unit that holds a byte: a 64-bit word of a CLM or depot, a 64-byte line of a tier (R378). -/
def unitOf (a : Nat) : Nat := if a < depotBase then a / 64 * 64 else a / 8 * 8

/-- Length of the protected unit at an address. -/
def unitLen (a : Nat) : Nat := if a < depotBase then 64 else 8

/-- Stack and stack offset of a Tier N address under MEM_CFG.TN_ILV (R364). -/
def State.tnPlace (s : State) (a : Nat) : Nat × Nat :=
  let n := 2 * s.dieCount
  let granule (g : Nat) : Nat × Nat := (a / g % n, a / (g * n) * g + a % g)
  match fldN s.pkg.memCfg 0 2 with
  | 0 => granule 4096
  | 1 => granule 65536
  | _ => (a / (48 * gib), a - a / (48 * gib) * (48 * gib))

/-- Stack of a Tier N address (R364). -/
def State.tnStack (s : State) (a : Nat) : Nat := (s.tnPlace a).1

/-- Channel and channel offset of an offset of the Tier F window (R365). -/
def State.tfPlace (s : State) (f : Nat) : Nat × Nat :=
  let n := s.tfChannels
  (f / 4096 % n, f / (4096 * n) * 4096 + f % 4096)

/-- Channel of an offset of the Tier F window (R365). -/
def State.tfChannel (s : State) (f : Nat) : Nat := (s.tfPlace f).1

/-- The die and unit number whose counters an address belongs to (R517). -/
def State.eccUnit (s : State) (a : Nat) : Option (Fin 8 × Fin 8) :=
  let mk (d u : Nat) : Option (Fin 8 × Fin 8) := if h : d < 8 ∧ u < 8 then some (⟨d, h.1⟩, ⟨u, h.2⟩) else none
  match s.region a with
  | .clm c _ => mk c.die.val 0
  | .depot d _ => mk d.val 1
  | .tierN x => let st := s.tnStack x; mk (st / 2) (2 + st % 2)
  | .tierF f => let ch := s.tfChannel f; mk (ch / 3) (4 + ch % 3)
  | _ => none

/-- Count one correction (R517). -/
def State.countCorr (s : State) (d : Fin 8) (u : Fin 8) : State :=
  s.modDie d (fun k => { k with ecc := vmod k.ecc u (fun e => { e with corr := satAdd e.corr 1 }) })

/-- An uncorrectable error in the counters: ECCu, ECC_ADDRu and HEALTH.UNC_TOTAL (R517, R521). -/
def State.uncCounters (s : State) (d u : Fin 8) (a : Nat) : State :=
  (s.modDie d (fun k => { k with ecc := vmod k.ecc u (fun e => { e with unc := satAdd e.unc 1, addr := BitVec.ofNat 48 a }) })).modPkg
    (fun p => { p with uncTotal := satAdd p.uncTotal 1 })

/-- FATAL when UNC_TOTAL reaches its threshold (R521). -/
def State.uncThreshold (s : State) : State :=
  if fldN s.pkg.eccCfg 16 16 ≠ 0 ∧ s.pkg.uncTotal.toNat ≥ fldN s.pkg.eccCfg 16 16 then s.fatal 1 else s

/-- FATAL for an uncorrectable error in memory that no partition owns (R521). -/
def State.uncUnowned (s : State) (a : Nat) : State := if (s.memOwner a).isNone then s.fatal 2 else s

/-- Count one uncorrectable error at an address, with FATAL at its causes (R517, R521). -/
def State.countUnc (s : State) (a : Nat) : State :=
  match s.eccUnit a with
  | none => s
  | some u => ((s.uncCounters u.1 u.2 a).uncThreshold).uncUnowned a

/-- Whether a unit overlaps one of the byte ranges `(address, length)`. -/
def unitHit (rs : List (Nat × Nat)) (u : Nat) : Bool :=
  rs.any (fun r => decide (r.2 ≠ 0) && decide (u < r.1 + r.2) && decide (r.1 < u + unitLen u))

/-- What a read through ECC found: the first poisoned unit, and whether a single-bit error was corrected. -/
structure EccRes where
  poison : Option Nat
  corrected : Bool
deriving DecidableEq, Repr

/-- One marked unit met by a read (R379): a correctable error is corrected, an uncorrectable one becomes the poison syndrome. -/
def State.eccMark (s : State) (u : Nat) (k : EccMark) : State :=
  match k with
  | .corr =>
    match s.eccUnit u with
    | some x => ({ s with ecc := s.ecc.filter (fun m => m.1 ≠ u) } : State).countCorr x.1 x.2
    | none => { s with ecc := s.ecc.filter (fun m => m.1 ≠ u) }
  | .unc => ({ s with ecc := s.ecc.map (fun m => if m.1 = u then (u, .poison) else m) } : State).countUnc u
  | .poison => s

/-- A read of byte ranges through ECC (R379). -/
def State.eccRead (s : State) (rs : List (Nat × Nat)) : State × EccRes :=
  let hits := s.ecc.filter (fun m => unitHit rs m.1)
  (hits.foldl (fun s m => s.eccMark m.1 m.2) s,
    ⟨(hits.find? (fun m => decide (m.2 ≠ .corr))).map Prod.fst, hits.any (fun m => decide (m.2 = .corr))⟩)

/-- The read of the read-modify-write of R378: every marked unit that a write of `n` bytes meets without covering it is corrected, or becomes the poison syndrome, and is counted (R379). -/
def State.partialRead (s : State) (a n : Nat) : State :=
  (s.ecc.filter (fun m => decide (a < m.1 + unitLen m.1) && decide (m.1 < a + n) && !(decide (a ≤ m.1) && decide (m.1 + unitLen m.1 ≤ a + n)))).foldl
    (fun s m => s.eccMark m.1 m.2) s

/-- The bytes of a write that reach memory: a partial write to a poisoned unit is not merged, and a write of a whole unit clears its mark (R378, R379). -/
def State.memWrite (s : State) (a : Nat) (bs : List Byte) : State :=
  if s.ecc.isEmpty ∨ bs.isEmpty then { s with mem := s.mem.write a bs }
  else
    let n := bs.length
    let covers (u : Nat) : Bool := decide (a ≤ u) && decide (u + unitLen u ≤ a + n)
    let s := s.partialRead a n
    let bad (x : Nat) : Bool := s.ecc.any (fun m => decide (m.1 = unitOf x) && decide (m.2 ≠ .corr) && !covers m.1)
    { s with
      mem := (bs.zipIdx).foldl (fun m p => if bad (a + p.2) then m else m.set (a + p.2) p.1) s.mem
      ecc := s.ecc.filter (fun m => !(decide (a < m.1 + unitLen m.1) && decide (m.1 < a + n) && covers m.1)) }

/-- A write of part of one byte (R56, R378). -/
def State.memBits (s : State) (a lo bits v : Nat) : State :=
  if s.ecc.isEmpty then { s with mem := s.mem.setBits a lo bits v }
  else
    let s := s.partialRead a 1
    if s.ecc.any (fun m => decide (m.1 = unitOf a) && decide (m.2 ≠ .corr)) then s
    else { s with mem := s.mem.setBits a lo bits v }

/-- Zero a range and clear its marks (R49, R519). -/
def State.memZero (s : State) (lo hi : Nat) : State :=
  { s with mem := s.mem.zero lo hi, ecc := s.ecc.filter (fun m => decide (m.1 < lo) || decide (hi ≤ m.1)) }

/-- A fixed-up list of marks with one added or replaced, ascending. -/
def markIns (u : Nat) (k : EccMark) : List (Nat × EccMark) → List (Nat × EccMark)
  | [] => [(u, k)]
  | m :: ms => if u < m.1 then (u, k) :: m :: ms else if u = m.1 then (u, k) :: ms else m :: markIns u k ms

/-! ### Taking a core fault (R48, R514) -/

/-- Insert a record in ascending code order, after records of the same code. -/
def recIns (r : FRec) : List FRec → List FRec
  | [] => [r]
  | x :: xs => if r.code.toNat < x.code.toNat then r :: x :: xs else x :: recIns r xs

/-- Records in ascending code order (R514). -/
def recSort (rs : List FRec) : List FRec := rs.foldl (fun acc r => recIns r acc) []

/-- CLM offset of the fault ring (R510). -/
def fringOff : Nat := 0x7FF000

/-- Write one record into a core's fault ring (R510, R514). -/
def State.writeRec (s : State) (c : CoreId) (r : FRec) : State :=
  let k := s.core c
  let task : BitVec 16 := (k.sect.map (fun x => x.task)).getD 0
  let part : Nat := (k.sect.map (fun x => x.part.val)).getD 0xFF
  let s := s.memWrite (clmAddr c + fringOff + 64 * (k.fring.count.toNat % 64)) (s.recBytes r c.pkg task part)
  s.modCore c (fun k => { k with fring := { k.fring with
    first := if k.fring.count = 0 then r.code else k.fring.first, count := k.fring.count + 1 } })

/-- A slot of a faulted core: it issues no further transfer (R48). -/
def Slot.abandon (x : Slot) : Slot :=
  { x with plan := [], redo := [], merge := [], cmd := none, prg := none, poolWait := false, closed := false,
           lateFault := x.failing.isNone && x.cmd.any (fun m => m.2.2.esem.isNone),
           st := if x.out.isEmpty then .idle else .aborting }

/-- Whether a drain job belongs to a tile whose pass has ended: such a bank drains although the core faults (R48). -/
def DrainJob.ended (j : DrainJob) : Bool := decide (j.kind = .chunk ∨ j.kind = .final)

/-- Whether the pass or chunk of a job has ended, so that its bank drains although its switch still waits (R48). -/
def DrainJob.stays (j : DrainJob) : Bool := j.ended && decide (j.left = 0)

/-- An array of a faulted core: tiles in progress and banks whose passes have not ended are dropped (R48, R180). -/
def GridArray.abandon (a : GridArray) : GridArray :=
  { a with ctx := a.ctx.map (fun x => { x with tile := none }), frees := [], owed := Vector.replicate 2 0, todo := a.todo.filter DrainJob.stays,
           jobs := a.jobs.filter DrainJob.ended, saving := none, skt := none, fault := none }

/-- The junction engine of a faulted core (R48, R180). -/
def Junction.abandon (j : Junction) : Junction :=
  { j with tile := none, bag := none, frees := [], todo := j.todo.filter DrainJob.stays, routes := [], fault := none }

/-- The core after it abandons its commands (R48): queues are emptied, slots stop, tiles in progress are dropped;
banks whose passes ended stay on their way. -/
def Core.abandon (k : Core) : Core :=
  { k with
    run := .faulting
    stalled := none
    results := []
    qStr := []
    qGa := Vector.replicate 2 []
    qJx := []
    qVec := []
    qSkt := []
    qSyn := []
    met := []
    slots := k.slots.map Slot.abandon
    ga := k.ga.map GridArray.abandon
    jx := k.jx.abandon
    vec := none
    skt := none }

/-- A pool context in which no reservation of a slot waits for space any more (R328, R329). -/
def Pool.unwait (p : Pool) (c : CoreId) (n : Fin 16) : Pool :=
  { p with waiting := p.resv.zipIdx.foldl (fun w r => if r.1.core = c ∧ r.1.slot = n then setBit w r.2 false else w) p.waiting }

/-- A slot that stops, aborts or faults waits for pool space no longer (POOLSTAT.WAITING). -/
def State.unwait (s : State) (c : CoreId) (n : Fin 16) : State :=
  if (vget (s.core c).slots n).poolWait then
    { s with
      cores := s.cores.map (fun row => row.map (fun k => { k with pools := k.pools.map (Option.map (fun p => p.unwait c n)) }))
      dies := s.dies.map (fun d => { d with pools := d.pools.map (Option.map (fun p => p.unwait c n)) }) }
  else s

/-- Every slot of a core waits for pool space no longer. -/
def State.unwaitAll (s : State) (c : CoreId) : State := (fins 16).foldl (fun s n => s.unwait c n) s

/-- Streams of a core that have failed and would raise a fault when they stop (R288). -/
def Core.failingStreams (k : Core) : Nat := k.slots.toList.countP (fun x => x.failing.isSome && x.cmd.any (fun m => m.2.2.esem.isNone))

/-- Take a core fault (R48, R514): the records of the first fault cycle are written in ascending code order,
the core abandons its commands, and the host is told of each record (R516, R531). A fault of a core that has already faulted adds to SUPPRESSED, and so does a stream that has failed and has not stopped. DESIGN CHOICE (log 170): two commands never share an FCLK cycle. -/
def State.coreFaults (s : State) (c : CoreId) (rs : List FRec) (extra : Nat) : State :=
  let k := s.core c
  if k.fring.faulted then
    s.modCore c (fun k => { k with fring := { k.fring with suppressed := satAdd k.fring.suppressed (rs.length + extra) } })
  else
    let s := (recSort rs).foldl (fun s r => s.writeRec c r) (s.unwaitAll c)
    let s := s.modCore c (fun k => ({ k with fring := { k.fring with faulted := true, suppressed := satAdd k.fring.suppressed (extra + k.failingStreams) } } : Core).abandon)
    match k.sect with
    | some x => rs.foldl (fun s _ => s.coreRecEvent x.part) s
    | none => s

/-- Take one core fault. -/
def State.coreFault (s : State) (c : CoreId) (r : FRec) : State := s.coreFaults c [r] 0

/-- ILLEGAL_INSTR causes (R340). -/
inductive Ill where
  | encoding | branch | stack | loop | textWrite | align | bounds | legend | format | shape | sequence | exw | epilogue
  | sketch | stream | route | dispatch | trap
deriving DecidableEq, Repr

/-- The cause code of R340. -/
def Ill.code : Ill → Nat
  | .encoding => 1 | .branch => 2 | .stack => 3 | .loop => 4 | .textWrite => 5 | .align => 6 | .bounds => 7 | .legend => 8
  | .format => 9 | .shape => 10 | .sequence => 11 | .exw => 12 | .epilogue => 13 | .sketch => 14 | .stream => 15
  | .route => 16 | .dispatch => 17 | .trap => 18

/-- Raise ILLEGAL_INSTR (R340): the cause, the text offset, the detail word and, for ALIGN and BOUNDS, the address. -/
def State.illegal (s : State) (c : CoreId) (cause : Ill) (pc detail : BitVec 32) (addr : Nat := 0) (payload : List Byte := []) : State :=
  s.coreFault c ⟨BitVec.ofNat 16 (0x200 + cause.code), pc, detail,
    match cause with | .align => addr | .bounds => addr | _ => 0, payload⟩

/-- The unit kind and the stack, channel or die of an address, as the payload of the UNC records has them (R513). -/
def State.unitPayload (s : State) (a : Nat) : List Byte :=
  let (kind, unit) : Nat × Nat :=
    match s.region a with
    | .clm c _ => (0, c.die.val)
    | .depot d _ => (1, d.val)
    | .tierN x => (2, s.tnStack x)
    | .tierF f => (3, s.tfChannel f)
    | .host _ => (5, 0)
    | _ => (0, 0)
  leBytes 1 kind ++ leBytes 1 unit

/-- Raise an uncorrectable-ECC fault of a core (R512, R513). -/
def State.uncFault (s : State) (c : CoreId) (code : BitVec 16) (pc detail : BitVec 32) (a : Nat) : State :=
  s.coreFault c ⟨code, pc, detail, a, s.unitPayload (a % 2 ^ 48)⟩

/-! ### Translations and requests to the host (R375 to R377) -/

/-- A host function. -/
def State.fn (s : State) (f : Fin 9) : HostFn := vget s.pkg.fns f

/-- The ATC entry that holds a page of a function (R377). -/
def State.atcFind (s : State) (f : Fin 9) (page : Nat) : Option AtcEntry :=
  s.pkg.atc.find? (fun e => decide (e.fn = f ∧ e.page ≤ page * 4096 ∧ page * 4096 < e.page + e.size))

/-- Note the use of an entry: the list holds the most recently used first (R377). -/
def State.atcUse (s : State) (f : Fin 9) (page : Nat) : State :=
  match s.atcFind f page with
  | some e => s.modPkg (fun p => { p with atc := e :: p.atc.erase e })
  | none => s

/-- The page to which an entry translates one of its pages. -/
def AtcEntry.map (e : AtcEntry) (page : Nat) : Nat := (e.dst + (page * 4096 - e.page)) / 4096

/-- The pieces of a byte range in its 4 KiB pages: offset and length. -/
def pagePieces (a len : Nat) : List (Nat × Nat) :=
  (List.range (if len = 0 then 0 else (a + len - 1) / 4096 - a / 4096 + 1)).map (fun i =>
    let lo := Nat.max a ((a / 4096 + i) * 4096)
    (lo - a, Nat.min (a + len) ((a / 4096 + i + 1) * 4096) - lo))

/-- A request to the host, with the bytes of a write: Untranslated where no translations are given, else Translated, a piece for each page (R376). -/
def State.hostReq (s : State) (f : Fin 9) (trans : List (Nat × Nat)) (a len : Nat) (w : Option (List Byte)) : State :=
  if trans.isEmpty then s.send (match w with | none => .hostRead f a len | some bs => .hostWrite f a bs)
  else
    (pagePieces a len).foldl (fun s p =>
      let x := a + p.1
      let t := ((trans.find? (fun e => e.1 = x / 4096)).map Prod.snd).getD 0 * 4096 + x % 4096
      s.send (match w with | none => .hostReadTr f t p.2 | some bs => .hostWriteTr f t ((bs.drop p.1).take p.2))) s

/-- The partition of a core's task. -/
def State.strPart (s : State) (c : CoreId) : Fin 8 := ((s.core c).sect.map (fun x => x.part)).getD 0

/-- Lowest source address of a transfer. -/
def Xfer.lo (x : Xfer) : Nat := (x.reqs.map Req.src).foldl Nat.min ((x.reqs.head?.map Req.src).getD 0)

/-- Bytes that a transfer reads: from the lowest requested byte to the highest (R280). -/
def Xfer.span (x : Xfer) : Nat := (x.reqs.map (fun r => r.src + r.len)).foldl Nat.max 0 - x.lo

/-! ### Non-posted requests (R376, R434) -/

/-- The host-window ranges of a transfer: Untranslated Address, length, and whether it writes. -/
def State.hostRanges (s : State) (x : Xfer) : List (Nat × Nat × Bool) :=
  let at' (a len : Nat) (w : Bool) : Option (Nat × Nat × Bool) :=
    match s.devAddr a with
    | .loc y => (match s.region y with | .host h => some (h, len, w) | _ => none)
    | _ => none
  (at' x.lo x.span false).toList ++ x.reqs.flatMap (fun r => r.dsts.filterMap (fun d => at' d r.len true))

/-- The 4 KiB pages of ranges, each once, with the kind of access. -/
def pagesOf (rs : List (Nat × Nat × Bool)) : List (Nat × Bool) :=
  (rs.flatMap (fun r => (List.range ((r.1 + r.2.1 - 1) / 4096 - r.1 / 4096 + 1)).map (fun i => (r.1 / 4096 + i, r.2.2)))).eraseDups

/-- Read requests to the host that a transfer makes. -/
def State.hostReads (s : State) (x : Xfer) : Nat := ((s.hostRanges x).filter (fun h => !h.2.2)).length

/-- Pages of a transfer for which the ATC of a function holds no entry. -/
def State.missing (s : State) (f : Fin 9) (x : Xfer) : List (Nat × Bool) :=
  (if (s.fn f).ats then pagesOf (s.hostRanges x) else []).filter (fun p => (s.atcFind f p.1).isNone)

/-- Non-posted requests that a transfer makes as it is launched: its translation requests, else its reads. -/
def State.npNeed (s : State) (f : Fin 9) (x : Xfer) : Nat :=
  let m := (s.missing f x).length
  if m = 0 then s.hostReads x else m

/-- Every core of the package. -/
def allCores : List CoreId := (fins 8).flatMap (fun d => (fins 16).map (fun i => ⟨d, i⟩))

/-- Non-posted requests of a function that are outstanding (R434): the reads of its transfers, the translations that its transfers still wait for, and those of its `ld` and `st`. -/
def State.nonPosted (s : State) (f : Fin 9) : Nat :=
  (s.pkg.atsAsked.filter (fun q => decide (q.1 = f))).length +
    (allCores.filter (fun c => decide ((s.core c).sect.isSome ∧ s.fnOf (s.strPart c) = f))).foldl (fun n c =>
      (s.core c).slots.toList.foldl (fun n x => x.out.foldl (fun n y => n + if y.ats then (s.missing f y).length else s.hostReads y) n) n) 0

/-- A free value: the counter that names it, and the state that has spent it. -/
def State.spend (s : State) : Nat × State := (s.fresh, { s with fresh := s.fresh + 1 })

end Sys2Proof.Machine
end

