-- ==== Sys2Proof/Machine/Flags.lean ====
section
/-! DEFINITION. The tile status record and its flags (R506 to R509, R28), and FLAGS_SUM (R27). -/

namespace Sys2Proof.Machine

/-- Bits of the flag word (R507). -/
inductive Flag where
  | nonfinite | sat | scaleHi | scaleLo | convSat | bound | patternOver | indexRange | orderBreak | sketchMiss | eccCorr | exact' | dual
deriving DecidableEq, Repr

/-- The bit position of a flag (R507). -/
def Flag.pos : Flag → Nat
  | .nonfinite => 0 | .sat => 1 | .scaleHi => 2 | .scaleLo => 3 | .convSat => 4 | .bound => 5 | .patternOver => 6
  | .indexRange => 7 | .orderBreak => 8 | .sketchMiss => 9 | .eccCorr => 10 | .exact' => 11 | .dual => 12

/-- A flag word with one flag set when the condition holds. -/
def flagIf (w : BitVec 13) (f : Flag) (b : Bool) : BitVec 13 := if b then w ||| ((1#13) <<< f.pos) else w

/-- Whether a flag is set. -/
def hasFlag (w : BitVec 13) (f : Flag) : Bool := w.getLsbD f.pos

/-- The fields of a tile status record (R506). -/
structure Tsr where
  tag : Word
  flags : BitVec 13
  nfm : Nat
  nfn : Nat
  amax : BitVec 32
  satCnt : Nat
  convCnt : Nat
  violCnt : Nat
  missCnt : Nat
  vpos : BitVec 32
deriving DecidableEq, Repr

/-- A record with only a tag: no non-finite position, every other field 0. -/
def Tsr.blank (tag : Word) : Tsr := ⟨tag, 0, 0xFFFF, 0xFFFF, 0, 0, 0, 0, 0, 0⟩

/-- The 32 bytes of a record; counts saturate at 65,535 (R506). -/
def Tsr.bytes (t : Tsr) : List Byte :=
  leBytes 8 t.tag.toNat ++ leBytes 4 t.flags.toNat ++ leBytes 2 t.nfm ++ leBytes 2 t.nfn ++ leBytes 4 t.amax.toNat ++
    leBytes 2 (satN 16 t.satCnt) ++ leBytes 2 (satN 16 t.convCnt) ++ leBytes 2 (satN 16 t.violCnt) ++
    leBytes 2 (satN 16 t.missCnt) ++ leBytes 4 t.vpos.toNat

/-- CLM offset of record `i` of a status ring: BASE + 32 × (i mod (2^SIZE × 32)) (R27). -/
def tsrOff (ring : Word) (i : Nat) : Nat := fldN ring 0 23 + 32 * (i % (2 ^ fldN ring 23 4 * 32))

/-- Write a TSR into the core's status ring, count it and fold its flags into FLAGS_SUM (R27, R28). -/
def State.writeTsr (s : State) (c : CoreId) (t : Tsr) : State :=
  let k := s.core c
  let s := s.memWrite (clmAddr c + tsrOff k.tsrRing k.tsrCount.toNat) t.bytes
  s.modCore c (fun k => { k with tsrCount := k.tsrCount + 1, flagsSum := k.flagsSum ||| t.flags })

/-- CSR access codes of FLAGS_SUM: a write of 1 clears (R8, R27). -/
def clearFlags (old : BitVec 13) (v : Word) : BitVec 13 := old &&& ~~~(fld v 0 13)

end Sys2Proof.Machine
end

