-- ==== Sys2Proof/Machine/Operands.lean ====
section
/-! DEFINITION. Legends: their fields, validity and views (R29 to R36, R168), and reads of the elements and scales they name. -/

namespace Sys2Proof.Machine

/-! ### Fields of a primary legend (R29) -/

def Leg.base (l : Leg) : Nat := fldN l 0 64
def Leg.ext0 (l : Leg) : Nat := fldN l 64 20
def Leg.ext1 (l : Leg) : Nat := fldN l 84 32
def Leg.ext2 (l : Leg) : Nat := fldN l 116 20
def Leg.ext3 (l : Leg) : Nat := fldN l 136 20
def Leg.ext4 (l : Leg) : Nat := fldN l 156 20
def Leg.ndim (l : Leg) : Nat := fldN l 176 3
def Leg.fmtCode (l : Leg) : Nat := fldN l 179 4
def Leg.sparse (l : Leg) : Nat := fldN l 183 4
def Leg.nmpat (l : Leg) : Nat := fldN l 187 3
def Leg.idxw (l : Leg) : Bool := bit l 190
def Leg.ptrw (l : Leg) : Bool := bit l 191
def Leg.scale (l : Leg) : Nat := fldN l 192 2
def Leg.strict (l : Leg) : BitVec 3 := fld l 194 3
def Leg.trn (l : Leg) : Bool := bit l 197
def Leg.extd (l : Leg) : Bool := bit l 198
def Leg.gen (l : Leg) : Nat := fldN l 199 2
def Leg.stride1 (l : Leg) : Int := fldI l 201 40
def Leg.rsv (l : Leg) : Nat := fldN l 241 15

/-! ### Fields of an extension legend (R30) -/

def Leg.stride2 (l : Leg) : Int := fldI l 0 40
def Leg.stride3 (l : Leg) : Int := fldI l 40 40
def Leg.stride4 (l : Leg) : Int := fldI l 80 40
def Leg.aux0 (l : Leg) : Int := fldI l 120 40
def Leg.aux1 (l : Leg) : Int := fldI l 160 40
def Leg.scloff (l : Leg) : Int := fldI l 200 40
def Leg.xrsv (l : Leg) : Nat := fldN l 240 16

/-! ### Views -/

/-- The extension of a view; all zero when EXTD = 0. -/
def View.x (v : View) : Leg := if Leg.extd v.prim then v.ext else 0

/-- The legend that a register names, with the next register as its extension (R29).
DESIGN CHOICE (log 165): `d31` has no next register, and its extension reads as 0; R347 settles the destination d31 only. -/
def Core.view (k : Core) (r : Fin 32) : View := ⟨r, k.getD r, if r.val = 31 then 0 else k.getD (r + 1)⟩

/-- The format of a view. DESIGN CHOICE (log 144): the reserved codes 0xE and 0xF read as INT8; only `lg.view` meets one, in the row sizes VROW and MROW of an N:M legend (R168). -/
def View.fmt (v : View) : Fmt := (Fmt.ofCode (Leg.fmtCode v.prim)).getD .int8

/-- Extent of dimension `i`. -/
def View.ext' (v : View) (i : Nat) : Nat :=
  match i with
  | 0 => Leg.ext0 v.prim | 1 => Leg.ext1 v.prim | 2 => Leg.ext2 v.prim | 3 => Leg.ext3 v.prim | _ => Leg.ext4 v.prim

/-- EXT1 with the reading that a view of one dimension has one row (R144). -/
def View.rows (v : View) : Nat := if Leg.ndim v.prim ≤ 1 then 1 else Leg.ext1 v.prim

/-- Byte strides of dimensions 1 to 4; packed where there is no extension (R31). -/
def View.strides (v : View) : Int × Int × Int × Int :=
  let s1 := Leg.stride1 v.prim
  if Leg.extd v.prim then (s1, Leg.stride2 v.ext, Leg.stride3 v.ext, Leg.stride4 v.ext)
  else
    let s2 := s1 * Leg.ext1 v.prim
    let s3 := s2 * Leg.ext2 v.prim
    (s1, s2, s3, s3 * Leg.ext3 v.prim)

/-- Device address of the first byte of a run (R31). -/
def View.rowAddr (v : View) (i1 i2 i3 i4 : Nat) : Int :=
  let (s1, s2, s3, s4) := v.strides
  (Leg.base v.prim : Int) + i1 * s1 + i2 * s2 + i3 * s3 + i4 * s4

/-- Element width of a view in bits. -/
def View.bits (v : View) : Nat := v.fmt.bits

/-- Bytes of a run. -/
def View.runBytes (v : View) : Nat := ceilDiv (Leg.ext0 v.prim * v.bits) 8

/-- Extents with unused dimensions read as 1. -/
def View.dimN (v : View) (i : Nat) : Nat := if i < Leg.ndim v.prim then v.ext' i else 1

/-- The positions (i1, i2, i3, i4) of the runs in stream order (R264). -/
def View.runIdx (v : View) : List (Nat × Nat × Nat × Nat) :=
  (List.range (v.dimN 4)).flatMap (fun i4 => (List.range (v.dimN 3)).flatMap (fun i3 =>
    (List.range (v.dimN 2)).flatMap (fun i2 => (List.range (v.dimN 1)).map (fun i1 => (i1, i2, i3, i4)))))

/-- Block size of a view: 32, or 16 with SCALE = 2 (R29). DESIGN CHOICE (log 139): 32 where SCALE is 0 or reserved, which only the SCLOFF move of `lg.view` meets (R168). -/
def View.blk (v : View) : Nat := if Leg.scale v.prim = 2 then 16 else 32

/-- Extents of the scale table along its dimensions 0 and 1 (R32). -/
def View.scaleDims (v : View) : Nat × Nat :=
  if Leg.trn v.prim then (Leg.ext0 v.prim, ceilDiv (v.dimN 1) v.blk) else (ceilDiv (Leg.ext0 v.prim) v.blk, v.dimN 1)

/-- Device address of the scale table (R30). -/
def View.scaleAddr (v : View) : Int := (Leg.base v.prim : Int) + Leg.scloff v.x

/-- Length of the scale table in bytes. -/
def View.scaleLen (v : View) : Nat :=
  if Leg.scale v.prim = 0 then 0 else v.scaleDims.1 * v.scaleDims.2 * v.dimN 2 * v.dimN 3 * v.dimN 4

/-- Pointer width in bytes. -/
def View.ptrB (v : View) : Nat := if Leg.ptrw v.prim then 8 else 4

/-- Index width in bytes. -/
def View.idxB (v : View) : Nat := if Leg.idxw v.prim then 4 else 2

/-- Value-block width: 1 for CSR, 8 or 16 for block-CSR (R164). -/
def View.vblk (v : View) : Nat := if Leg.sparse v.prim = 2 then 8 else if Leg.sparse v.prim = 3 then 16 else 1

/-- N, M and index bits of a pattern (R166). -/
def nmOf (p : Nat) : Nat × Nat × Nat :=
  match p with
  | 1 => (2, 4, 2) | 2 => (4, 8, 3) | 3 => (1, 4, 2) | 4 => (2, 8, 3) | 5 => (2, 4, 2) | _ => (0, 1, 0)

/-- Groups of a row of an N:M view (R166). -/
def View.groups (v : View) : Nat := ceilDiv (Leg.ext0 v.prim) (nmOf (Leg.nmpat v.prim)).2.1

/-- VROW of R166. -/
def View.vrow (v : View) : Nat := ceilDiv (v.groups * (nmOf (Leg.nmpat v.prim)).1 * v.bits) 8

/-- MROW of R166. -/
def View.mrow (v : View) : Nat := let (n, _, b) := nmOf (Leg.nmpat v.prim); ceilDiv (v.groups * n * b) 8

/-- Bytes of a bitmap row (R165). -/
def View.bmpRow (v : View) : Nat := ceilDiv (Leg.ext0 v.prim) 512 * 64

/-- Device address of the array at AUX0. -/
def View.aux0Addr (v : View) : Int := (Leg.base v.prim : Int) + Leg.aux0 v.x

/-- Device address of the array at AUX1. -/
def View.aux1Addr (v : View) : Int := (Leg.base v.prim : Int) + Leg.aux1 v.x

/-! ### Validity (R34) -/

/-- Every check of R34, for a legend used in register `reg`. -/
def View.valid (v : View) : Bool :=
  let l := v.prim
  let x := v.x
  let nd := Leg.ndim l
  let sp := Leg.sparse l
  let dims := decide (1 ≤ nd ∧ nd ≤ 5) && (List.range 5).all (fun i => if i < nd then decide (1 ≤ v.ext' i) else decide (v.ext' i = 0))
  let codes := decide (Leg.fmtCode l ≤ 13 ∧ sp ≤ 6 ∧ Leg.nmpat l ≤ 5 ∧ Leg.scale l ≤ 2 ∧ Leg.gen l = 0)
  let rsv := decide (Leg.rsv l = 0 ∧ Leg.xrsv x = 0)
  let extn := (Leg.extd l || (decide (sp = 0) && decide (Leg.scale l = 0))) && !(Leg.extd l && decide (v.reg.val = 31))
  let spst := decide (sp = 0) ||
    (decide (Leg.stride1 l = 0 ∧ Leg.stride2 x = 0 ∧ Leg.stride3 x = 0 ∧ Leg.stride4 x = 0) && decide (nd = 1 ∨ nd = 2))
  let pat := (decide (Leg.nmpat l = 0) || decide (sp = 0 ∨ sp = 5)) && (decide (sp ≠ 5) || decide (Leg.nmpat l ≠ 0))
  let scl := decide (Leg.scale l = 0) || decide (v.fmt.cls ≠ .wide)
  let str := decide (Leg.strict l = 0) || !(decide (sp = 0) && decide (Leg.nmpat l = 0))
  let trn := !(Leg.trn l) || (decide (sp = 0) && decide (Leg.nmpat l = 0))
  let aln := (decide (v.fmt.cls ≠ .wide) || decide (Leg.base l % (v.bits / 8) = 0)) &&
    (decide (sp = 0) || decide (Leg.base l % 64 = 0)) &&
    decide (Leg.aux0 x % 64 = 0 ∧ Leg.aux1 x % 64 = 0 ∧ Leg.scloff x % 64 = 0)
  let noIdx := !(Leg.idxw l) && !(Leg.ptrw l) && decide (Leg.aux1 x = 0)
  let unused :=
    if sp = 0 then noIdx && decide (Leg.aux0 x = 0)
    else if sp = 4 ∨ sp = 5 then noIdx
    else true
  dims && codes && rsv && extn && spst && pat && scl && str && trn && aln && unused

/-! ### `lg.mod` and `lg.view` (R346, R347, R168) -/

/-- Position and width of a primary field of a FIELD code 0 to 17 (R346). -/
def modField (code : Nat) : Nat × Nat :=
  match code with
  | 0 => (0, 64) | 1 => (64, 20) | 2 => (84, 32) | 3 => (116, 20) | 4 => (136, 20) | 5 => (156, 20) | 6 => (176, 3)
  | 7 => (179, 4) | 8 => (183, 4) | 9 => (187, 3) | 10 => (190, 1) | 11 => (191, 1) | 12 => (192, 2) | 13 => (194, 3)
  | 14 => (197, 1) | 15 => (198, 1) | 16 => (199, 2) | 17 => (201, 40)
  | 18 => (0, 40) | 19 => (40, 40) | 20 => (80, 40) | 21 => (120, 40) | 22 => (160, 40) | 23 => (200, 40)
  | _ => (0, 0)

/-- A legend register with one field replaced (R346). -/
def legMod (l : Leg) (code : Nat) (v : Word) : Leg := let (p, w) := modField code; setFld l p w v.toNat

/-- Write a signed value into a field. -/
def setFldI (l : Leg) (lo k : Nat) (v : Int) : Leg := setFld l lo k (v % (2 ^ k : Nat)).toNat

/-- The offsets and limits of `lg.view` (R347). -/
structure ViewOff where
  o0 : Nat
  o1 : Nat
  o2 : Nat
  o3 : Nat
  o4 : Nat
  l0 : Nat
  l1 : Nat
deriving DecidableEq, Repr

/-- The offsets that the three registers carry (R347). -/
def ViewOff.ofRegs (a b c : Word) : ViewOff :=
  ⟨fldN a 0 32, fldN a 32 32, fldN b 0 21, fldN b 21 21, fldN b 42 21, fldN c 0 32, fldN c 32 32⟩

/-- An extent under its limit; 0 is no limit (R347). -/
def capExt (e l : Nat) : Nat := if l = 0 then e else min e l

/-- The destination of `lg.view`: primary and extension (R347, R168). -/
def legView (v : View) (o : ViewOff) : Leg × Leg :=
  let l := v.prim
  let sp := Leg.sparse l
  let e0 := capExt (Leg.ext0 l - o.o0) o.l0
  let e1 := capExt (Leg.ext1 l - o.o1) o.l1
  let e2 := Leg.ext2 l - o.o2
  let e3 := Leg.ext3 l - o.o3
  let e4 := Leg.ext4 l - o.o4
  let put (l : Leg) (e0 e1 : Nat) : Leg :=
    setFld (setFld (setFld (setFld (setFld l 64 20 e0) 84 32 e1) 116 20 e2) 136 20 e3) 156 20 e4
  if sp = 0 then
    match Fmt.ofCode (Leg.fmtCode l) with
    | none => (put l 0 e1, v.ext)
    | some f =>
      let (s1, s2, s3, s4) := v.strides
      let base : Int := (Leg.base l : Int) + (o.o0 * f.bits / 8 : Nat) + o.o1 * s1 + o.o2 * s2 + o.o3 * s3 + o.o4 * s4
      let odd := decide (o.o0 * f.bits % 8 ≠ 0)
      let broken := !(Leg.extd l) && decide (Leg.ndim l ≥ 3) &&
        (decide (e1 ≠ Leg.ext1 l) || decide (e2 ≠ Leg.ext2 l) || decide (e3 ≠ Leg.ext3 l))
      (setFldI (put l (if odd || broken then 0 else e0) e1) 0 64 base, v.ext)
  else
    let x := v.ext
    let c := ceilDiv (Leg.ext0 l) v.blk
    let z0 := if o.o0 = 0 then Leg.ext0 l else 0
    let addX (x : Leg) (a0 sc : Int) : Leg := setFldI (setFldI x 120 40 (Leg.aux0 x + a0)) 200 40 (Leg.scloff x + sc)
    if sp = 1 ∨ sp = 2 ∨ sp = 3 ∨ sp = 6 then (put l z0 e1, addX x (o.o1 * v.ptrB) (o.o1 * c))
    else if sp = 4 then (put l z0 (if o.o1 = 0 then e1 else 0), x)
    else if sp = 5 ∧ 1 ≤ Leg.nmpat l ∧ Leg.nmpat l ≤ 5 then
      (setFldI (put l z0 e1) 0 64 ((Leg.base l : Int) + o.o1 * v.vrow),
        addX x (o.o1 * ((v.mrow : Int) - v.vrow)) (o.o1 * ((c : Int) - v.vrow)))
    else (put l 0 e1, x)

/-! ### Reads through a view -/

/-- A byte of memory at a signed address; outside the address space reads 0. -/
def State.byteAt (s : State) (a : Int) : Byte := if a < 0 then 0 else s.mem.get a.toNat

/-- A little-endian number at a signed address. -/
def State.numAt (s : State) (a : Int) (n : Nat) : Nat := ofLE ((List.range n).map (fun i : Nat => s.byteAt (a + i)))

/-- The element code at position (i0, i1) of a dense view of at most two dimensions (R56). -/
def State.code2 (s : State) (v : View) (i0 i1 : Nat) : Nat :=
  elemCode v.fmt (fun k => s.byteAt (v.rowAddr i1 0 0 0 + k)) i0

/-- The value string at BASE of a sparse view: value `j` (R163 to R167). -/
def State.valCode (s : State) (v : View) (j : Nat) : Nat :=
  elemCode v.fmt (fun k => s.byteAt ((Leg.base v.prim : Int) + k)) j

/-- The scale code of the block at table position (b, r) of a view of at most two dimensions; 0x7F without scales (R32, R66). -/
def State.scaleAt (s : State) (v : View) (b r : Nat) : Nat :=
  if Leg.scale v.prim = 0 then 0x7F
  else (s.byteAt (v.scaleAddr + (r * v.scaleDims.1 + b : Nat))).toNat

/-- Pointer `i` of a CSR, block-CSR or index-list view (R163, R167). -/
def State.ptrAt (s : State) (v : View) (i : Nat) : Nat := s.numAt (v.aux0Addr + (i * v.ptrB : Nat)) v.ptrB

/-- Index `j` of a CSR, block-CSR or index-list view (R163, R167). -/
def State.idxAt (s : State) (v : View) (j : Nat) : Nat := s.numAt (v.aux1Addr + (j * v.idxB : Nat)) v.idxB

/-- Byte ranges whose length the legend fixes: dense elements, pointers, bitmap rows, N:M rows and the scale table (R558). -/
def View.knownRanges (v : View) : List (Int × Nat) :=
  let sp := Leg.sparse v.prim
  let main : List (Int × Nat) :=
    if sp = 0 then v.runIdx.map (fun i => (v.rowAddr i.1 i.2.1 i.2.2.1 i.2.2.2, v.runBytes))
    else if sp = 4 then [(v.aux0Addr, v.rows * v.bmpRow)]
    else if sp = 5 then [((Leg.base v.prim : Int), v.rows * v.vrow), (v.aux0Addr, v.rows * v.mrow)]
    else [(v.aux0Addr, (v.rows + 1) * v.ptrB)]
  main ++ (if v.scaleLen = 0 then [] else [(v.scaleAddr, v.scaleLen)])

/-- What the sequencer checks at issue: those ranges, and the first byte of the values and of the indices of CSR and block-CSR (R185, R558). -/
def View.fixedRanges (v : View) : List (Int × Nat) :=
  v.knownRanges ++ if 1 ≤ Leg.sparse v.prim ∧ Leg.sparse v.prim ≤ 3 then [((Leg.base v.prim : Int), 1), (v.aux1Addr, 1)] else []

/-- Number of set bits of a bitmap at in-view positions (R161, R187). -/
def State.bmpCount (s : State) (v : View) : Nat :=
  (List.range v.rows).foldl (fun n i1 =>
    (List.range (Leg.ext0 v.prim)).foldl (fun n i0 =>
      n + ((s.byteAt (v.aux0Addr + (i1 * v.bmpRow + i0 / 8 : Nat))).getLsbD (i0 % 8)).toNat) n) 0

/-- Byte ranges whose length follows from memory: values and indices of CSR, block-CSR and index lists, packed values of a bitmap (R265). -/
def State.dataRanges (s : State) (v : View) : List (Int × Nat) :=
  let sp := Leg.sparse v.prim
  let ent (w : Nat) : List (Int × Nat) :=
    let p0 := s.ptrAt v 0
    let pn := s.ptrAt v v.rows
    if pn ≤ p0 then []
    else
      let b0 := p0 * w * v.bits / 8
      let b1 := ceilDiv (pn * w * v.bits) 8
      [((Leg.base v.prim : Int) + b0, b1 - b0), (v.aux1Addr + (p0 * v.idxB : Nat), (pn - p0) * v.idxB)]
  if sp = 1 ∨ sp = 2 ∨ sp = 3 then ent v.vblk
  else if sp = 6 then ent 1
  else if sp = 4 then [((Leg.base v.prim : Int), ceilDiv (s.bmpCount v * v.bits) 8)]
  else []

/-- Whether signed byte ranges lie wholly in the CLM of a core. DESIGN CHOICE (log 140): a remote address that names the part's own ID is not inside (R144, R373). -/
def rangesInClm (c : CoreId) (rs : List (Int × Nat)) : Bool :=
  rs.all (fun r => decide ((clmAddr c : Int) ≤ r.1) && decide (r.1 + (r.2 : Int) ≤ (clmAddr c + clmSize : Nat)))

/-- Signed ranges as memory ranges for ECC reads. -/
def natRanges (rs : List (Int × Nat)) : List (Nat × Nat) := rs.map (fun r => (r.1.toNat, if r.1 < 0 then 0 else r.2))

/-- The legend register of the first invalid view of a list (R35). -/
def firstInvalid (vs : List View) : Option (Fin 32) := (vs.find? (fun v => !v.valid)).map View.reg

end Sys2Proof.Machine
end

