-- ==== Sys2Proof/Machine/Epilogue.lean ====
section
/-! DEFINITION. The epilogue and the drain unit: descriptors, the stages E1 to E8, ExW additions and the record of a tile (R106 to R117, R147 to R154). -/

namespace Sys2Proof.Machine

/-! ### The epilogue descriptor (R149) -/

/-- A 32-bit field of a descriptor. -/
def d32 (bs : List Byte) (o : Nat) : Nat := ofLE ((bs.drop o).take 4)

/-- A 16-bit field of a descriptor. -/
def d16 (bs : List Byte) (o : Nat) : Nat := ofLE ((bs.drop o).take 2)

/-- An 8-bit field of a descriptor. -/
def d8 (bs : List Byte) (o : Nat) : Nat := ofLE ((bs.drop o).take 1)

/-- Whether a run of descriptor bytes is zero. -/
def dZero (bs : List Byte) (o n : Nat) : Bool := ((bs.drop o).take n).all (fun b => b == 0)

/-- The mark of an absent array (R149). -/
def absent : Nat := 0xFFFFFFFF

/-- Whether an epilogue descriptor breaks no rule of R149. -/
def epiOk (bs : List Byte) : Bool :=
  let arr (o : Nat) : Bool := decide (d32 bs o = absent) || decide (d32 bs o % 4 = 0)
  let act := d8 bs 0x0C
  let ls := d8 bs 0x0D
  let lo := f32Val (BitVec.ofNat 32 (d32 bs 0x10))
  let hi := f32Val (BitVec.ofNat 32 (d32 bs 0x14))
  arr 0 && arr 4 && arr 8 && decide (act ≤ 7) && dZero bs 0x0E 2 && dZero bs 0x18 40 &&
    (if act = 2 then decide (1 ≤ ls ∧ ls ≤ 15) else decide (ls = 0)) &&
    (if act = 3 then decide (lo ≠ .nan) && decide (hi ≠ .nan) && !(hi.lt lo)
     else decide (d32 bs 0x10 = 0) && decide (d32 bs 0x14 = 0))

/-- Whether every entry that a drain will read lies in the core's CLM (R150). -/
def epiReach (bs : List Byte) (origin : Word) (m n : Nat) : Bool :=
  let ok (o last : Nat) : Bool := decide (d32 bs o = absent) || decide (d32 bs o + 4 * last ≤ clmSize)
  ok 0 (fldN origin 0 32 + m) && ok 4 (fldN origin 32 32 + n) && ok 8 (fldN origin 32 32 + n)

/-! ### The stages (R151) -/

/-- An FP32 value of CLM; 1 or another default where the array is absent. -/
def State.epiEntry (s : State) (c : CoreId) (bs : List Byte) (o i : Nat) (dflt : Val) : Val :=
  if d32 bs o = absent then dflt
  else f32Val (BitVec.ofNat 32 (s.mem.readN (clmAddr c + d32 bs o + 4 * i) 4))

/-- +1. -/
def Val.one : Val := .fin false 1 0

/-- The activations of R152 and whether the FP32 rounding of ACT 4 to 7 saturated. -/
def activate (bs : List Byte) (x : Val) : Val × Bool :=
  match d8 bs 0x0C with
  | 0 => (x, false)
  | 1 => (if x = .nan then x else if x.isZero ∨ x.sign then .fin false 0 0 else x, false)
  | 2 => (if x = .nan then x else if x.sign ∧ !x.isZero then x.scale (-(d8 bs 0x0D : Int)) else x, false)
  | 3 =>
    let lo := f32Val (BitVec.ofNat 32 (d32 bs 0x10))
    let hi := f32Val (BitVec.ofNat 32 (d32 bs 0x14))
    (if x = .nan then x else if x.lt lo then lo else if hi.lt x then hi else x, false)
  | a =>
    let r := convert .fp32 .rne false x
    (f32Val (actFn a (BitVec.ofNat 32 r.code)), r.sat)

/-- The value of output (m, n) after E4, and whether E4 counted a saturation. -/
def State.epiValue (s : State) (c : CoreId) (bs : List Byte) (origin : Word) (m n : Nat) (x : Val) : Val × Bool :=
  let rs := s.epiEntry c bs 0 (fldN origin 0 32 + m) Val.one
  let cs := s.epiEntry c bs 4 (fldN origin 32 32 + n) Val.one
  let x := (x.mul rs).mul cs
  let x := if d32 bs 8 = absent then x else x.add (s.epiEntry c bs 8 (fldN origin 32 32 + n) (.fin false 0 0))
  activate bs x

/-- The largest finite magnitude rounded toward +∞ to FP32 (R117). -/
def amaxOf (vs : List Val) : BitVec 32 := f32Of .up (maxMag (vs.filter Val.isFin))

/-- Position (m, n) of the first element in raster order that satisfies a test; 0xFFFF twice when none does. -/
def firstPos (n : Nat) (bs : List Bool) : Nat × Nat :=
  match (bs.zipIdx.find? (fun p => p.1)) with
  | some (_, i) => (i / n, i % n)
  | none => (0xFFFF, 0xFFFF)

/-- Split a list into pieces of `k`, at most `fuel` of them. -/
def chunksOf (k : Nat) : Nat → List α → List (List α)
  | 0, _ => []
  | fuel + 1, l => if l.isEmpty then [] else l.take k :: chunksOf k fuel (l.drop k)

/-- Convert one row of values to the output format: scale bytes, and conversions in order (E6, E7). -/
def convRow (o : View) (rmode : Nat) (ovf : Bool) (vs : List (Val × Nat)) : List Nat × List Conv :=
  let vs := vs.map (fun p => (p.1, rmodeOf rmode p.2))
  if Leg.scale o.prim = 0 then ([], vs.map (fun p => convert o.fmt p.2 ovf p.1))
  else
    let bs := (chunksOf o.blk vs.length vs).map (fun b => blockScale o.fmt ovf b)
    (bs.map Prod.fst, bs.flatMap Prod.snd)

/-- Write elements of a row from its first byte address, element `i` at bit `w·i`; partial bytes keep their other bits (R56, R147). -/
def State.writeElems (s : State) (a w : Nat) (codes : List Nat) : State :=
  if w % 8 = 0 then s.memWrite a (codes.flatMap (fun c => leBytes (w / 8) c))
  else
    let total := codes.foldr (fun c acc => c % 2 ^ w + 2 ^ w * acc) 0
    let bits := w * codes.length
    let s := s.memWrite a (leBytes (bits / 8) total)
    if bits % 8 = 0 then s else s.memBits (a + bits / 8) 0 (bits % 8) (total >>> (bits / 8 * 8))

/-- Draws of a tile in raster order over the full 128 × 128 extent (R86): none are spent when RMODE is not stochastic. -/
def tileDraws (rmode : Nat) (tag : Word) (m n : Nat) : List Nat :=
  if rmode = 2 then lfsrDraws (128 * (m - 1) + n) (tagSeed tag) else []

/-- What the epilogue reports of a tile. -/
structure EpiRes where
  nonfinite : Bool
  nfm : Nat
  nfn : Nat
  amax : BitVec 32
  conv : Nat
deriving DecidableEq, Repr

/-- Run the epilogue over the in-bounds values of a tile in raster order (E1 values) and write the output view, bottom row first (R124, R147, R151, R154, R209). -/
def State.epilogue (s : State) (c : CoreId) (t : TileInfo) (o : View) (origin tag : Word) (vals : List Val) : State × EpiRes :=
  let e4 := vals.zipIdx.map (fun p => s.epiValue c t.epi origin (p.2 / t.n) (p.2 % t.n) p.1)
  let draws := tileDraws t.rmode tag t.m t.n
  let rows := chunksOf t.n t.m e4
  let conv := rows.zipIdx.map (fun p =>
    convRow o t.rmode t.ovf (p.1.zipIdx.map (fun q => (q.1.1, draws.getD (128 * p.2 + q.2) 0))))
  let s' := conv.zipIdx.reverse.foldl (fun s p =>
    let s := s.writeElems (o.rowAddr p.2 0 0 0).toNat o.bits (p.1.2.map Conv.code)
    if Leg.scale o.prim = 0 then s
    else s.memWrite (o.scaleAddr.toNat + p.2 * o.scaleDims.1) (p.1.1.map (fun x => BitVec.ofNat 8 x))) s
  let cs := conv.flatMap Prod.snd
  let nf := (e4.zip cs).map (fun p => !p.1.1.isFin || p.2.madeInf)
  let (a, b) := firstPos t.n nf
  (s', ⟨nf.any id, a, b, amaxOf (e4.map Prod.fst),
    (e4.filter (fun p => p.2)).length + (cs.filter Conv.sat).length⟩)

/-! ### ExW regions (R106 to R109) -/

/-- CLM offset of the section's ExW region. -/
def State.exwBase (s : State) (c : CoreId) : Nat := ((s.core c).sect.map (fun x => x.exwOff)).getD 0

/-- Device address of element (m, n) of the region at EXW_OFF (R107). -/
def State.exwAddr (s : State) (c : CoreId) (off m n : Nat) : Nat := clmAddr c + s.exwBase c + off + 48 * (128 * m + n)

/-- Read an ExW element. -/
def State.exwGet (s : State) (c : CoreId) (off m n : Nat) : ExW := ExW.ofBytes (s.mem.read (s.exwAddr c off m n) 48)

/-- Write an ExW element. -/
def State.exwPut (s : State) (c : CoreId) (off m n : Nat) (x : ExW) : State := s.memWrite (s.exwAddr c off m n) x.bytes

/-- The in-bounds positions of an m × n tile in raster order. -/
def raster (m n : Nat) : List (Nat × Nat) := (List.range m).flatMap (fun i => (List.range n).map (fun j => (i, j)))

/-- Byte ranges of the in-bounds elements of an ExW region. -/
def State.exwRanges (s : State) (c : CoreId) (off m n : Nat) : List (Nat × Nat) :=
  (raster m n).map (fun p => (s.exwAddr c off p.1 p.2, 48))

/-- Whether a bank overwrites its ExW region: the tile's first chunk with EXW_MODE bit 0 = 0 (R109). -/
def DrainJob.fresh (j : DrainJob) : Bool := j.first && !(j.info.exwMode.getLsbD 0)

/-- Add a finished bank into its ExW region: the first chunk overwrites with EXW_MODE bit 0 = 0 (R108, R109). -/
def State.exwAddBank (s : State) (c : CoreId) (j : DrainJob) : State :=
  let fresh := j.fresh
  ((raster j.info.m j.info.n).zip j.cells).foldl (fun s p =>
    let ((m, n), cell) := p
    let old := if fresh then ExW.zero else s.exwGet c j.info.exwOff m n
    s.exwPut c j.info.exwOff m n (old.take (cell.contrib j.info.acc))) s

/-- The in-bounds elements of a region, in raster order. -/
def State.exwTile (s : State) (c : CoreId) (off m n : Nat) : List ExW := (raster m n).map (fun p => s.exwGet c off p.1 p.2)

/-! ### The record of a drain (R506, R508) -/

/-- The flags and counts that the STATE words of a region give (R352). -/
def exwFlags (w : BitVec 13) (xs : List ExW) : BitVec 13 :=
  flagIf (flagIf (flagIf w .sat (xs.any ExW.sat)) .scaleHi (xs.any ExW.hi)) .scaleLo (xs.any ExW.lo)

/-- Ranges that the epilogue reads: scales and bias (R509). -/
def epiRanges (c : CoreId) (bs : List Byte) (origin : Word) (m n : Nat) : List (Nat × Nat) :=
  let r (o i k : Nat) : List (Nat × Nat) := if d32 bs o = absent then [] else [(clmAddr c + d32 bs o + 4 * i, 4 * k)]
  r 0 (fldN origin 0 32) m ++ r 4 (fldN origin 32 32) n ++ r 8 (fldN origin 32 32) n

/-- The engine number of UNC_ENGINE (R512). -/
def Engine.num : Engine → Nat
  | .ga0 => 0 | .ga1 => 1 | .jx => 2 | .vec => 3 | .skt => 5 | _ => 4

/-- UNC_ENGINE of an engine at a poisoned unit. -/
def State.uncEngine (s : State) (c : CoreId) (e : Nat) (pc : BitVec 32) (a : Nat) : State :=
  s.uncFault c 0x0803 pc (BitVec.ofNat 32 e) a

/-- Mark the first job that ends a tile of a context. -/
def markFinal (x : Fin 2) : List DrainJob → Option (List DrainJob)
  | [] => none
  | j :: js =>
    if j.kind = .final ∧ j.ctx = x then some ({ j with info := { j.info with flags := flagIf j.info.flags .eccCorr true } } :: js)
    else (markFinal x js).map (fun q => j :: q)

/-- A tile in progress with ECC_CORR set. -/
def Tile.marked (t : Tile) : Tile := { t with info := { t.info with flags := flagIf t.info.flags .eccCorr true } }

/-- An ExW-adder read of a chunk of a context corrected an error: ECC_CORR of its tile, which has ended or is in progress (R509). -/
def GridArray.noteCorr (g : GridArray) (x : Fin 2) : GridArray :=
  match markFinal x g.jobs with
  | some js => { g with jobs := js }
  | none =>
    match markFinal x g.todo with
    | some js => { g with todo := js }
    | none => { g with ctx := vmod g.ctx x (fun y => { y with tile := y.tile.map Tile.marked }) }

/-- The same at the junction engine. -/
def Junction.noteCorr (j : Junction) : Junction :=
  match markFinal 0 j.jobs with
  | some js => { j with jobs := js }
  | none =>
    match markFinal 0 j.todo with
    | some js => { j with todo := js }
    | none => { j with tile := j.tile.map (fun t => (t.1.marked, t.2)) }

/-- ECC_CORR of the tile whose chunk an engine's drain unit has added (R157, R509). -/
def noteCorr (s : State) (c : CoreId) (eng : Nat) (x : Fin 2) (b : Bool) : State :=
  if !b then s
  else s.modCore c (fun k =>
    if eng = 2 then { k with jx := k.jx.noteCorr } else { k with ga := vmod k.ga (if eng = 0 then 0 else 1) (fun g => g.noteCorr x) })

/-- Drain one finished bank, or run one ExW form: the output, the TSR and DONE (R109, R151, R352). -/
def State.drain (s : State) (c : CoreId) (eng : Nat) (j : DrainJob) : State × Bool :=
  let t := j.info
  let exwRead := match j.kind with
    | .final => if t.exact' && !j.fresh then s.exwRanges c t.exwOff t.m t.n else []
    | .exw => s.exwRanges c j.src t.m t.n
    | .exwAdd => s.exwRanges c j.src t.m t.n ++ s.exwRanges c j.dst t.m t.n
    | .chunk => if j.fresh then [] else s.exwRanges c t.exwOff t.m t.n
  let noOut := decide (j.kind = .exwAdd) || (decide (j.kind = .final) && t.exact' && t.exwMode.getLsbD 1)
  let (s, e) := s.eccRead (exwRead ++ if noOut then [] else epiRanges c t.epi j.origin t.m t.n)
  match e.poison with
  | some a => (s.uncEngine c eng j.pc a, false)
  | none =>
    let fl := flagIf t.flags .eccCorr e.corrected
    match j.kind with
    | .chunk => (noteCorr (s.exwAddBank c j) c eng j.ctx e.corrected, true)
    | .exwAdd =>
      let s := (raster t.m t.n).foldl (fun s p =>
        s.exwPut c j.dst p.1 p.2 ((s.exwGet c j.dst p.1 p.2).add (s.exwGet c j.src p.1 p.2))) s
      let xs := s.exwTile c j.dst t.m t.n
      let nf := xs.map (fun x => decide (x.cls ≠ 0))
      let (a, b) := firstPos t.n nf
      let fl := flagIf (flagIf (exwFlags 0 xs) .nonfinite (nf.any id)) .exact' true
      (s.writeTsr c { Tsr.blank j.tag with flags := flagIf fl .eccCorr e.corrected, nfm := a, nfn := b,
                                           satCnt := (xs.filter ExW.sat).length }, true)
    | .exw =>
      let xs := s.exwTile c j.src t.m t.n
      let (s, r) := s.epilogue c t j.o j.origin j.tag (xs.map ExW.val)
      let fl := flagIf (flagIf (flagIf (exwFlags t.flags xs) .nonfinite r.nonfinite) .convSat (decide (r.conv ≠ 0))) .exact' true
      (s.writeTsr c { Tsr.blank j.tag with flags := flagIf fl .eccCorr e.corrected, nfm := r.nfm, nfn := r.nfn, amax := r.amax,
                                           satCnt := (xs.filter ExW.sat).length, convCnt := r.conv }, true)
    | .final =>
      let s := if t.exact' then s.exwAddBank c j else s
      let xs := if t.exact' then s.exwTile c t.exwOff t.m t.n else []
      let satCnt := if t.exact' then (xs.filter ExW.sat).length else (j.cells.filter Cell.sat).length
      let fl := if t.exact' then exwFlags fl xs
        else flagIf (flagIf (flagIf fl .sat (j.cells.any Cell.sat)) .scaleHi (j.cells.any Cell.hi)) .scaleLo (j.cells.any Cell.lo)
      let fl := flagIf (flagIf fl .exact' t.exact') .dual t.dual
      let base : Tsr := { Tsr.blank j.tag with satCnt := satCnt, violCnt := t.viol, vpos := t.vpos }
      if noOut then
        (s.writeTsr c { base with flags := flagIf fl .convSat (decide (t.conv ≠ 0)), convCnt := t.conv }, true)
      else
        let vals := if t.exact' then xs.map ExW.val else j.cells.map (Cell.value t.acc)
        let (s, r) := s.epilogue c t j.o j.origin j.tag vals
        let conv := t.conv + r.conv
        let fl := flagIf (flagIf fl .nonfinite r.nonfinite) .convSat (decide (conv ≠ 0))
        (s.writeTsr c { base with flags := fl, nfm := r.nfm, nfn := r.nfn, amax := r.amax, convCnt := conv }, true)

end Sys2Proof.Machine
end

