-- ==== Sys2Proof/Machine/Fence.lean ====
section
/-! DEFINITION. Fence markers and what they wait for, the ROWSEM test of `jct.bag`, and when a core is waiting (R195, R284, R285, R311, R332). -/

namespace Sys2Proof.Machine

/-! ### Commands issued before a number -/

/-- Whether a queue holds a command issued before `n`. -/
def queuedBefore {α : Type} (q : List (QItem α)) (n : Nat) : Bool :=
  q.any (fun i => match i with
    | .cmd k _ _ => decide (k < n)
    | .fence _ _ => false)

/-- Whether a command of an array that was issued before `n` has not completed. -/
def GridArray.busyBefore (g : GridArray) (n : Nat) : Bool :=
  g.frees.any (fun f => decide (f.2.1 < n)) || (g.todo ++ g.jobs).any (fun j => decide (j.seq < n)) ||
    g.saving.any (fun r => decide (r.seq < n)) || g.skt.any (fun r => decide (r.seq < n)) || g.fault.isSome

/-- Whether a command of the junction engine that was issued before `n` has not completed. -/
def Junction.busyBefore (j : Junction) (n : Nat) : Bool :=
  j.frees.any (fun f => decide (f.1 < n)) || (j.todo ++ j.jobs).any (fun x => decide (x.seq < n)) || j.bag.any (fun b => decide (b.seq < n)) ||
    j.routes.any (fun r => decide (r.1 < n)) || j.fault.isSome

/-- Whether a moving command of a slot that was issued before `n` has not completed; a failed one counts as completed, and an aborted one completes when the slot is idle (R285, R289). -/
def Slot.busyBefore (x : Slot) (n : Nat) : Bool :=
  match x.cmd with
  | some (k, _, _) => decide (k < n) && decide (x.st ≠ .idle ∧ x.st ≠ .stopped)
  | none => decide (x.st = .aborting) && x.aborted.any (fun k => decide (k < n))

/-- Whether an engine holds a command issued before `n` that has not completed. -/
def Core.busyBefore (k : Core) (e : Engine) (n : Nat) : Bool :=
  match e with
  | .str => queuedBefore k.qStr n || k.slots.toList.any (fun x => x.busyBefore n)
  | .ga0 => queuedBefore (vget k.qGa 0) n || (vget k.ga 0).busyBefore n
  | .ga1 => queuedBefore (vget k.qGa 1) n || (vget k.ga 1).busyBefore n
  | .jx => queuedBefore k.qJx n || k.jx.busyBefore n
  | .vec => queuedBefore k.qVec n || k.vec.any (fun v => decide (v.1 < n))
  | .skt => queuedBefore k.qSkt n || k.skt.any (fun v => decide (v.1 < n)) || k.ga.toList.any (fun g => g.skt.any (fun r => decide (r.seq < n)))
  | .syn => queuedBefore k.qSyn n || k.results.any (fun r => decide (r.seq < n))

/-- The engines in the order of the mask bits (R284). -/
def engines : List Engine := [.str, .ga0, .ga1, .jx, .vec, .skt, .syn]

/-! ### Markers (R284, R285) -/

/-- Whether an entry of the sketch queue stands for a `skt.pass`. -/
def SktCmd.isPass : SktCmd → Bool
  | .pass _ => true
  | _ => false

/-- The marker that an engine has reached: the first of its queue, with nothing before it but commands that need not begin first. -/
def firstFence {α : Type} (pass : α → Bool) : List (QItem α) → Option (Nat × FenceCond)
  | [] => none
  | .fence n f :: _ => some (n, f)
  | .cmd _ _ x :: r => if pass x then firstFence pass r else none

/-- A queue without its first marker when that one is open; `pass` tells the commands that a marker behind them need not wait for. -/
def openFirst {α : Type} (pass : α → Bool) (holds : Nat → FenceCond → Bool) : List (QItem α) → List (QItem α)
  | [] => []
  | .fence n f :: r => if holds n f then r else .fence n f :: r
  | .cmd n pc x :: r => if pass x then .cmd n pc x :: openFirst pass holds r else .cmd n pc x :: r

/-- The marker that an engine of a core has reached. -/
def Core.marker (k : Core) (e : Engine) : Option (Nat × FenceCond) :=
  match e with
  | .str => firstFence (fun _ => true) k.qStr
  | .ga0 => firstFence (fun _ => false) (vget k.qGa 0)
  | .ga1 => firstFence (fun _ => false) (vget k.qGa 1)
  | .jx => firstFence (fun _ => false) k.qJx
  | .vec => firstFence (fun _ => false) k.qVec
  | .skt => firstFence SktCmd.isPass k.qSkt
  | .syn => firstFence (fun _ => false) k.qSyn

/-- The queues of a core after the first marker of an engine has opened. -/
def Core.openFence (k : Core) (e : Engine) (holds : Nat → FenceCond → Bool) : Core :=
  match e with
  | .str => { k with qStr := openFirst (fun _ => true) holds k.qStr }
  | .ga0 => { k with qGa := vmod k.qGa 0 (openFirst (fun _ => false) holds) }
  | .ga1 => { k with qGa := vmod k.qGa 1 (openFirst (fun _ => false) holds) }
  | .jx => { k with qJx := openFirst (fun _ => false) holds k.qJx }
  | .vec => { k with qVec := openFirst (fun _ => false) holds k.qVec }
  | .skt => { k with qSkt := openFirst SktCmd.isPass holds k.qSkt }
  | .syn => { k with qSyn := openFirst (fun _ => false) holds k.qSyn }

/-- Whether the marker numbered `n` of an engine is open (R285): a value of its semaphore has met the target since the engine reached it, or meets it now; or every command of the mask before it has completed. -/
def Core.fenceHolds (k : Core) (e : Engine) (n : Nat) (f : FenceCond) : Bool :=
  match f with
  | .sem m tgt => k.met.contains (e, n) || serGe (vget k.sems m) tgt
  | .drain mask => engines.zipIdx.all (fun x => !(mask.getLsbD x.2) || !k.busyBefore x.1 n)

/-- Whether the marker of an engine is open in a state (R285). -/
def State.fenceHolds (s : State) (c : CoreId) (e : Engine) (n : Nat) (f : FenceCond) : Bool := (s.core c).fenceHolds e n f

/-- Whether an engine is held at a closed marker. -/
def Core.heldAt (k : Core) (e : Engine) : Bool := (k.marker e).any (fun m => !k.fenceHolds e m.1 m.2)

/-! ### ROWSEM (R195) -/

/-- Whether a value of ROWSEM admits every row that a bag command reads. -/
def BagRun.admits (r : BagRun) (v : BitVec 32) : Bool :=
  let js := r.ents.flatMap (fun es => es.map Prod.fst)
  js.isEmpty || serGe v (fld r.m.kbase 0 32 + BitVec.ofNat 32 (js.foldl max 0 + 1))

/-- Whether ROWSEM has admitted every row that a bag command reads. -/
def Core.rowsIn (k : Core) (r : BagRun) : Bool := k.met.contains (.jx, r.seq) || r.admits (vget k.sems r.rowsem)

/-! ### Values that have been observed (R311) -/

/-- The markers and the bag command that the present value of a semaphore admits: what they have observed stays so when the value changes. -/
def Core.metBy (k : Core) (n : Fin 64) : List (Engine × Nat) :=
  let v := vget k.sems n
  engines.filterMap (fun e => match k.marker e with
    | some (q, .sem m tgt) => if m = n ∧ serGe v tgt ∧ !k.met.contains (e, q) then some (e, q) else none
    | _ => none) ++
    (k.jx.bag.toList.filterMap (fun r => if r.rowsem = n ∧ r.admits v ∧ !k.met.contains (.jx, r.seq) then some (.jx, r.seq) else none))

/-- A core that has noted what a semaphore's present value admits. -/
def Core.noteMet (k : Core) (n : Fin 64) : Core := { k with met := k.met ++ k.metBy n }

/-! ### Waiting (R332) -/

/-- Whether a CCLK unit has no command to begin: its queue is empty, or it is held at a closed marker. -/
def Core.idleQ (k : Core) (e : Engine) : Bool :=
  k.heldAt e || match e with
    | .str => k.qStr.isEmpty
    | .ga0 => (vget k.qGa 0).isEmpty
    | .ga1 => (vget k.qGa 1).isEmpty
    | .jx => k.qJx.isEmpty
    | .vec => k.qVec.isEmpty
    | .skt => k.qSkt.isEmpty
    | .syn => k.qSyn.isEmpty

/-- The units that run on CCLK (R332). -/
def cclkUnits : List Engine := [.ga0, .ga1, .jx, .vec, .skt]

/-- Whether a grid array has nothing in progress. -/
def GridArray.quiet (g : GridArray) : Bool :=
  g.todo.isEmpty && g.jobs.isEmpty && g.frees.isEmpty && g.saving.isNone && g.skt.isNone && g.fault.isNone

/-- Whether the junction engine has nothing in progress but a tile that waits to be continued. -/
def Junction.quiet (j : Junction) : Bool :=
  j.todo.isEmpty && j.jobs.isEmpty && j.frees.isEmpty && j.routes.isEmpty && j.bag.isNone && j.fault.isNone

/-- Whether every CCLK unit has no command in progress or is held at a closed fence marker (R332). -/
def Core.unitsIdle (k : Core) : Bool :=
  cclkUnits.all k.idleQ && k.vec.isNone && k.skt.isNone && k.ga.toList.all GridArray.quiet && k.jx.quiet

/-- Whether a core is waiting (R332). -/
def Core.waiting (k : Core) : Bool := k.wait.isSome && decide (k.run = .running) && k.unitsIdle

/-- What wakes a Gated core (R334): its wait was released, a marker at which a CCLK unit is held opens, or a command has reached a CCLK unit. -/
def Core.wakes (k : Core) : Bool := k.wait.isNone || cclkUnits.any (fun e => !k.idleQ e)

/-! ### Activity (R330) -/

/-- Whether a core does something in every cycle without a command of its own: its sequencer is not held, or a pass feeds its arrays. -/
def Core.atWork (k : Core) : Bool :=
  (decide (k.run = .running) && k.wait.isNone && k.stalled.isNone) || k.ga.toList.any (fun g => g.todo.any (fun j => decide (j.left ≠ 0))) ||
    k.jx.todo.any (fun j => decide (j.left ≠ 0))

/-- The activity picture of a core. -/
def Core.act (k : Core) : CoreAct where
  pc := k.pc
  seq := k.seq
  results := k.results
  wait := k.wait
  left := [k.qStr.length, (vget k.qGa 0).length, (vget k.qGa 1).length, k.qJx.length, k.qVec.length, k.qSkt.length, k.qSyn.length]
  slots := k.slots.map (fun x => { x with bucket := 0 })
  ga := k.ga
  jx := k.jx
  vec := k.vec
  skt := k.skt
  sems := k.sems
  bars := k.bars
  queues := k.queues
  pools := k.pools

/-- Whether a core of a running task has not halted. -/
def Core.unhalted (k : Core) : Bool := decide (k.run = .running ∨ k.run = .halting)

/-- One ACLK cycle of the stall detector and of the count that leads to Gated (R330, R333). -/
def Core.watch (k : Core) : Core :=
  if !k.unhalted then { k with seen := none, moved := false, still := 0, waited := 0 }
  else
    let a := k.act
    { k with
      seen := some a
      moved := false
      still := if k.atWork || k.moved || decide (k.seen ≠ some a) then 0 else k.still + 1
      waited := if k.waiting then k.waited + 1 else 0 }

/-- Whether a core has been stalled for STALL_LIMIT cycles (R330): by the count, and by no activity since the last tick. -/
def Core.isStalled (k : Core) : Bool :=
  k.unhalted && decide (fldN k.waitCfg 0 32 ≠ 0) && decide (fldN k.waitCfg 0 32 ≤ k.still) && !k.atWork && !k.moved && decide (k.seen = some k.act)

end Sys2Proof.Machine
end

