-- ==== Sys2Proof/Machine/Hash.lean ====
section
/-! DEFINITION. SHA-256, SHA-384 and CRC-32, as the spec names them (R38, R392, R429). -/

namespace Sys2Proof.Machine

/-! ### CRC-32 (R392) -/

/-- One step of the reflected CRC-32 shift register. -/
def crcBit (r : BitVec 32) : BitVec 32 := if r.getLsbD 0 then (r >>> 1) ^^^ 0xEDB88320 else r >>> 1

/-- One byte into the CRC-32 shift register. -/
def crcByte (r : BitVec 32) (b : Byte) : BitVec 32 :=
  (List.range 8).foldl (fun r _ => crcBit r) (r ^^^ b.setWidth 32)

/-- CRC-32 of IEEE 802.3. -/
def crc32 (bs : List Byte) : BitVec 32 := ~~~(bs.foldl crcByte 0xFFFFFFFF)

/-! ### The constants of SHA-2: fractional parts of roots of primes -/

/-- Whether a number is prime, by trial division. -/
def isPrime (n : Nat) : Bool := decide (2 ≤ n) && ((List.range n).drop 2).all (fun d => decide (n % d ≠ 0))

/-- The first `k` primes below 512. -/
def primes (k : Nat) : List Nat := (((List.range 512).filter isPrime).take k)

/-- The largest `x` below `2^n` with `x^e ≤ v`, by bits from the top. -/
def rootN (e v : Nat) : Nat → Nat → Nat
  | 0, x => x
  | n + 1, x => if (x + 2 ^ n) ^ e ≤ v then rootN e v n (x + 2 ^ n) else rootN e v n x

/-- The first `w` bits of the fractional part of the square root of `p`. -/
def fracSqrt (w p : Nat) : Nat := rootN 2 (p * 2 ^ (2 * w)) (w + 6) 0 % 2 ^ w

/-- The first `w` bits of the fractional part of the cube root of `p`. -/
def fracCbrt (w p : Nat) : Nat := rootN 3 (p * 2 ^ (3 * w)) (w + 4) 0 % 2 ^ w

/-! ### SHA-2 -/

/-- What tells SHA-256 from SHA-384: word width, rounds, rotation amounts. -/
structure ShaSpec where
  w : Nat
  rounds : Nat
  big0 : Nat × Nat × Nat
  big1 : Nat × Nat × Nat
  small0 : Nat × Nat × Nat
  small1 : Nat × Nat × Nat

/-- SHA-256. -/
def sha256Spec : ShaSpec := ⟨32, 64, (2, 13, 22), (6, 11, 25), (7, 18, 3), (17, 19, 10)⟩

/-- SHA-384 and SHA-512. -/
def sha512Spec : ShaSpec := ⟨64, 80, (28, 34, 39), (14, 18, 41), (1, 8, 7), (19, 61, 6)⟩

/-- A rotation to the right. -/
def rotr {w : Nat} (x : BitVec w) (n : Nat) : BitVec w := x.rotateRight n

/-- An upper-case sigma. -/
def bigSigma {w : Nat} (t : Nat × Nat × Nat) (x : BitVec w) : BitVec w := rotr x t.1 ^^^ rotr x t.2.1 ^^^ rotr x t.2.2

/-- A lower-case sigma. -/
def smallSigma {w : Nat} (t : Nat × Nat × Nat) (x : BitVec w) : BitVec w := rotr x t.1 ^^^ rotr x t.2.1 ^^^ (x >>> t.2.2)

/-- The message schedule: `n` more words, newest first. -/
def schedule (s : ShaSpec) : Nat → List (BitVec s.w) → List (BitVec s.w)
  | 0, ws => ws
  | n + 1, ws =>
    let x := smallSigma s.small1 (ws.getD 1 0) + ws.getD 6 0 + smallSigma s.small0 (ws.getD 14 0) + ws.getD 15 0
    schedule s n (x :: ws)

/-- One round on the eight working variables. -/
def shaRound (s : ShaSpec) (v : List (BitVec s.w)) (kw : BitVec s.w) : List (BitVec s.w) :=
  match v with
  | [a, b, c, d, e, f, g, h] =>
    let t1 := h + bigSigma s.big1 e + ((e &&& f) ^^^ (~~~e &&& g)) + kw
    let t2 := bigSigma s.big0 a + ((a &&& b) ^^^ (a &&& c) ^^^ (b &&& c))
    [t1 + t2, a, b, c, d + t1, e, f, g]
  | v => v

/-- One block of sixteen words. -/
def shaBlock (s : ShaSpec) (ks : List (BitVec s.w)) (hs : List (BitVec s.w)) (ws : List (BitVec s.w)) : List (BitVec s.w) :=
  let sched := (schedule s (s.rounds - 16) ws.reverse).reverse
  let v := (ks.zip sched).foldl (fun v p => shaRound s v (p.1 + p.2)) hs
  (hs.zip v).map (fun p => p.1 + p.2)

/-- Big-endian words of a byte list, at most `fuel` of them. -/
def beWords (w : Nat) : Nat → List Byte → List (BitVec w)
  | 0, _ => []
  | fuel + 1, bs => if bs.isEmpty then [] else BitVec.ofNat w (ofBE (bs.take (w / 8))) :: beWords w fuel (bs.drop (w / 8))

/-- Hash all blocks, at most `fuel` of them. -/
def shaBlocks (s : ShaSpec) (ks : List (BitVec s.w)) : Nat → List (BitVec s.w) → List (BitVec s.w) → List (BitVec s.w)
  | 0, hs, _ => hs
  | fuel + 1, hs, ws => if ws.isEmpty then hs else shaBlocks s ks fuel (shaBlock s ks hs (ws.take 16)) (ws.drop 16)

/-- The padding of a message of `n` bytes. -/
def shaPad (s : ShaSpec) (n : Nat) : List Byte :=
  let blk := 2 * s.w
  let lenB := s.w / 4
  let z := (2 * blk - (n + 1 + lenB) % blk) % blk
  0x80 :: (List.replicate z 0 ++ beBytes lenB (8 * n))

/-- The hash under initial values. -/
def shaHash (s : ShaSpec) (iv : List Nat) (bs : List Byte) : List Byte :=
  let ks := (primes s.rounds).map (fun p => BitVec.ofNat s.w (fracCbrt s.w p))
  let m := bs ++ shaPad s bs.length
  let ws := beWords s.w m.length m
  (shaBlocks s ks ws.length (iv.map (BitVec.ofNat s.w)) ws).flatMap (fun x => beBytes (s.w / 8) x.toNat)

/-- SHA-256. -/
def sha256 (bs : List Byte) : List Byte := shaHash sha256Spec ((primes 8).map (fracSqrt 32)) bs

/-- SHA-384. -/
def sha384 (bs : List Byte) : List Byte := (shaHash sha512Spec (((primes 16).drop 8).map (fracSqrt 64)) bs).take 48

end Sys2Proof.Machine
end

