-- ==== Sys2Proof/Machine/Cipher.lean ====
section
/-! DEFINITION. AES-256, AES-GCM-256 and HMAC-SHA-384, as the spec names them (R400, R468). -/

namespace Sys2Proof.Machine

/-- A message authentication code: HMAC with SHA-384, whose blocks have 128 bytes. -/
def hmac384 (key msg : List Byte) : List Byte :=
  let k := if key.length > 128 then sha384 key else key
  let k := k ++ List.replicate (128 - k.length) 0
  sha384 (k.map (· ^^^ 0x5C) ++ sha384 (k.map (· ^^^ 0x36) ++ msg))

/-! ### AES with a key of 256 bits -/

/-- A product in the field of 256 elements by `n` steps of shift and add. -/
def gfByte : Nat → Byte → Byte → Byte
  | 0, _, _ => 0
  | n + 1, a, b => (if b.getLsbD 0 then a else 0) ^^^ gfByte n (if a.getLsbD 7 then (a <<< 1) ^^^ 0x1B else a <<< 1) (b >>> 1)

/-- The substitution of one byte: its inverse, which is its power 254, under the affine map. -/
def aesSub (x : Byte) : Byte :=
  let p := (List.range 6).foldl (fun p _ => gfByte 8 (gfByte 8 p p) x) x
  let i := gfByte 8 p p
  i ^^^ i.rotateLeft 1 ^^^ i.rotateLeft 2 ^^^ i.rotateLeft 3 ^^^ i.rotateLeft 4 ^^^ 0x63

/-- Two byte strings of one length, combined by exclusive or. -/
def xorEach (a b : List Byte) : List Byte := List.zipWith (· ^^^ ·) a b

/-- The words of the expanded key, newest first: `n` more, of which the next has index `i`; `rc` is the round constant to come. -/
def aesExpand : Nat → Nat → Byte → List (List Byte) → List (List Byte)
  | 0, _, _, ws => ws
  | n + 1, i, rc, ws =>
    let t := ws.getD 0 []
    let u := if i % 8 = 0 then xorEach ((t.rotateLeft 1).map aesSub) [rc, 0, 0, 0] else if i % 8 = 4 then t.map aesSub else t
    aesExpand n (i + 1) (if i % 8 = 0 then gfByte 8 rc 2 else rc) (xorEach (ws.getD 7 []) u :: ws)

/-- The 15 round keys of a key of 32 bytes. -/
def aesKeys (key : List Byte) : List (List Byte) :=
  let ws := (List.range 8).map (fun i => (key.drop (4 * i)).take 4)
  let all := (aesExpand 52 8 1 ws.reverse).reverse
  (List.range 15).map (fun r => ((all.drop (4 * r)).take 4).flatten)

/-- The byte permutation of a round: row `r` of the block turns by `r` columns. -/
def aesShift (b : List Byte) : List Byte := (List.range 16).map (fun i => b.getD (4 * ((i / 4 + i % 4) % 4) + i % 4) 0)

/-- The mixing of the columns. -/
def aesMix (b : List Byte) : List Byte :=
  (List.range 16).map (fun i =>
    let at' (k : Nat) : Byte := b.getD (i / 4 * 4 + (i + k) % 4) 0
    gfByte 8 (at' 0) 2 ^^^ gfByte 8 (at' 1) 3 ^^^ at' 2 ^^^ at' 3)

/-- One block of 16 bytes, encrypted under the round keys. -/
def aesBlock (ks : List (List Byte)) (b : List Byte) : List Byte :=
  let b := (List.range 13).foldl (fun b r => xorEach (aesMix (aesShift (b.map aesSub))) (ks.getD (r + 1) [])) (xorEach b (ks.getD 0 []))
  xorEach (aesShift (b.map aesSub)) (ks.getD 14 [])

/-! ### Galois/counter mode -/

/-- A product in the field of 2^128 elements, whose bit 127 is the constant term, by `n` steps. -/
def gcmMul : Nat → BitVec 128 → BitVec 128 → BitVec 128
  | 0, _, _ => 0
  | n + 1, x, v => (if x.getLsbD 127 then v else 0) ^^^ gcmMul n (x <<< 1) (if v.getLsbD 0 then (v >>> 1) ^^^ (0xE1#128 <<< 120) else v >>> 1)

/-- The hash of at most `fuel` blocks of 16 bytes under `h`, from `y`; a last block that is short is padded with zeros. -/
def ghash (h : BitVec 128) : Nat → BitVec 128 → List Byte → BitVec 128
  | 0, y, _ => y
  | fuel + 1, y, bs =>
    if bs.isEmpty then y
    else ghash h fuel (gcmMul 128 (y ^^^ BitVec.ofNat 128 (ofBE ((bs ++ List.replicate 16 0).take 16))) h) (bs.drop 16)

/-- Block `n` of the keystream of a key and a 96-bit IV; block 1 masks the tag, and the text begins at block 2. -/
def gcmStream (ks : List (List Byte)) (iv : List Byte) (n : Nat) : List Byte := aesBlock ks (iv ++ beBytes 4 n)

/-- The tag of additional data and ciphertext under a key and an IV. -/
def gcmTag (ks : List (List Byte)) (iv aad ct : List Byte) : List Byte :=
  let h := BitVec.ofNat 128 (ofBE (aesBlock ks (List.replicate 16 0)))
  let y := ghash h ct.length (ghash h aad.length 0 aad) ct
  let y := ghash h 1 y (beBytes 8 (8 * aad.length) ++ beBytes 8 (8 * ct.length))
  xorEach (gcmStream ks iv 1) (beBytes 16 y.toNat)

end Sys2Proof.Machine
end

