-- ==== Sys2Proof/Machine/RailOps.lean ====
section
/-! DEFINITION. What the Rail unit does to send: cars, credits, the replay buffer, encryption, routes and messages (R390 to R405). -/

namespace Sys2Proof.Machine

/-! ### Cars (R390 to R392) -/

/-- The header of a car (R390). -/
def Car.header (c : Car) : Nat :=
  c.dst.toNat + 2 ^ 12 * c.src.toNat + 2 ^ 24 * c.epoch.toNat + 2 ^ 40 * c.typ.toNat + 2 ^ 44 * c.vc.val + 2 ^ 46 * c.dl.toNat +
    2 ^ 47 * c.len.toNat + 2 ^ 55 * c.seq.toNat + 2 ^ 66 * c.ack.toNat + 2 ^ 77 * c.nak.toNat + 2 ^ 78 * c.cvc.val + 2 ^ 80 * c.cdl.toNat +
    2 ^ 81 * c.ccnt.toNat + 2 ^ 86 * c.ver.toNat + 2 ^ 88 * c.tags.toNat + 2 ^ 96 * c.crc.toNat

/-- The CRC of a car, over its header with the CRC field 0 and its payload as transmitted (R392). -/
def Car.crcOf (c : Car) : BitVec 32 := crc32 (leBytes 16 (({ c with crc := 0 } : Car).header) ++ c.payload)

/-- The 272 bytes of a car. -/
def Car.bytes (c : Car) : List Byte := leBytes 16 c.header ++ c.payload

/-- The car that 272 bytes hold (R390). -/
def Car.ofBytes (bs : List Byte) : Car :=
  let h : BitVec 128 := BitVec.ofNat 128 (ofLE (bs.take 16))
  { dst := fld h 0 12, src := fld h 12 12, epoch := fld h 24 16, typ := fld h 40 4, vc := ⟨fldN h 44 2 % 4, Nat.mod_lt _ (by decide)⟩, dl := bit h 46,
    len := fld h 47 8, seq := fld h 55 11, ack := fld h 66 11, nak := bit h 77, cvc := ⟨fldN h 78 2 % 4, Nat.mod_lt _ (by decide)⟩, cdl := bit h 80,
    ccnt := fld h 81 5, ver := fld h 86 2, tags := fld h 88 8, crc := fld h 96 32, payload := (bs.drop 16).take 256 }

/-- Whether a type is sequenced (R391). -/
def sequenced (t : BitVec 4) : Bool := decide (2 ≤ t.toNat ∧ t.toNat ≤ 11)

/-- Index of a (VC, DL) pair among the credits. -/
def vcIx (vc : Fin 4) (dl : Bool) : Fin 8 := ⟨2 * vc.val + dl.toNat, by cases dl <;> simp <;> omega⟩

/-- The header as the additional authenticated data take it (R400). -/
def Car.aad (c : Car) : List Byte :=
  leBytes 16 (({ c with ack := 0, nak := false, cvc := 0, cdl := false, ccnt := 0, tags := 0, crc := 0 } : Car).header)

/-- Two byte strings combined by exclusive or, over the length of the first. -/
def xorBytes : List Byte → List Byte → List Byte
  | [], _ => []
  | a :: as, [] => a :: as
  | a :: as, b :: bs => (a ^^^ b) :: xorBytes as bs

/-- A payload made 256 bytes long. -/
def pad256 (bs : List Byte) : List Byte := (bs ++ zeros 256).take 256

/-- The round keys of a link key in one direction. -/
def railKeys (key : Nat) (dir : Bool) : List (List Byte) := aesKeys (beBytes 32 (Config.railKey key dir).toNat)

/-- The IV of a group: the constant of the link and direction, then the group counter (R400). DESIGN CHOICE: most significant byte first. -/
def groupIv (key : Nat) (dir : Bool) (g : Nat) : List Byte := beBytes 4 (Config.railIv key dir).toNat ++ beBytes 8 g

/-- The keystream of car `j` of a group, whose 16 payloads are encrypted in SEQ order (R400). -/
def railPad (key : Nat) (dir : Bool) (g j : Nat) : List Byte :=
  (List.range 16).flatMap (fun b => gcmStream (railKeys key dir) (groupIv key dir g) (2 + 16 * j + b))

/-- The tag of a group of cars whose payloads are encrypted (R400). -/
def railTag (key : Nat) (dir : Bool) (g : Nat) (cs : List Car) : List Byte :=
  gcmTag (railKeys key dir) (groupIv key dir g) (cs.flatMap Car.aad) (cs.flatMap Car.payload)

/-! ### Links -/

/-- A link of the part. -/
def State.link (s : State) (l : Fin 72) : Link := vget s.pkg.links l

/-- Change a link. -/
def State.modLink (s : State) (l : Fin 72) (f : Link → Link) : State := s.modPkg (fun p => { p with links := vmod p.links l f })

/-- Ports of the variant: 5, 9 or 18 (R383). -/
def State.portCount (s : State) : Nat := match s.pkg.fuses.variant with | 0 => 5 | 1 => 9 | 2 => 18

/-- Lanes of a port (R383). -/
def State.portLanes (s : State) (p : Nat) : Nat := if s.pkg.fuses.variant = 0 ∧ p = 4 then 4 else 8

/-- Whether a link exists: its port is present and enabled and its split includes it (R384). -/
def State.hasLink (s : State) (l : Fin 72) : Bool :=
  let p := l.val / 4
  let cfg := vgetN s.pkg.ports p ⟨false, 0, false, false, false⟩
  decide (p < s.portCount) && cfg.en && decide (l.val % 4 < (match cfg.split.toNat with | 0 => 1 | 1 => 2 | 2 => if s.portLanes p = 8 then 4 else 1 | _ => 1))

/-- Whether cars may leave on a link: it is UP, and so holds its keys (R402, R409). -/
def Link.carries (k : Link) : Bool := decide (k.st = .up)

/-- The direction flag of the key of what this part sends on a link. -/
def State.txDir (s : State) (l : Fin 72) : Bool := decide (s.pkg.partId.toNat < (s.link l).peer.toNat)

/-- The first (VC, DL) with credits to return, and how many of at most 31 (R396). -/
def Link.creditOut (k : Link) : Fin 4 × Bool × Nat :=
  match (fins 8).find? (fun i => decide (vget k.owe i ≠ 0)) with
  | some i => (⟨i.val / 2, by omega⟩, decide (i.val % 2 = 1), min 31 (vget k.owe i))
  | none => (0, false, 0)

/-- Put a car on the wire: ACK, NAK and the credit return are those of this moment (R396, R398). -/
def State.emit (s : State) (l : Fin 72) (c : Car) : State :=
  let k := s.link l
  let (cv, cd, n) := k.creditOut
  let c := { c with ack := BitVec.ofNat 11 (k.authed + 2047), nak := k.nak, cvc := cv, cdl := cd, ccnt := BitVec.ofNat 5 n }
  let c := { c with crc := c.crcOf }
  (s.modLink l (fun k => { k with nak := false, owe := vmod k.owe (vcIx cv cd) (fun x => x - n) })).send (.car l c.bytes)

/-- The key of a group sent on a link, and the group's counter under it (R400): from the group of an agreed key update on, the new key (R402). -/
def Link.txKey (k : Link) (g : Nat) : Option (Nat × Nat) :=
  ((k.rekey.find? (fun x => decide (x.tx ≤ g))).or k.key).map (fun x => (x.name, g - x.tx))

/-- The key of a group received on a link, and the group's counter under it (R400, R402). -/
def Link.rxKey (k : Link) (g : Nat) : Option (Nat × Nat) :=
  ((k.rekey.find? (fun x => decide (x.rx ≤ g))).or k.key).map (fun x => (x.name, g - x.rx))

/-- A sequenced car as it travels: SEQ, TAGS of the group before and the encrypted payload (R400). -/
def State.wire (s : State) (l : Fin 72) (n : Nat) (c : Car) : Car :=
  let k := s.link l
  let key := (k.txKey (n / 16)).getD (0, 0)
  let tag := ((k.tagsTx.find? (fun t => decide (t.1 + 1 = n / 16))).map Prod.snd).getD []
  { c with seq := BitVec.ofNat 11 n, tags := tag.getD (n % 16) 0,
           payload := xorBytes (pad256 c.payload) (railPad key.1 (s.txDir l) key.2 (n % 16)) }

/-- A car that carries nothing but ACK, NAK and credits. -/
def State.bareCar (s : State) (typ : BitVec 4) (payload : List Byte) : Car :=
  { dst := 0, src := s.pkg.partId, epoch := 0, typ := typ, vc := 0, dl := false, len := 0, seq := 0, ack := 0, nak := false, cvc := 0, cdl := false,
    ccnt := 0, ver := 0, tags := 0, crc := 0, payload := pad256 payload }

/-- The tag of the group that ends with car `n`, from the cars in the replay buffer (R400). -/
def State.groupTag (s : State) (l : Fin 72) (g : Nat) : List Byte :=
  let k := s.link l
  let cs := (k.buf.filter (fun p => decide (p.1 / 16 = g))).map (fun p => s.wire l p.1 p.2)
  let key := (k.txKey g).getD (0, 0)
  railTag key.1 (s.txDir l) key.2 cs

/-- A TAG car for the last complete group, whose payload takes 17 bytes (R390, R402). -/
def State.sendTag (s : State) (l : Fin 72) : State :=
  match (s.link l).tagsTx with
  | (g, t) :: _ => s.emit l { s.bareCar 1 (t ++ [BitVec.ofNat 8 (g % 128)]) with len := 16 }
  | [] => s

/-- A free car slot of a link (R389, R402): a TAG car behind a complete group, else an IDLE car; a link in KEYING carries IDLE cars. -/
def State.fillSlot (s : State) (l : Fin 72) : State :=
  let k := s.link l
  if k.st = .up then (if k.next % 16 = 0 ∧ !k.tagsTx.isEmpty then s.sendTag l else s.emit l (s.bareCar 0 []))
  else if k.st = .keying then s.emit l (s.bareCar 0 [])
  else s

/-- A free car slot of every link that carries cars. -/
def State.fillSlots (s : State) : State :=
  if s.pkg.links.toList.all (fun k => decide (k.st ≠ .up ∧ k.st ≠ .keying)) then s else (fins 72).foldl (fun s l => s.fillSlot l) s

/-- Send one car for the first time: it takes a SEQ, a place in the replay buffer and, unless it is PAD, a credit (R391, R398). -/
def State.sendNew (s : State) (l : Fin 72) (c : Car) : State :=
  let n := (s.link l).next
  let s := s.modLink l (fun k =>
    { k with
      next := n + 1
      buf := k.buf ++ [(n, { c with seq := BitVec.ofNat 11 n })]
      credit := if c.typ = 2#4 then k.credit else vmod k.credit (vcIx c.vc c.dl) (fun x => x - 1) })
  let s := s.emit l (s.wire l n c)
  if n % 16 = 15 then
    let t := s.groupTag l (n / 16)
    s.modLink l (fun k => { k with tagsTx := ((n / 16, t) :: k.tagsTx).take 66 })
  else s

/-- Whether the first waiting car of a VC may leave now. -/
def Link.mayLeave (k : Link) (c : Car) : Bool := k.carries && k.key.isSome && decide (k.buf.length < 1024) && decide (vget k.credit (vcIx c.vc c.dl) ≠ 0)

/-- The first waiting car that may leave, VC3 before the others, with the cars that stay (R394, R397): no car passes an earlier one of its VC and dateline half, and neither half waits for the other (R404). -/
def Link.pick (k : Link) : Option ((Car × Option (Fin 72 × Fin 8)) × List (Car × Option (Fin 72 × Fin 8))) :=
  let ok (i : Fin 8) : Option (Car × Option (Fin 72 × Fin 8)) := (k.txq.find? (fun c => vcIx c.1.vc c.1.dl = i)).filter (fun c => k.mayLeave c.1)
  match ([6, 7, 2, 3, 0, 1, 4, 5] : List (Fin 8)).findSome? ok with
  | some c => some (c, k.txq.erase c)
  | none => none

/-- Return credits to the far end of a link, in a car of a free slot (R396, R402). -/
def State.giveBack (s : State) (l : Fin 72) (ix : Fin 8) (n : Nat) : State :=
  if n = 0 then s
  else
    let s := s.modLink l (fun k => { k with owe := vmod k.owe ix (fun x => x + n) })
    if (s.link l).carries then s.fillSlot l else s

/-- Send waiting cars while credits and room last, at most `fuel` of them; a forwarded car then frees its place in the buffer that it came into. -/
def State.pump (s : State) (l : Fin 72) : Nat → State
  | 0 => s
  | fuel + 1 =>
    match (s.link l).pick with
    | some ((c, up), rest) =>
      let s := (s.modLink l (fun k => { k with txq := rest })).sendNew l c
      let s := match up with | some (u, ix) => s.giveBack u ix 1 | none => s
      s.pump l fuel
    | none => s

/-- Send what may leave on a link; a complete group with nothing behind it is followed by its TAG car (R402). -/
def State.flush (s : State) (l : Fin 72) : State :=
  let n0 := (s.link l).next
  let s := s.pump l (s.link l).txq.length
  let n := (s.link l).next
  if n ≠ n0 ∧ n % 16 = 0 then s.sendTag l else s

/-- Queue cars on a link and send what may leave. -/
def State.queueCars (s : State) (l : Fin 72) (cs : List Car) : State :=
  (s.modLink l (fun k => { k with txq := k.txq ++ cs.map (fun c => (c, none)) })).flush l

/-! ### Routes (R403, R404) -/

/-- A gazetteer entry; an entry never written reads 0. -/
def State.gazEntry (s : State) (d : BitVec 12) : BitVec 9 :=
  ((s.pkg.gaz.find? (fun e => decide (e.1.val = d.toNat))).map Prod.snd).getD 0

/-- A link number as an index; 72 and above name no link. -/
def linkIx (n : Nat) : Option (Fin 72) := if h : n < 72 then some ⟨n, h⟩ else none

/-- Link of RAIL_TORUS for a dimension and a sign. -/
def State.torusLink (s : State) (dim : Nat) (pos : Bool) : Nat := fldN s.pkg.torus (12 + 7 * (2 * dim + if pos then 0 else 1)) 7

/-- The torus rule (R404): the link, and DL of the car that leaves. `via` is the link that the car came on, with its DL. -/
def State.torusRoute (s : State) (d : BitVec 12) (via : Option (Fin 72 × Bool)) : Option (Fin 72 × Bool) :=
  let x := fldN s.pkg.torus 0 4 + 1
  let y := fldN s.pkg.torus 4 4 + 1
  let z := fldN s.pkg.torus 8 4 + 1
  let co (i : Nat) : List (Nat × Nat) := [(i % x, x), (i / x % y, y), (i / (x * y), z)]
  let me := co s.pkg.partId.toNat
  let there := co d.toNat
  match ((me.zip there).zipIdx.find? (fun p => decide (p.1.1.1 ≠ p.1.2.1))) with
  | none => none
  | some (((a, n), (b, _)), dim) =>
    let fwd := (b + n - a) % n
    let pos := decide (fwd ≤ n - fwd)
    let wrap := if pos then decide (a = n - 1) else decide (a = 0)
    let same := match via with
      | some (l, dl) => dl && (decide (l.val = s.torusLink dim true) || decide (l.val = s.torusLink dim false))
      | none => false
    (linkIx (s.torusLink dim pos)).map (fun l => (l, wrap || same))

/-- The link on which a message for a part leaves and the DL of its cars; none when it is unroutable (R403). -/
def State.route (s : State) (d : BitVec 12) (via : Option (Fin 72 × Bool)) : Option (Fin 72 × Bool) :=
  let e := s.gazEntry d
  let r := if !bit e 7 then none else if bit e 8 then s.torusRoute d via else (linkIx (fldN e 0 7)).map (fun l => (l, false))
  r.filter (fun l => decide ((s.link l.1).st ≠ .failed ∧ (s.link l.1).st ≠ .disabled) && s.hasLink l.1)

/-! ### Messages (R393 to R395) -/

/-- What a message descriptor holds (R393). -/
structure Desc where
  addr : Nat
  len : Nat
  rtag : BitVec 16
  rdc : Fin 64
  code : BitVec 4
deriving DecidableEq, Repr

/-- The 16 bytes of a descriptor; `len` counts bytes, 0 for a field that is 0. -/
def Desc.bytes (d : Desc) : List Byte :=
  leBytes 16 (d.addr % 2 ^ 48 + 2 ^ 48 * ((d.len - 1) % 2 ^ 12) + 2 ^ 64 * d.rtag.toNat + 2 ^ 80 * d.rdc.val + 2 ^ 86 * d.code.toNat)

/-- Whether the descriptor that 16 bytes hold has a reserved bit set: bits [63:60] and [127:90] (R393). The destination refuses its message (R9). -/
def descRsv (bs : List Byte) : Bool :=
  let h : BitVec 128 := BitVec.ofNat 128 (ofLE (bs.take 16))
  decide (fldN h 60 4 ≠ 0 ∨ fldN h 90 38 ≠ 0)

/-- The descriptor that 16 bytes hold. -/
def Desc.ofBytes (bs : List Byte) : Desc :=
  let h : BitVec 128 := BitVec.ofNat 128 (ofLE (bs.take 16))
  ⟨fldN h 0 48, fldN h 48 12 + 1, fld h 64 16, ⟨fldN h 80 6 % 64, Nat.mod_lt _ (by decide)⟩, fld h 86 4⟩

/-- Pieces of a byte string of at most 256 bytes, at most `fuel` of them. -/
def carPieces : Nat → List Byte → List (List Byte)
  | 0, _ => []
  | fuel + 1, bs => if bs.isEmpty then [] else bs.take 256 :: carPieces fuel (bs.drop 256)

/-- The virtual channel of a type (R391). -/
def vcOf (t : BitVec 4) : Fin 4 :=
  match t.toNat with
  | 6 => 1 | 7 => 1 | 8 => 1 | 9 => 2 | 10 => 3 | 11 => 3 | _ => 0

/-- The cars of one message (R393). -/
def State.messageCars (s : State) (dst : BitVec 12) (typ : BitVec 4) (dl : Bool) (d : Desc) (data : List Byte) : List Car :=
  let bs := d.bytes ++ data
  (carPieces bs.length bs).map (fun p =>
    { s.bareCar typ p with dst := dst, epoch := s.pkg.epoch.setWidth 16, vc := vcOf typ, dl := dl, len := BitVec.ofNat 8 (p.length - 1) })

/-- Send a message to a part; false when it is unroutable. -/
def State.sendMsg (s : State) (dst : BitVec 12) (typ : BitVec 4) (d : Desc) (data : List Byte) : State × Bool :=
  match s.route dst none with
  | some (l, dl) => (s.queueCars l (s.messageCars dst typ dl d data), true)
  | none => (s, false)

/-- The next requester tag. -/
def State.takeTag (s : State) : BitVec 16 × State := (s.pkg.nextTag, s.modPkg (fun p => { p with nextTag := p.nextTag + 1 }))

/-- Send a request and note who waits for its response; false when it is unroutable (R395). -/
def State.request (s : State) (dst : BitVec 12) (typ : BitVec 4) (addr len : Nat) (data : List Byte) (who : RemWait) : State × Bool :=
  let (t, s) := s.takeTag
  match s.route dst none with
  | some (l, dl) =>
    let s := s.queueCars l (s.messageCars dst typ dl ⟨addr, len, t, 0, 0⟩ data)
    (s.modPkg (fun p => { p with pends := p.pends ++ [⟨t, dst, l, addr, who⟩] }), true)
  | none => (s, false)

/-- Links of a multicast group's mask, in ascending order (R405). -/
def State.mcgLinks (s : State) (g : Byte) : List (Fin 72) :=
  let m := vgetN s.pkg.mcg g.toNat 0
  (fins 72).filter (fun l => m.getLsbD l.val)

/-- Whether this part is a member of a multicast group. -/
def State.mcgLocal (s : State) (g : Byte) : Bool := (vgetN s.pkg.mcg g.toNat 0).getLsbD 72

/-- Forward an MCWRITE, with the epoch of its source, on every link of its mask but the one it came on; the acknowledgements are awaited under its tag (R405, R408). -/
def State.mcForward (s : State) (g : Byte) (src : BitVec 12) (epoch : BitVec 16) (from' : Option (Fin 72)) (d : Desc) (data : List Byte) : State :=
  let ls := (s.mcgLinks g).filter (fun l => decide (some l ≠ from'))
  let s := ls.foldl (fun s l => s.queueCars l ((s.messageCars (g.setWidth 12) 5 false d data).map (fun c => { c with src := src, epoch := epoch }))) s
  s.modPkg (fun p => { p with mcWaits := p.mcWaits ++ [⟨d.rtag, src, from', ls, false⟩] })

/-- An acknowledgement of an MCWRITE back on the link that it came on. -/
def State.mcAck (s : State) (src : BitVec 12) (l : Fin 72) (tag : BitVec 16) : State :=
  s.queueCars l (s.messageCars src 7 false ⟨0, 1, tag, 0, 0⟩ [])

/-! ### The group tree (R415) -/

/-- Position of a part in the group tree. -/
def State.treePos (s : State) (p : BitVec 12) : Option Nat := s.pkg.grp.tree.findIdx? (fun q => decide (q = p))

/-- The parent of this part: position ⌊(p − 1)/8⌋; the lead where the part knows no tree. -/
def State.treeParent (s : State) : BitVec 12 :=
  match s.treePos s.pkg.partId with
  | some p => s.pkg.grp.tree.getD ((p - 1) / 8) s.pkg.grp.lead
  | none => s.pkg.grp.lead

/-- The children of this part in the tree. -/
def State.treeChildren (s : State) : List (BitVec 12) :=
  match s.treePos s.pkg.partId with
  | some p => (s.pkg.grp.tree.drop (8 * p + 1)).take 8
  | none => []

/-- The parent of this part in the tree of the upper tier: the top lead where it knows no such tree (R414, R415). -/
def State.upParent (s : State) : BitVec 12 :=
  match s.pkg.grp.upTree.findIdx? (fun q => decide (q = s.pkg.partId)) with
  | some p => s.pkg.grp.upTree.getD ((p - 1) / 8) s.pkg.grp.topLead
  | none => s.pkg.grp.topLead

/-- The children of this part in the tree of the upper tier. -/
def State.upChildren (s : State) : List (BitVec 12) :=
  match s.pkg.grp.upTree.findIdx? (fun q => decide (q = s.pkg.partId)) with
  | some p => (s.pkg.grp.upTree.drop (8 * p + 1)).take 8
  | none => []

/-! ### Group messages (R391) -/

/-- The numbers that a group message holds. -/
def GroupMsg.nums : GroupMsg → List Nat
  | .work w => [0, w.epoch.toNat, w.slot.toNat, w.step.toNat, w.first.toNat, w.items.toNat, w.mapId.toNat, w.pr.toNat, w.pc.toNat, ofLE w.arg, w.job]
  | .done e a b => [1, e.toNat, a.toNat, b.toNat]
  | .heartbeat e f => [2, e.toNat, f.toNat]
  | .epoch m => [3, m.epoch.toNat, m.xpart.toNat, m.torus.toNat, m.job] ++ m.members.map BitVec.toNat ++ m.gaz.flatMap (fun e => [e.1.val, e.2.toNat]) ++
      m.mcg.flatMap (fun e => [e.1.val, e.2.toNat]) ++ m.ctx.flatMap (fun e => [e.1.val, e.2.toNat])
  | .ack e => [4, e.toNat]
  | .survey n e => [5, n, e.toNat]
  | .reply n e lo hi c => [6, n, e.toNat, lo.toNat, hi.toNat, c]
  | .digestAsk n => [7, n]
  | .arrival k e ps => [8, k.val, e.toNat] ++ ps.map BitVec.toNat
  | .release k e => [9, k.val, e.toNat]
  | .digest n d => [10, n, d.toNat]
  | .arm ctx => [11] ++ ctx.flatMap (fun e => [e.1.val, e.2.toNat])
  | .job n => [12, n]

/-- The car type of a group message (R391). -/
def GroupMsg.typ : GroupMsg → BitVec 4
  | .arrival _ _ _ => 10
  | .release _ _ => 10
  | _ => 11

/-- Send a group message: one sequenced car of VC3 on the route to its part; an unroutable one is lost (R391, R403). DESIGN CHOICE (log 150): one car, whose bytes the spec does not lay out. -/
def State.sendGroup (s : State) (dst : BitVec 12) (m : GroupMsg) : State :=
  let d : Desc := ⟨0, 240, 0, 0, 0⟩
  ((s.send (.group dst m)).sendMsg dst m.typ d ((List.range 240).map (Config.groupByte m.nums))).1

/-! ### Barriers (R325, R425) -/

/-- Send the part's arrival on channel `k` up the group tree, combined with those that it holds; the lead holds its own. -/
def State.sendBarrierArrival (s : State) (k : Fin 8) : State :=
  let held := s.pkg.grp.arrivals.filter (fun a => decide (a.1 = k))
  let rest := s.pkg.grp.arrivals.filter (fun a => decide (a.1 ≠ k))
  if s.pkg.grp.role = 2#2 then
    s.modPkg (fun p => { p with grp := { p.grp with arrivals := (k, p.partId) :: p.grp.arrivals.filter (fun a => decide (a ≠ (k, p.partId))) } })
  else (s.modPkg (fun p => { p with grp := { p.grp with arrivals := rest } })).sendGroup s.treeParent (.arrival k s.pkg.epoch (s.pkg.partId :: held.map Prod.snd))

end Sys2Proof.Machine
end

