-- ==== Sys2Proof/Machine/Reduce.lean ====
section
/-! DEFINITION. In-flight reduction: arming, triggers, combination in fixed order and completion (R406, R407). -/

namespace Sys2Proof.Machine

/-! ### Fields of RDCTXn (R407) -/

def rdSrc (w : Leg) : Nat := fldN w 0 48
def rdOp (w : Leg) : Nat := fldN w 48 3
def rdRoot (w : Leg) : Bool := bit w 51
def rdParent (w : Leg) : BitVec 12 := fld w 52 12
def rdDst (w : Leg) : Nat := fldN w 64 48
def rdMcg (w : Leg) : Byte := fld w 112 8
def rdChildren (w : Leg) : Nat := fldN w 120 7
def rdEn (w : Leg) : Bool := bit w 127
def rdLen (w : Leg) : Nat := fldN w 128 32
def rdTCore (w : Leg) : Nat := fldN w 160 7
def rdTSem (w : Leg) : Nat := fldN w 167 6
def rdCCore (w : Leg) : Nat := fldN w 173 7
def rdCSem (w : Leg) : Nat := fldN w 180 6
def rdTarget (w : Leg) : BitVec 32 := fld w 192 32

/-- RDCTXn as it holds a word: its reserved bits read 0 (R9, R407). -/
def rdMask (w : Leg) : Leg := w &&& ~~~(BitVec.ofNat 256 ((2 ^ 6 - 1) * 2 ^ 186 + (2 ^ 15 - 1) * 2 ^ 241))

/-- The bits of RAIL_TORUS that are not reserved (R404). -/
def torusMask : Word := BitVec.ofNat 64 (2 ^ 54 - 1)

/-- The core that a package core number names (R14). -/
def coreOfPkg (n : Nat) : CoreId := ⟨⟨n / 16 % 8, Nat.mod_lt _ (by decide)⟩, ⟨n % 16, Nat.mod_lt _ (by decide)⟩⟩

/-- A reduction context. -/
def State.rdctx (s : State) (i : Fin 64) : Leg := vget s.pkg.rdctx i

/-- Change a reduction context. -/
def State.modRdctx (s : State) (i : Fin 64) (f : Leg → Leg) : State := s.modPkg (fun p => { p with rdctx := vmod p.rdctx i f })

/-! ### Combination (R407) -/

/-- Bytes of an element of an operation. -/
def redBytes (op : Nat) : Nat := match op with | 0 => 4 | 1 => 2 | 2 => 8 | 3 => 48 | 4 => 4 | _ => 2

/-- Bytes of a piece: 256, or five ExW elements. -/
def redPiece (op : Nat) : Nat := if op = 3 then 240 else 256

/-- The larger of two values; NaN when either is; max(+0, −0) = +0. -/
def maxVal (a b : Val) : Val :=
  if a = .nan ∨ b = .nan then .nan
  else if a.lt b then b else if b.lt a then a else if a.sign ∧ !b.sign then b else a

/-- One element combined: its bytes, whether it saturated, and whether the result is not finite. -/
def redElem (op : Nat) (x y : List Byte) : List Byte × Bool × Bool :=
  match op with
  | 0 =>
    let r := accAdd .pf32 ⟨BitVec.ofNat 32 (ofLE x), 0, false, false, false⟩ ⟨f32Val (BitVec.ofNat 32 (ofLE y)), false, false⟩
    (leBytes 4 r.w0.toNat, r.sat, !(f32Val r.w0).isFin)
  | 1 =>
    let c := convert .bf16 .rne false ((Fmt.bf16.decode (ofLE x)).add (Fmt.bf16.decode (ofLE y)))
    (leBytes 2 c.code, c.sat, !(Fmt.bf16.decode c.code).isFin)
  | 2 =>
    let cell (b : List Byte) : Cell := ⟨BitVec.ofNat 32 (ofLE (b.take 4)), BitVec.ofNat 32 (ofLE (b.drop 4)), false, false, false⟩
    let r := cf32Merge (cell x) (cell y)
    (leBytes 4 r.w0.toNat ++ leBytes 4 r.w1.toNat, r.sat, !(f32Val r.w0).isFin)
  | 3 =>
    let r := (ExW.ofBytes x).add (ExW.ofBytes y)
    (r.bytes, r.sat, decide (r.cls ≠ 0))
  | 4 =>
    let v := maxVal (f32Val (BitVec.ofNat 32 (ofLE x))) (f32Val (BitVec.ofNat 32 (ofLE y)))
    (leBytes 4 (f32Of .rne v).toNat, false, !v.isFin)
  | _ =>
    let v := maxVal (Fmt.bf16.decode (ofLE x)) (Fmt.bf16.decode (ofLE y))
    (leBytes 2 (convert .bf16 .rne true v).code, false, !v.isFin)

/-- Two pieces combined element by element, at most `fuel` elements: bytes, saturated, non-finite count. -/
def redBlock (op : Nat) : Nat → List Byte → List Byte → List Byte × Bool × Nat
  | 0, _, _ => ([], false, 0)
  | fuel + 1, x, y =>
    if x.isEmpty then ([], false, 0)
    else
      let n := redBytes op
      let (b, s, f) := redElem op (x.take n) (y.take n)
      let (bs, s', k) := redBlock op fuel (x.drop n) (y.drop n)
      (b ++ bs, s || s', f.toNat + k)

/-- Whether an element is not finite. -/
def redNonfin (op : Nat) (x : List Byte) : Bool :=
  match op with
  | 1 | 5 => !(Fmt.bf16.decode (ofLE x)).isFin
  | 3 => decide ((ExW.ofBytes x).cls ≠ 0)
  | _ => !(f32Val (BitVec.ofNat 32 (ofLE (x.take 4)))).isFin

/-- Elements of a piece that are not finite, at most `fuel` elements. -/
def redCount (op : Nat) : Nat → List Byte → Nat
  | 0, _ => 0
  | fuel + 1, x => if x.isEmpty then 0 else (redNonfin op (x.take (redBytes op))).toNat + redCount op fuel (x.drop (redBytes op))

/-- A part's own piece, then its children's in ascending part ID: bytes, saturated, and the non-finite elements of the result (R407). -/
def redFold (op : Nat) (own : List Byte) (cs : List (List Byte)) : List Byte × Bool × Nat :=
  cs.foldl (fun a c => let (b, s, k) := redBlock op a.1.length a.1 c; (b, a.2.1 || s, k)) (own, false, redCount op own.length own)

/-- Insert a child's piece in ascending part ID. -/
def redIns (x : BitVec 12 × List Byte) : List (BitVec 12 × List Byte) → List (BitVec 12 × List Byte)
  | [] => [x]
  | y :: ys => if x.1.toNat < y.1.toNat then x :: y :: ys else y :: redIns x ys

/-! ### Running a context (R406) -/

/-- Write the result of a finished root and multicast it to the members (R406). -/
def State.redPublish (s : State) (w : Leg) (bs : List Byte) : State :=
  let s := (s.wakeFor (rdDst w)).memWrite (rdDst w) bs
  (List.range (ceilDiv bs.length 4096)).foldl (fun s i =>
    let p := (bs.drop (4096 * i)).take 4096
    let (t, s) := s.takeTag
    s.mcForward (rdMcg w) s.pkg.partId (s.pkg.epoch.setWidth 16) none ⟨(rdDst w) + 4096 * i, p.length, t, 0, 0⟩ p) s

/-- The completion of a context: EN clears, and its completion semaphore is to be posted (R406, R407). -/
def State.redDone (s : State) (i : Fin 64) : State × Option (CoreId × Fin 64) :=
  let w := s.rdctx i
  ((s.modRdctx i (fun w => setFld w 127 1 0)).modPkg (fun p => { p with reds := p.reds.filter (fun r => r.ctx ≠ i) }),
    some (coreOfPkg (rdCCore w), ⟨(rdCSem w) % 64, Nat.mod_lt _ (by decide)⟩))

/-- Combine every piece whose children have all arrived, at most `fuel` pieces; the root publishes when the vector is whole. -/
def State.redRun (s : State) (i : Fin 64) : Nat → State × Option (CoreId × Fin 64)
  | 0 => (s, none)
  | fuel + 1 =>
    let w := s.rdctx i
    match s.pkg.reds.find? (fun r => r.ctx = i) with
    | none => (s, none)
    | some r =>
      let n := redPiece (rdOp w)
      if r.dead ∨ r.doneTo ≥ (rdLen w) then (s, none)
      else
        let cs := r.got.filter (fun g => g.2.1 = r.doneTo)
        if cs.length < (rdChildren w) then (s, none)
        else
          let own := (r.own.drop r.doneTo).take n
          let sorted := cs.foldl (fun acc g => redIns (g.1, g.2.2) acc) []
          let (bs, sat, nf) := redFold (rdOp w) own (sorted.map Prod.snd)
          let s := s.modRdctx i (fun w => setFld (setBit w 224 (bit w 224 || sat)) 225 16 (satN 16 (fldN w 225 16 + nf)))
          let r' := { r with doneTo := r.doneTo + own.length, result := if (rdRoot w) then r.result ++ bs else [],
                             got := r.got.filter (fun g => g.2.1 ≠ r.doneTo) }
          let s := s.modPkg (fun p => { p with reds := p.reds.map (fun q => if q.ctx = i then r' else q) })
          let s := if (rdRoot w) then s else (s.sendMsg (rdParent w) 9 ⟨r.doneTo, own.length, 0, i, 0⟩ bs).1
          if (rdRoot w) ∧ r'.doneTo ≥ (rdLen w) then (s.redPublish w r'.result).redDone i else s.redRun i fuel

/-- Whether a context is armed on a semaphore, has not fired and finds its target reached (R406). -/
def State.redHolds (s : State) (i : Fin 64) (c : CoreId) (n : Fin 64) : Bool :=
  let w := s.rdctx i
  (rdEn w) && decide ((rdTCore w) = c.pkg) && decide ((rdTSem w) = n.val) && serGe (vget (s.core c).sems n) (rdTarget w) &&
    !(s.pkg.reds.any (fun r => r.ctx = i && !r.own.isEmpty || r.ctx = i && r.dead))

/-- Fire a context: read its contribution, or report UNC_REDUCE and let it never complete (R406, R519). Pieces that children sent early are kept. -/
def State.redFire (s : State) (i : Fin 64) : State × Option (CoreId × Fin 64) :=
  let w := s.rdctx i
  let (s, e) := (s.wakeFor (rdSrc w)).eccRead [((rdSrc w), (rdLen w))]
  let early := (s.pkg.reds.filter (fun r => r.ctx = i)).flatMap RedRun.got
  let set (r : RedRun) (s : State) : State := s.modPkg (fun p => { p with reds := p.reds.filter (fun q => q.ctx ≠ i) ++ [r] })
  match e.poison with
  | some a => ((set ⟨i, [], [], 0, [], true⟩ s).pkcReport ⟨0x0805, 0, BitVec.ofNat 32 i.val, a, s.unitPayload a⟩, none)
  | none => (set ⟨i, s.mem.read (rdSrc w) (rdLen w), early, 0, [], false⟩ s).redRun i ((rdLen w) + 1)

/-- The first context that a change of a semaphore fires (REDUCTION_TRIGGER): the state, and the post of a context that completes at once; none where no context fires. -/
def State.reduceTrigger (s : State) (c : CoreId) (n : Fin 64) : Option (State × Option (CoreId × Fin 64)) :=
  if s.pkg.rdctx.toList.all (fun w => !(rdEn w)) then none
  else ((fins 64).find? (fun i => s.redHolds i c n)).map s.redFire

end Sys2Proof.Machine
end

