-- ==== Sys2Proof/Machine/SeqOps.lean ====
section
/-! DEFINITION. The program counter of a core: advancing past an instruction, hardware loops and branches (R24, R341, R342). -/

namespace Sys2Proof.Machine

/-- Where control continues when it reaches the end of an instruction: the innermost loop whose body ends there repeats, or ends and lets the next enclosing loop decide (R342). -/
def loopNext (pc : Nat) : List LoopRec → Nat × List LoopRec
  | [] => (pc, [])
  | l :: ls =>
    if l.stop = pc then (if l.left = 0 then loopNext pc ls else (l.start, { l with left := l.left - 1 } :: ls))
    else (pc, l :: ls)

/-- The loops that a taken `jmp` or `br` keeps: a loop whose body does not hold the target ends with every loop inside it (R342). -/
def keepLoops (t : Nat) : List LoopRec → List LoopRec
  | [] => []
  | l :: ls =>
    let r := keepLoops t ls
    if r.length = ls.length ∧ l.start ≤ t ∧ t < l.stop then l :: r else r

/-- Length of the text of the section that a core runs. -/
def Core.textLen (k : Core) : Nat := (k.sect.map (fun x => x.textLen)).getD 0

/-- Continue at the text offset `pc`, which an instruction at the PC has reached without a taken branch: loops repeat there, and control past the text raises BRANCH (R24, R342). -/
def State.reach (s : State) (c : CoreId) (pc : Nat) : State :=
  let k := s.core c
  let (pc', ls) := loopNext pc k.loops
  if pc' ≥ k.textLen then s.illegal c .branch k.pc (BitVec.ofNat 32 k.textLen)
  else s.modCore c (fun k => { k with pc := BitVec.ofNat 32 pc', loops := ls })

/-- Continue after the instruction of `n` words at the PC (R24, R342). -/
def State.advance (s : State) (c : CoreId) (n : Nat) : State := s.reach c ((s.core c).pc.toNat + 8 * n)

/-- The offsets at which instructions of a text begin, from `pc` upward, at most `fuel` of them (R336). -/
def State.starts (s : State) (c : CoreId) (stop : Nat) : Nat → Nat → List Nat
  | 0, _ => []
  | fuel + 1, pc =>
    if pc ≥ stop then []
    else pc :: s.starts c stop fuel (pc + 8 * (1 + s.mem.readN (clmAddr c + pc) 8 / 2 ^ 49 % 4))

/-- Whether a target is the offset of an instruction: inside the text, 8-byte aligned and on no extension word (R24, R336). -/
def State.isStart (s : State) (c : CoreId) (t : Nat) : Bool :=
  let n := (s.core c).textLen
  decide (t < n) && decide (t % 8 = 0) && (s.starts c n (n / 8) 0).contains t

/-- A taken branch to `t`: out of the text or misaligned raises BRANCH, and so does a register target on an extension word (R24, R336). -/
def State.branch (s : State) (c : CoreId) (t : Word) (reg : Bool) (f : Core → Core) : State :=
  let k := s.core c
  if t.toNat ≥ k.textLen ∨ t.toNat % 8 ≠ 0 ∨ (reg ∧ s.isStart c t.toNat = false) then s.illegal c .branch k.pc (t.setWidth 32)
  else s.modCore c (fun k => f { k with pc := t.setWidth 32 })

end Sys2Proof.Machine
end

