-- ==== Sys2Proof/Machine/SemOps.lean ====
section
/-! DEFINITION. Shared operations of the signal box, the barriers and the dispatch unit (R303 to R325, R247 to R253). -/

namespace Sys2Proof.Machine

/-- The value of a semaphore. -/
def State.sem (s : State) (c : CoreId) (n : Fin 64) : BitVec 32 := vget (s.core c).sems n

/-- A semaphore's value is written; a change of it is activity of its core (R330). -/
def State.setSem (s : State) (c : CoreId) (n : Fin 64) (v : BitVec 32) : State :=
  s.modCore c (fun k => { k with sems := vset k.sems n v, moved := k.moved || decide (vget k.sems n ≠ v) })

/-- Release the outstanding wait of a core with a result (R306): its instruction has then completed, and the sequencer goes on behind it. -/
def State.release (s : State) (c : CoreId) (ok : Bool) : State :=
  match (s.core c).wait with
  | some w =>
    let s := s.modCore c (fun k => { (k.setP w.pd ok) with wait := none })
    if (s.core c).run = .running then s.advance c 1 else s
  | none => s

/-- Whether a core holds an unreleased wait of a kind on semaphore `n` of core `box` of its die. -/
def Core.waitsOn (k : Core) (kind : BitVec 2) (box : Fin 16) (n : Fin 64) : Option (BitVec 32) :=
  match k.wait with
  | some w => if w.kind = kind ∧ w.core = box ∧ w.sem = n ∧ w.arrived then some w.tgt else none
  | none => none

/-- Release every `sem.wait` on a semaphore that the observed value meets (R311, SEM_WAIT_RELEASE). -/
def State.releaseWaits (s : State) (c : CoreId) (n : Fin 64) (obs : BitVec 32) : State :=
  (fins 16).foldl (fun s i =>
    let d : CoreId := ⟨c.die, i⟩
    match (s.core d).waitsOn 1 c.core n with
    | some tgt => if serGe obs tgt then s.release d true else s
    | none => s) s

/-- Core numbers Q, Q+1, …, Q+15 modulo 16. -/
def rotate (q : Fin 16) : List (Fin 16) := (fins 16).map (fun i => q + i)

/-- Grant takes in rotating order (R311, SEM_TAKE_GRANT); the first granted core moves Q (R312). What observed the value before the takes has observed it. -/
def State.grantTakes (s : State) (c : CoreId) (n : Fin 64) : State :=
  let q := vget (s.core c).semQ n
  let seen := (s.core c).metBy n
  let (s, first) := (rotate q).foldl (fun (acc : State × Option (Fin 16)) i =>
    let (s, first) := acc
    let d : CoreId := ⟨c.die, i⟩
    match (s.core d).waitsOn 2 c.core n with
    | some tgt =>
      if serGe (s.sem c n) tgt then
        ((s.setSem c n (s.sem c n - tgt)).release d true, first.orElse (fun _ => some i))
      else (s, first)
    | none => (s, first)) (s, none)
  match first with
  | some i => s.modCore c (fun k => { k with semQ := vset k.semQ n (i + 1), met := k.met ++ seen })
  | none => s

/-- Cycles of the box for one semaphore, at most `fuel` of them, until the takes leave its value as it is (R311). -/
def State.serveCycles (s : State) (c : CoreId) (n : Fin 64) : Nat → State
  | 0 => s
  | fuel + 1 =>
    let t := (s.releaseWaits c n (s.sem c n)).grantTakes c n
    if t.sem c n = s.sem c n then t else t.serveCycles c n fuel

/-- Whether the FCLK cycle of a semaphore still takes updates: only inside a step, between the updates that it combines. -/
def Core.boxBusy (k : Core) (n : Fin 64) : Bool := k.boxOpen.getLsbD n.val

/-- What the box does for one semaphore after the updates of a cycle and in the cycles that follow (R311): nothing while the cycle still takes updates. Each cycle with grants removes a take, of which a die holds at most 16. -/
def State.serveSem (s : State) (c : CoreId) (n : Fin 64) : State :=
  if (s.core c).boxBusy n then s else s.serveCycles c n 17

/-- Write the value that the updates of a cycle give a semaphore: what observed the value before has observed it. While the cycle takes further updates, its end says whether the value has changed. -/
def State.updSem (s : State) (c : CoreId) (n : Fin 64) (v : BitVec 32) : State :=
  if (s.core c).boxBusy n then s.modCore c (fun k => { k with sems := vset k.sems n v })
  else (s.modCore c (fun k => k.noteMet n)).setSem c n v

/-- Contexts that a change of a semaphore fires, one after another, with the posts of those that complete at once, at most `fuel` of them (R406): every context whose target the value reaches fires. -/
def State.redTriggers (s : State) (c : CoreId) (n : Fin 64) : Nat → State
  | 0 => s
  | fuel + 1 =>
    match s.reduceTrigger c n with
    | some (s, some (d, m)) => (((s.updSem d m (s.sem d m + 1)).serveSem d m).redTriggers d m fuel).redTriggers c n fuel
    | some (s, none) => s.redTriggers c n fuel
    | none => s

/-- A semaphore is served in its cycle, and its value may trigger reductions (R311, R406). -/
def State.serveChange (s : State) (c : CoreId) (n : Fin 64) : State :=
  let s := s.serveSem c n
  if s.pkg.rdctx.toList.all (fun w => !(rdEn w)) || (s.core c).boxBusy n then s else s.redTriggers c n 64

/-- A post that changes a semaphore by an amount, served in its cycle (R303, R311). -/
def State.semChange (s : State) (c : CoreId) (n : Fin 64) (v : BitVec 32) : State := (s.updSem c n v).serveChange c n

/-- The FCLK cycle of a semaphore takes further updates: they combine with those that come before it closes (R311). -/
def State.boxHold (s : State) (c : CoreId) (n : Fin 64) : State :=
  s.modCore c (fun k => { (if k.boxBusy n then k else k.noteMet n) with boxOpen := setBit k.boxOpen n.val true })

/-- The FCLK cycle of a semaphore, which began with value `v`, takes no further update: the combined update is served (R311). -/
def State.boxClose (s : State) (c : CoreId) (n : Fin 64) (v : BitVec 32) : State :=
  if (s.core c).boxBusy n then
    (s.modCore c (fun k => { k with boxOpen := setBit k.boxOpen n.val false, moved := k.moved || decide (vget k.sems n ≠ v) })).serveChange c n
  else s

/-- Add to a semaphore and serve it (R303, R311). -/
def State.semAdd (s : State) (c : CoreId) (n : Fin 64) (amt : BitVec 32) : State := s.semChange c n (s.sem c n + amt)

/-- Subtract from a semaphore and serve it (R303, R311). -/
def State.semSub (s : State) (c : CoreId) (n : Fin 64) (amt : BitVec 32) : State := s.semChange c n (s.sem c n - amt)

/-- An engine's post of 1 to an optional semaphore of a core (R305). -/
def State.post (s : State) (c : CoreId) (n : SemOpt) : State :=
  match n with
  | some n => s.semAdd c n 1
  | none => s

/-- An SBOX_STAT.BADPOST event (R316, R317). -/
def State.badPost (s : State) (c : CoreId) : State :=
  s.modCore c (fun k => { k with badPost := satAdd k.badPost 1 })

/-- A write of 8 bytes to SEMPOSTn (R316, R317): performed when the target core holds a section that declares the semaphore. -/
def State.semPost (s : State) (c : CoreId) (n : Fin 64) (v : Word) : State :=
  match (s.core c).sect with
  | some x =>
    if x.semMask.getLsbD n.val then
      (if bit v 32 then s.semSub c n (fld v 0 32) else s.semAdd c n (fld v 0 32))
    else s.badPost c
  | none => s.badPost c

/-! ### Barriers (R320 to R325) -/

/-- The cores of a task that take part in a channel (R320). -/
def State.participants (s : State) (t : Task) (k : Fin 8) : List CoreId :=
  t.cores.filter (fun c => match (s.core c).sect with
    | some x => x.barMask.getLsbD k.val
    | none => false)

/-- Whether a core drives its input of a channel as arrived (R321, R324). -/
def State.arrived (s : State) (c : CoreId) (k : Fin 8) : Bool :=
  (vget (s.core c).bars k).arr || decide ((s.core c).run = .halted)

/-- Completion at one participant: GEN advances, ARR clears, and a `bar.wait` it satisfies is released (R322). -/
def State.barAdvance (s : State) (c : CoreId) (k : Fin 8) : State :=
  let s := s.modCore c (fun x => { x with bars := vmod x.bars k (fun b => { b with gen := b.gen + 1, arr := false }) })
  match (s.core c).wait with
  | some w =>
    if w.kind = 3 ∧ w.arrived ∧ w.sem.val = k.val ∧ serGe (vget (s.core c).bars k).gen w.tgt then s.release c true else s
  | none => s

/-- Completion at every participant (BARRIER_COMPLETE). -/
def State.barComplete (s : State) (t : Task) (k : Fin 8) : State :=
  (s.participants t k).foldl (fun s c => s.barAdvance c k) s

/-- The running task of a partition. -/
def State.taskOf (s : State) (n : Fin 8) : Option Task := s.pkg.tasks.find? (fun t => t.part = n)

/-- The task of a core. -/
def State.coreTask (s : State) (c : CoreId) : Option Task :=
  match (s.core c).sect with
  | some x => s.taskOf x.part
  | none => none

/-- Whether a channel of a task extends across the group, which uses one partition of the part (R325, R412). -/
def State.crossPart (s : State) (t : Task) (k : Fin 8) : Bool :=
  s.pkg.barXpart.getLsbD k.val && decide (s.pkg.grp.role ≠ 0) && decide (t.part = s.pkg.grp.part)

/-- Whether this part is a group lead below a top lead (R414). -/
def Group.under (g : Group) (me : BitVec 12) : Bool := decide (g.role = 2) && g.upper && decide (g.topLead ≠ me)

/-- Whether this part is the top lead of an upper tier (R414). -/
def Group.top (g : Group) (me : BitVec 12) : Bool := decide (g.role = 2) && g.upper && decide (g.topLead = me)

/-- The table whose members hold the slots of the lead's jobs: the upper table at a top lead (R413, R414). -/
def Group.slotTab (g : Group) (me : BitVec 12) : List Member := if g.top me then g.upperTab else g.members

/-- ACTIVE members of a table. -/
def activeOf (ms : List Member) : List (BitVec 12) := (ms.filter (fun m => decide (m.st = .active))).map Member.part

/-- The members whose arrivals a release waits for (R425): every ACTIVE one that holds a slot. -/
def State.slotHolders (s : State) : List (BitVec 12) :=
  let g := s.pkg.grp
  if g.under s.pkg.partId then activeOf g.members
  else
    match g.job with
    | some j => (activeOf (g.slotTab s.pkg.partId)).filter (fun p => j.map.contains p)
    | none => []

/-- The release of a channel on this part (R325, R425): it goes down the tree, and GEN advances on the task's participants. -/
def State.barRelease (s : State) (k : Fin 8) : State :=
  let s := s.modPkg (fun p => { p with xArrived := setBit p.xArrived k.val false,
                                       grp := { p.grp with arrivals := p.grp.arrivals.filter (fun a => decide (a.1 ≠ k)) } })
  let s := (s.treeChildren ++ s.upChildren).foldl (fun s c => s.sendGroup c (.release k s.pkg.epoch)) s
  match s.taskOf s.pkg.grp.part with
  | some t => s.barComplete t k
  | none => s

/-- The lead releases a channel once every holder of a slot has arrived; a group lead below a top lead sends its group's arrival upward instead, with those of the group leads below it in the upper tree (R414, R425). -/
def State.barReleaseCheck (s : State) (k : Fin 8) : State :=
  let g := s.pkg.grp
  if g.role = 2#2 ∧ g.arrivals.any (fun a => decide (a.1 = k)) ∧ s.slotHolders.all (fun p => g.arrivals.contains (k, p)) then
    (if g.under s.pkg.partId then s.sendGroup s.upParent 
      (.arrival k s.pkg.epoch (s.pkg.partId :: ((g.arrivals.filter (fun a => decide (a.1 = k) && g.members.all (fun m => decide (m.part ≠ a.2)))).map Prod.snd)))
     else s.barRelease k)
  else s

/-- Evaluate a channel of a task after an arrival or a halt report (R322): it completes when every participant drives its input;
an extended channel instead sends the part's arrival to the lead (R325). A channel at which no core has arrived does not complete again. -/
def State.barCheck (s : State) (t : Task) (k : Fin 8) : State :=
  let ps := s.participants t k
  if ps.any (fun c => (vget (s.core c).bars k).arr) && ps.all (fun c => s.arrived c k) then
    if s.crossPart t k then
      (if s.pkg.xArrived.getLsbD k.val then s
       else ((s.modPkg (fun p => { p with xArrived := p.xArrived ||| (1 <<< k.val) })).sendBarrierArrival k).barReleaseCheck k)
    else s.barComplete t k
  else s

/-- Evaluate every channel of a task (R324). -/
def State.barCheckAll (s : State) (t : Task) : State := (fins 8).foldl (fun s k => s.barCheck t k) s

/-! ### Dispatch (R247 to R253) -/

/-- A counter of a die. -/
def State.dsp (s : State) (d : Fin 8) (k : Fin 16) : Dispatch := vget (s.die d).dsp k

/-- Change a counter of a die. -/
def State.modDsp (s : State) (d : Fin 8) (k : Fin 16) (f : Dispatch → Dispatch) : State :=
  s.modDie d (fun x => { x with dsp := vmod x.dsp k f })

/-- Remove a core's oldest held ticket (R251). -/
def Dispatch.retire (x : Dispatch) (core : Fin 16) : Dispatch :=
  { x with held := vmod x.held core (fun l => l.drop 1) }

/-- Serve one take (R248): the value for `gd` and the counter after it. -/
def Dispatch.take (x : Dispatch) (core : Fin 16) : BitVec 32 × Dispatch :=
  match x.requeue with
  | t :: rest => (t, { x with requeue := rest, held := vmod x.held core (fun l => l ++ [t]) })
  | [] =>
    if x.next.toNat < x.limit.toNat then
      (x.next, { x with next := x.next + 1, held := vmod x.held core (fun l => l ++ [x.next]) })
    else if x.held.toList.any (fun l => !l.isEmpty) then (0xFFFFFFFE, x)
    else (0xFFFFFFFF, x)

/-- After a cycle that served a take, P is the served core's number plus 1 (R252). -/
def Dispatch.served (x : Dispatch) (core : Fin 16) : Dispatch := { x with ptr := core + 1 }

/-- The takes of one cycle in the order P, P + 1, …, P + 15 (R252): `cores` are those that take, and each sees the state that the takes before it left. The first served core moves P. -/
def Dispatch.takes (x : Dispatch) (cores : List (Fin 16)) : Dispatch × List (Fin 16 × BitVec 32) :=
  let order := (rotate x.ptr).filter (fun i => cores.contains i)
  let (y, out) := order.foldl (fun (acc : Dispatch × List (Fin 16 × BitVec 32)) i =>
    let (t, y) := acc.1.take i
    (y, acc.2 ++ [(i, t)])) (x, [])
  (match order with | i :: _ => y.served i | [] => y, out)

/-- Remove the tickets of a core halted by `halt`, without a requeue (R251). -/
def Dispatch.drop (x : Dispatch) (core : Fin 16) : Dispatch := { x with held := vset x.held core [] }

/-- Move the tickets of a faulted core to the end of the requeue list (R253). -/
def Dispatch.requeueCore (x : Dispatch) (core : Fin 16) : Dispatch :=
  { x with requeue := x.requeue ++ vget x.held core, held := vset x.held core [] }

/-! ### Queues (R295 to R302) -/

/-- Whether a queue is full: the pointers differ by 256 (R295). -/
def HwQueue.full (q : HwQueue) : Bool := decide (q.words.length ≥ 256)

/-- The word that a push stores: bits [60:56] and VALID are 0 (R294, R296). -/
def pushWord (payload : BitVec 56) (sop eop : Bool) : Word :=
  payload.setWidth 64 ||| at' sop.toNat 61 ||| at' eop.toNat 62

/-- Write one word into a queue that is not full (R295, R298): whether its packet has ended is answered with it. -/
def HwQueue.write (q : HwQueue) (w : Word) : HwQueue × Bool :=
  let eop := bit w 62
  let cut := if q.opened then q.openCut else q.cut
  let wasOpen := q.opened
  let len := (if wasOpen then q.openLen else 0) + 1
  let words := q.words ++ [(w, .good)]
  let seen := (wasOpen && q.openVis) || eop || (decide (cut ≠ 0) && decide (len ≥ cut.toNat)) || decide (words.length ≥ 256)
  ({ q with
      words := words
      wr := q.wr + 1
      frame := q.frame || (wasOpen && bit w 61)
      opened := !eop
      openLen := if eop then 0 else len
      openVis := !eop && seen
      openCut := cut
      vis := if seen then words.length else q.vis }, eop)

/-- Take the oldest visible word (R296). -/
def HwQueue.read (q : HwQueue) : Option (Word × WordEcc) × HwQueue :=
  match q.words with
  | w :: rest => if q.vis = 0 then (none, q) else (some w, { q with words := rest, rd := q.rd + 1, vis := q.vis - 1 })
  | [] => (none, q)

/-- A queue of a core. -/
def State.queue (s : State) (c : CoreId) (q : Fin 8) : HwQueue := vget (s.core c).queues q

/-- Change a queue of a core. -/
def State.modQueue (s : State) (c : CoreId) (q : Fin 8) (f : HwQueue → HwQueue) : State :=
  s.modCore c (fun k => { k with queues := vmod k.queues q f })

/-- Write a word into a queue and give its packet notice (R299, PACKET_NOTICE). -/
def State.queueWrite (s : State) (c : CoreId) (q : Fin 8) (w : Word) : State :=
  let (x, ended) := (s.queue c q).write w
  let s := (s.modQueue c q (fun _ => x)).modCore c (fun k => { k with moved := true })
  if ended && x.nen then s.semAdd c x.nsem 1 else s

/-- Push a word through the push port: a full queue holds it (R297). -/
def State.queuePush (s : State) (c : CoreId) (q : Fin 8) (w : Word) : State :=
  let x := s.queue c q
  if x.full || !x.held.isEmpty then s.modQueue c q (fun x => { x with held := x.held ++ [⟨w⟩] })
  else s.queueWrite c q w

/-- A push that waits at a full queue completes after a pop (R300, HELD_PUSH_COMPLETE). -/
def State.queueUnhold (s : State) (c : CoreId) (q : Fin 8) : State :=
  let x := s.queue c q
  match x.held with
  | h :: rest => if x.full then s else (s.modQueue c q (fun x => { x with held := rest })).queueWrite c q h.word
  | [] => s

end Sys2Proof.Machine
end

