-- ==== Sys2Proof/Machine/Sparse.lean ====
section
/-! DEFINITION. The expander and the pattern packer: rows of an operand as elements and padding, and the violations of stored data (R140 to R146, R159 to R182). -/

namespace Sys2Proof.Machine

/-- Kinds of events at a position of an operand: the three violations of R176, repeated metadata (R181), and a read outside the CLM (R558). -/
inductive VKind where
  | pattern | range | order | metaDup | outside
deriving DecidableEq, Repr

/-- One violation (R176, R177): where it lies, how many elements it removes, its K position in the pass and whether STRICT makes it a fault (R180). -/
structure Viol where
  kind : VKind
  opnd : Bool
  lane : Nat
  pos : Nat
  count : Nat
  k : Nat
  strict : Bool
deriving DecidableEq, Repr

/-- KIND of the position word (R176); META_ERR reads 0b01 (R181). -/
def VKind.code : VKind → Nat
  | .pattern => 1 | .range => 2 | .order => 3 | .metaDup => 1 | .outside => 0

/-- The position word of a violation (R176). -/
def Viol.word (v : Viol) : BitVec 32 :=
  BitVec.ofNat 32 ((if v.pos > 4194303 then 0x3FFFFF else v.pos) + 2 ^ 22 * (v.lane % 128) + 2 ^ 29 * v.opnd.toNat + 2 ^ 30 * v.kind.code)

/-- The order of R176: (OPND, LANE, POS). -/
def Viol.before (a b : Viol) : Bool :=
  if a.opnd ≠ b.opnd then !a.opnd else if a.lane ≠ b.lane then decide (a.lane < b.lane) else decide (a.pos < b.pos)

/-- The first violation of a list in the order of R176. -/
def firstViol (vs : List Viol) : Option Viol :=
  vs.foldl (fun acc v => match acc with
    | none => some v
    | some w => if v.before w then some v else some w) none

/-- The TSR flag of a violation (R178). -/
def VKind.flag : VKind → Option Flag
  | .pattern => some .patternOver | .range => some .indexRange | .order => some .orderBreak | _ => none

/-- One row of an operand along K: an element code, or none for padding and structural zeros; with its violations and the number of TERN 0b10 codes read. -/
structure Row where
  codes : List (Option Nat)
  viols : List Viol
  bad : Nat
deriving DecidableEq, Repr

/-- Codes of TERN 0b10 among those read (R59). -/
def badCount (f : Fmt) (cs : List (Option Nat)) : Nat :=
  cs.foldl (fun n c => match c with
    | some c => n + (f.badTern c).toNat
    | none => n) 0

/-! ### Stored rows of CSR and block-CSR (R163, R164, R178, R179) -/

/-- What a walk of stored entries has found: (position, entry number) pairs in reverse order, violations in reverse order, and how many indices it has read. -/
structure Walk where
  ents : List (Nat × Nat)
  viols : List Viol
  last : Option Nat
  done : Bool
  read : Nat
deriving DecidableEq, Repr

/-- One entry of a row of stored indices: the order check, then the range check (R179).
`idx` is its index, `width` its value-block width and `left` the number of entries from it to the row's end. -/
def Walk.entry (w : Walk) (opnd : Bool) (lane ext0 width : Nat) (st : BitVec 3) (ord j idx left : Nat) : Walk :=
  if w.done then w
  else
    let k := (w.last.map (fun x => x * width)).getD 0
    let w := { w with read := w.read + 1 }
    if (match w.last with | some l => decide (idx ≤ l) | none => false) then
      { w with done := true, viols := ⟨.order, opnd, lane, ord, left * width, k, st.getLsbD 2⟩ :: w.viols }
    else if idx * width ≥ ext0 then
      { w with viols := ⟨.range, opnd, lane, ord, width, k, st.getLsbD 1⟩ :: w.viols }
    else { w with ents := (idx, j) :: w.ents, last := some idx }

/-- The walk of row `i` of a CSR or block-CSR view whose pointers do not descend. An index outside the CLM of the core is an `outside` event (R558). -/
def State.rowWalk (s : State) (c : CoreId) (v : View) (opnd : Bool) (i : Nat) : Walk :=
  let p0 := s.ptrAt v i
  let p1 := s.ptrAt v (i + 1)
  (List.range (p1 - p0)).foldl (fun (w : Walk) o =>
    let j := p0 + o
    if w.done then w
    else if !rangesInClm c [(v.aux1Addr + (j * v.idxB : Nat), v.idxB)] then
      { w with done := true, viols := ⟨.outside, opnd, i, o, 0, (w.last.map (fun x => x * v.vblk)).getD 0, true⟩ :: w.viols }
    else w.entry opnd i (Leg.ext0 v.prim) v.vblk (Leg.strict v.prim) o j (s.idxAt v j) (p1 - j)) ⟨[], [], none, false, 0⟩

/-- The entries of row `i` of a CSR or block-CSR view that take part, in stored order, with the row's violations.
A pointer below the one before it reads the row as empty (R178). -/
def State.rowEntries (s : State) (c : CoreId) (v : View) (opnd : Bool) (i : Nat) : List (Nat × Nat) × List Viol :=
  if s.ptrAt v (i + 1) < s.ptrAt v i then ([], [⟨.order, opnd, i, 0, 1, 0, (Leg.strict v.prim).getLsbD 2⟩])
  else let w := s.rowWalk c v opnd i; (w.ents.reverse, w.viols.reverse)

/-- The bytes of `n` values of the value string at BASE, from value `j` on. -/
def View.valRange (v : View) (j n : Nat) : Int × Nat :=
  ((Leg.base v.prim : Int) + (j * v.bits / 8 : Nat), ceilDiv (j * v.bits % 8 + n * v.bits) 8)

/-- The bytes of the in-view positions of a stored entry: positions of a value block at or beyond EXT0 are not read (R145, R164). -/
def View.entRange (v : View) (e : Nat × Nat) : Int × Nat := v.valRange (e.2 * v.vblk) (min v.vblk (Leg.ext0 v.prim - e.1 * v.vblk))

/-- Place (position, code) pairs on a row of `n` positions. -/
def placeRow (n : Nat) (ps : List (Nat × Nat)) : List (Option Nat) :=
  (List.range n).map (fun k => (ps.find? (fun p => p.1 = k)).map Prod.snd)

/-- Row `i` of a CSR or block-CSR operand; values outside the CLM are `outside` events. -/
def State.csrRow (s : State) (c : CoreId) (v : View) (opnd : Bool) (i : Nat) : Row :=
  let (es, vs) := s.rowEntries c v opnd i
  let w := v.vblk
  let n := Leg.ext0 v.prim
  let valOk (e : Nat × Nat) : Bool := rangesInClm c [v.entRange e]
  let outs := (es.filter (fun e => !valOk e)).map (fun e => (⟨.outside, opnd, i, e.1, 0, e.1 * w, true⟩ : Viol))
  let ps := (es.filter valOk).flatMap (fun e => (List.range w).filterMap (fun t =>
    if e.1 * w + t < n then some (e.1 * w + t, s.valCode v (e.2 * w + t)) else none))
  let codes := placeRow n ps
  ⟨codes, vs ++ outs, badCount v.fmt codes⟩

/-! ### Bitmap-compressed rows (R165) -/

/-- Bit (i0, i1) of a bitmap. -/
def State.bmpBit (s : State) (v : View) (i0 i1 : Nat) : Bool :=
  (s.byteAt (v.aux0Addr + (i1 * v.bmpRow + i0 / 8 : Nat))).getLsbD (i0 % 8)

/-- Set bits of the in-view positions of rows before `i`. -/
def State.bmpBefore (s : State) (v : View) (i : Nat) : Nat :=
  (List.range i).foldl (fun n r => n + ((List.range (Leg.ext0 v.prim)).filter (fun k => s.bmpBit v k r)).length) 0

/-- The set bits of row `i` with the number of each one's value. -/
def State.bmpEnts (s : State) (v : View) (i : Nat) : List (Nat × Nat) :=
  let b := s.bmpBefore v i
  ((List.range (Leg.ext0 v.prim)).filter (fun k => s.bmpBit v k i)).zipIdx.map (fun p => (p.1, b + p.2))

/-- Row `i` of a bitmap-compressed operand; values outside the CLM are `outside` events (R558). -/
def State.bmpRowOf (s : State) (c : CoreId) (v : View) (opnd : Bool) (i : Nat) : Row :=
  let n := Leg.ext0 v.prim
  let ps := s.bmpEnts v i
  let valOk (j : Nat) : Bool := rangesInClm c [v.valRange j 1]
  let codes := placeRow n ((ps.filter (fun p => valOk p.2)).map (fun p => (p.1, s.valCode v p.2)))
  ⟨codes, (ps.filter (fun p => !valOk p.2)).map (fun p => ⟨.outside, opnd, i, p.1, 0, p.1, true⟩), badCount v.fmt codes⟩

/-! ### Stored N:M rows (R166, R181) -/

/-- The metadata index of slot `t` of row `i`. -/
def State.metaAt (s : State) (v : View) (i t : Nat) : Nat :=
  let b := (nmOf (Leg.nmpat v.prim)).2.2
  let lo := t * b
  let a := v.aux0Addr + (i * v.mrow : Nat)
  ((s.numAt (a + (lo / 8 : Nat)) 2) >>> (lo % 8)) % 2 ^ b

/-- The value code of slot `t` of row `i`. -/
def State.slotCode (s : State) (v : View) (i t : Nat) : Nat :=
  elemCode v.fmt (fun k => s.byteAt ((Leg.base v.prim : Int) + (i * v.vrow + k : Nat))) t

/-- Row `i` of a stored N:M operand: a repeated index within a group is META_ERR at the group's first position. -/
def State.nmRow (s : State) (v : View) (opnd : Bool) (i : Nat) : Row :=
  let (nn, mm, _) := nmOf (Leg.nmpat v.prim)
  let n := Leg.ext0 v.prim
  let grp (g : Nat) : List (Nat × Nat) := (List.range nn).map (fun t =>
    (g * mm + s.metaAt v i (g * nn + t), s.slotCode v i (g * nn + t)))
  let gs := (List.range v.groups).map grp
  let viols := gs.zipIdx.filterMap (fun p =>
    if (p.1.map Prod.fst).Nodup then none else some (⟨.metaDup, opnd, i, p.2 * mm, 0, p.2 * mm, true⟩ : Viol))
  let codes := placeRow n gs.flatten
  ⟨codes, viols, badCount v.fmt codes⟩

/-! ### What the feeders read (R145, R558) -/

/-- The bytes that a feeder reads for row `i` of a sparse operand: nothing outside the CLM, and no byte that holds no element of the view. -/
def State.rowReads (s : State) (c : CoreId) (v : View) (i : Nat) : List (Int × Nat) :=
  let inClm (r : Int × Nat) : Bool := rangesInClm c [r]
  match Leg.sparse v.prim with
  | 4 => (v.aux0Addr + (i * v.bmpRow : Nat), ceilDiv (Leg.ext0 v.prim) 8) :: ((s.bmpEnts v i).map (fun p => v.valRange p.2 1)).filter inClm
  | 5 =>
    let (nn, mm, _) := nmOf (Leg.nmpat v.prim)
    let slots := (List.range (v.groups * nn)).filter (fun t => decide (t / nn * mm + s.metaAt v i t < Leg.ext0 v.prim))
    (v.aux0Addr + (i * v.mrow : Nat), v.mrow) :: slots.map (fun t =>
      ((Leg.base v.prim : Int) + (i * v.vrow + t * v.bits / 8 : Nat), ceilDiv (t * v.bits % 8 + v.bits) 8))
  | _ =>
    if s.ptrAt v (i + 1) < s.ptrAt v i then []
    else
      let w := s.rowWalk c v false i
      (v.aux1Addr + (s.ptrAt v i * v.idxB : Nat), w.read * v.idxB) :: (w.ents.map v.entRange).filter inClm

/-- Every byte that the feeders read of an operand, each checked by ECC (R145, R509, R558). -/
def State.feedRanges (s : State) (c : CoreId) (v : View) : List (Int × Nat) :=
  if Leg.sparse v.prim = 0 then v.knownRanges
  else
    (if v.scaleLen = 0 then [] else [(v.scaleAddr, v.scaleLen)]) ++
      (if Leg.sparse v.prim = 4 ∨ Leg.sparse v.prim = 5 then [] else [(v.aux0Addr, (v.rows + 1) * v.ptrB)]) ++
      (List.range v.rows).flatMap (s.rowReads c v)

/-! ### Dense rows and the pattern packer (R174, R175, R182) -/

/-- Codes along K of row `i` of a dense operand, on the turntable path when TRN = 1 (R136). -/
def State.denseRow (s : State) (v : View) (i : Nat) : List (Option Nat) :=
  if Leg.trn v.prim then (List.range v.rows).map (fun k => some (s.code2 v i k))
  else (List.range (Leg.ext0 v.prim)).map (fun k => some (s.code2 v k i))

/-- `a` ranks above `b` in the packer's order: NaN, then infinities, then finite magnitudes (R174). -/
def rankAbove (a b : Val) : Bool :=
  match a, b with
  | .nan, .nan => false
  | .nan, _ => true
  | _, .nan => false
  | .inf _, .inf _ => false
  | .inf _, _ => true
  | _, .inf _ => false
  | x, y => y.abs.lt x.abs

/-- Insert (position, value) after every entry that it does not rank above. -/
def rankIns (p : Nat × Val) : List (Nat × Val) → List (Nat × Val)
  | [] => [p]
  | q :: qs => if rankAbove p.2 q.2 then p :: q :: qs else q :: rankIns p qs

/-- One group packed: which of its positions are delivered (kept elements and fillers), and the number of non-zero elements (R174, R175). -/
def packGroup (n : Nat) (vs : List Val) : List Nat × Nat :=
  let ps := vs.zipIdx.map (fun p => (p.2, p.1))
  let nz := ps.filter (fun p => !p.2.isZero)
  let zs := (ps.filter (fun p => p.2.isZero)).map Prod.fst
  let kept := ((nz.foldl (fun acc p => rankIns p acc) []).take n).map Prod.fst
  (kept ++ zs.take (n - kept.length), nz.length)

/-- A dense row through the pattern packer: codes of delivered positions, and one PATTERN_OVER for each group with more than N non-zero elements.
Positions beyond EXT0 are padding and count as zero. -/
def packRow (f : Fmt) (pat : Nat) (opnd strict : Bool) (lane : Nat) (codes : List (Option Nat)) : List (Option Nat) × List Viol :=
  let (n, m, _) := nmOf pat
  let len := codes.length
  let val (k : Nat) : Val := match codes.getD k none with
    | some c => f.decode c
    | none => .fin false 0 0
  let groups := (List.range (ceilDiv len m)).map (fun g => packGroup n ((List.range m).map (fun t => val (g * m + t))))
  let out := (List.range len).map (fun k =>
    if ((groups.getD (k / m) ([], 0)).1).contains (k % m) then codes.getD k none else none)
  let viols := groups.zipIdx.filterMap (fun p =>
    if p.1.2 > n then some (⟨.pattern, opnd, lane, p.2 * m, p.1.2 - n, p.2 * m, strict⟩ : Viol) else none)
  (out, viols)

/-- The check along dimension 1 of a transposable view (R182): `rows` are the stored rows before any drop.
DESIGN CHOICE (log 177): an entry lies in the K-step of its group's first position, where the group of 4 spans two K-steps. -/
def transposable (f : Fmt) (opnd strict : Bool) (rows : List (List (Option Nat))) (ext0 : Nat) : List Viol :=
  (List.range (ceilDiv rows.length 4)).flatMap (fun c =>
    (List.range ext0).filterMap (fun k =>
      let nz := ((List.range 4).filter (fun t =>
        match (rows.getD (4 * c + t) []).getD k none with
        | some x => !(f.decode x).isZero
        | none => false)).length
      if nz > 2 then some (⟨.pattern, opnd, 4 * c, k, nz - 2, k / 4 * 4, strict⟩ : Viol) else none))

end Sys2Proof.Machine
end

