-- ==== Sys2Proof/Machine/Array.lean ====
section
/-! DEFINITION. The grid arrays: operands at the feeders, passes, fault points, saves and loads, and sketch mode (R118 to R158, R216). -/

namespace Sys2Proof.Machine

/-! ### Operands at the feeders -/

/-- One row of A or one column of B as the cells receive it. -/
structure OpRow where
  els : List (Option El)
  scales : List Nat
  viols : List Viol
  bad : Nat
deriving DecidableEq, Repr

/-- Extent of an operand along K (R144). -/
def View.kExt (v : View) : Nat := if Leg.trn v.prim then v.rows else Leg.ext0 v.prim

/-- Rows of A or columns of B (R144). -/
def View.lanes (v : View) : Nat := if Leg.trn v.prim then Leg.ext0 v.prim else v.rows

/-- Whether an operand qualifies for N:M mode (R140). -/
def View.nm (v : View) : Bool := decide (Leg.sparse v.prim = 5) || (decide (Leg.sparse v.prim = 0) && decide (Leg.nmpat v.prim ≠ 0))

/-- The block size of a pair of operands (R67). -/
def blockSize (a b : View) : Nat :=
  if Leg.scale a.prim ≠ 0 then a.blk else if Leg.scale b.prim ≠ 0 then b.blk else 32

/-- The scale code of block `b` of lane `r` along K (R32). -/
def State.kScale (s : State) (v : View) (b r : Nat) : Nat :=
  if Leg.trn v.prim then s.scaleAt v r b else s.scaleAt v b r

/-- Pad a row to a whole number of blocks (R146). -/
def padTo (n : Nat) (l : List (Option α)) : List (Option α) := l ++ List.replicate (n - l.length) none

/-- The stored row of lane `r` before any conversion or packing. -/
def State.storedRow (s : State) (c : CoreId) (v : View) (opnd : Bool) (r : Nat) : Row :=
  match Leg.sparse v.prim with
  | 0 => let codes := s.denseRow v r; ⟨codes, [], badCount v.fmt codes⟩
  | 4 => s.bmpRowOf c v opnd r
  | 5 => s.nmRow v opnd r
  | _ => s.csrRow c v opnd r

/-- Convert a BF16 row at the last buffer: element codes in the target format, block scales, saturations (R73, R84). Padding and structural zeros stay padding (R121, R160, R171). -/
def cvtRow (f : Fmt) (blk : Nat) (codes : List (Option Nat)) : List (Option Nat) × List Nat × Nat :=
  let vals := codes.map (fun c => (Fmt.bf16.decode (c.getD 0), RMode.rne))
  let bs := (chunksOf blk vals.length vals).map (fun b => blockScale f false b)
  ((codes.zip (bs.flatMap Prod.snd)).map (fun p => p.1.map (fun _ => p.2.code)), bs.map Prod.fst,
    bs.foldl (fun n b => n + (b.2.filter Conv.sat).length) 0)

/-- One lane of an operand: decoded elements padded to whole blocks, block scales, violations and CONV_SAT events (R136 to R146, R171 to R175). -/
def State.opRow (s : State) (c : CoreId) (v : View) (opnd nmMode : Bool) (cvt : Option Fmt) (blk r : Nat) : OpRow :=
  let row := s.storedRow c v opnd r
  let k := v.kExt
  let nb := ceilDiv k blk
  let (f, codes, scales, sats) : Fmt × List (Option Nat) × List Nat × Nat :=
    match cvt with
    | some f => let (cs, sc, n) := cvtRow f blk row.codes; (f, cs, sc, n)
    | none => (v.fmt, row.codes, (List.range nb).map (fun b => s.kScale v b r), 0)
  let (codes, viols) :=
    if nmMode && decide (Leg.sparse v.prim = 0) then
      packRow f (Leg.nmpat v.prim) opnd ((Leg.strict v.prim).getLsbD 0) r codes
    else (codes, [])
  ⟨padTo (nb * blk) (codes.map (fun o => o.map (fun x => El.ofVal (f.decode x)))), scales, row.viols ++ viols, row.bad + sats⟩

/-- Every lane of an operand, with the dimension-1 check of a transposable view (R182). DESIGN CHOICE (log 141): where the last-buffer converter acts (R174), the check counts converted elements. -/
def State.opRows (s : State) (c : CoreId) (v : View) (opnd nmMode : Bool) (cvt : Option Fmt) (blk : Nat) : List OpRow × List Viol :=
  let rows := (List.range v.lanes).map (fun r => s.opRow c v opnd nmMode cvt blk r)
  let tv :=
    if nmMode && decide (Leg.sparse v.prim = 0) && decide (Leg.nmpat v.prim = 5) then
      match cvt with
      | none => transposable v.fmt opnd ((Leg.strict v.prim).getLsbD 0) ((List.range v.lanes).map (fun r => s.denseRow v r)) v.kExt
      | some f => transposable f opnd ((Leg.strict v.prim).getLsbD 0)
          ((List.range v.lanes).map (fun r => (cvtRow f blk (s.denseRow v r)).1)) v.kExt
    else []
  (rows, tv)

/-! ### Passes -/

/-- Cell (i, j) of a tile; cells outside its extents are zero. -/
def Tile.cell (t : Tile) (i j : Nat) : Cell := if i < t.m ∧ j < t.n then t.cells.getD (i * t.n + j) Cell.zero else Cell.zero

/-- The tile with extents of at least `m × n`. -/
def Tile.grow (t : Tile) (m n : Nat) : Tile :=
  let m' := max t.m m
  let n' := max t.n n
  if m' = t.m ∧ n' = t.n then t
  else { t with cells := (raster m' n').map (fun p => t.cell p.1 p.2), m := m', n := n' }

/-- The tile as a command of `m × n` continues it: its cells cover the command's, and the command's extents say what is in bounds (R144, R158).
DESIGN CHOICE (log 168): a bank, and a chunk, has the extents of the command that ends it. -/
def Tile.continued (t : Tile) (m n : Nat) : Tile := { t.grow m n with bm := m, bn := n, loaded := false }

/-- The cells of an `m × n` tile in raster order. -/
def Tile.slice (t : Tile) (m n : Nat) : List Cell := (raster m n).map (fun p => t.cell p.1 p.2)

/-- The block register of a cell after block `i` (R88); cleared where an operand has no lane. -/
def regAt (as bs : List OpRow) (blk i m n : Nat) : BlockReg :=
  match as[m]?, bs[n]? with
  | some a, some b => blockReg ((a.els.drop (i * blk)).take blk) ((b.els.drop (i * blk)).take blk)
  | _, _ => BlockReg.zero

/-- The partial of block `i` at a cell (R92). -/
def partAt (as bs : List OpRow) (blk i m n : Nat) : Part :=
  match as[m]?, bs[n]? with
  | some a, some b =>
    blockPartial ((a.els.drop (i * blk)).take blk) ((b.els.drop (i * blk)).take blk) (a.scales.getD i 0x7F) (b.scales.getD i 0x7F)
  | _, _ => ⟨.fin false 0 0, false, false⟩

/-- A chunk that a pass has ended before its last block (R99): its in-bounds bank, whether it is the tile's first, and the blocks of the command up to its end. -/
structure Chunk where
  cells : List Cell
  first : Bool
  stop : Nat
deriving DecidableEq, Repr

/-- The chunk counter after `k` more block partials: 4,097 stands for every count above 4,096 (R100, R119). -/
def cntAdd (c : BitVec 13) (k : Nat) : BitVec 13 := BitVec.ofNat 13 (min 4097 (c.toNat + k))

/-- The flags that the elements of a bank have raised. -/
def cellFlags (w : BitVec 13) (cs : List Cell) : BitVec 13 :=
  flagIf (flagIf (flagIf w .sat (cs.any Cell.sat)) .scaleHi (cs.any Cell.hi)) .scaleLo (cs.any Cell.lo)

/-- `k` blocks counted into a tile: BOUND past 4,096 in a CF32 bank without EXACT (R100). -/
def Tile.count (t : Tile) (k : Nat) : Tile :=
  let cnt := cntAdd t.cnt k
  { t with cnt := cnt, info := { t.info with flags := flagIf t.info.flags .bound (!t.info.exact' && decide (t.info.acc = .cf32) && decide (cnt = 4097#13)) } }

/-- A chunk ends (R99): the tile goes on with a zero bank, and keeps the flags that the ended one raised. -/
def Tile.cut (t : Tile) (stop : Nat) : Tile × Chunk :=
  ({ t with cells := List.replicate (t.m * t.n) Cell.zero, cnt := 0, firstDone := true, info := { t.info with flags := cellFlags t.info.flags t.cells } },
    ⟨t.slice t.bm t.bn, !t.firstDone, stop⟩)

/-- Add blocks `i, i + 1, …` of a pass into a tile, at most `fuel` of them, ending chunks at global boundaries (R97, R99, R100).
`last` is the tile's last block, when the command ends it. -/
def runBlocks (as bs : List OpRow) (blk kbase : Nat) (last : Option Nat) : Nat → Nat → Tile → List Chunk → Tile × List Chunk
  | 0, _, t, cs => (t, cs)
  | fuel + 1, i, t, cs =>
    let cells := (raster t.m t.n).zip t.cells |>.map (fun p =>
      if p.1.1 < as.length ∧ p.1.2 < bs.length then accAdd t.info.acc p.2 (partAt as bs blk i p.1.1 p.1.2) else p.2)
    let t := { (t.count 1) with cells := cells, knext := kbase + i + 1 }
    if t.info.exact' && decide ((kbase + i) % 4096 = 4095) && decide (last ≠ some i) then
      let (t, ch) := t.cut (i + 1)
      runBlocks as bs blk kbase last fuel (i + 1) t (cs ++ [ch])
    else runBlocks as bs blk kbase last fuel (i + 1) t cs

/-- Fold non-strict violations and CONV_SAT events into a tile's reports (R176, R177). -/
def TileInfo.report (t : TileInfo) (vs : List Viol) (bad : Nat) : TileInfo :=
  let vs := vs.filter (fun v => decide (v.kind ≠ .metaDup) && decide (v.kind ≠ .outside))
  let fl := vs.foldl (fun w v => match v.kind.flag with
    | some f => flagIf w f true
    | none => w) t.flags
  let w := (firstViol vs).map Viol.word
  let vpos := match w with
    | some w => if t.vpos = 0 ∨ w.toNat % 2 ^ 30 < t.vpos.toNat % 2 ^ 30 then w else t.vpos
    | none => t.vpos
  { t with flags := flagIf fl .convSat (decide (bad ≠ 0)), viol := t.viol + vs.foldl (fun n v => n + v.count) 0, vpos := vpos, conv := t.conv + bad }

/-- Record code of a violation at a fault point (R512). -/
def VKind.recCode : VKind → BitVec 16
  | .pattern => 0x0301 | .range => 0x0302 | .order => 0x0303 | .metaDup => 0x0400 | .outside => 0x020A

/-- The fault point of a pass: its K-step and what it records, from the strict events in steps of `step` K positions (R180, R181, R558). -/
def faultAt (vs : List Viol) (step : Nat) (ra rb : Fin 32) (x : Fin 2) (pc : BitVec 32) (tag : Word) : Option (Nat × FaultPt) :=
  let st := vs.filter Viol.strict
  match st.map (fun v => v.k / step) with
  | [] => none
  | k :: ks =>
    let k0 := ks.foldl min k
    let here := st.filter (fun v => v.k / step = k0)
    let recs := [VKind.outside, .pattern, .range, .order, .metaDup].filterMap (fun kd =>
      (firstViol (here.filter (fun v => v.kind = kd))).map (fun v =>
        (kd.recCode, if kd = .outside then BitVec.ofNat 32 (if v.opnd then rb.val else ra.val) else v.word)))
    some (k0, ⟨x, pc, tag, recs, here.length - recs.length⟩)

/-- K positions per K-step: L of the rate class, doubled in N:M mode (R71, R120, R141). -/
def kStep (a b : Fmt) (nm : Bool) : Nat :=
  let l := if a.cls = .c8 ∨ b.cls = .c8 then 1 else if a.cls = .c4 ∨ b.cls = .c4 then 2 else 4
  if nm then 2 * l else l

/-! ### Slots and operand registers (R119 to R121) -/

/-- How a command issues its K-steps: block size, K positions per K-step, the pattern of its N:M operand (0: dense mode), and whether that is A or B. -/
structure StepForm where
  blk : Nat
  step : Nat
  pat : Nat
  nmB : Bool
deriving DecidableEq, Repr

/-- The elements that an N:M operand delivers, each with its META index: N of every group (R141). -/
def OpRow.delivered (r : OpRow) (pat : Nat) : List (Option El × Nat) :=
  let (n, m, _) := nmOf pat
  (chunksOf m r.els.length r.els).flatMap (fun g =>
    let xs := g.zipIdx.filter (fun p => p.1.isSome)
    xs ++ List.replicate (n - xs.length) (none, 0))

/-- The groups of the dense operand that K-step `t` touches, whole (R141). -/
def OpRow.groupAt (r : OpRow) (f : StepForm) (t : Nat) : List (Option El) :=
  let m := (nmOf f.pat).2.1
  (r.els.drop (t * f.step / m * m)).take (max m f.step)

/-- Elements of a lane in K-step `t`: `self` says whether the lane is of the N:M operand (R120, R141). -/
def OpRow.stepEls (r : OpRow) (f : StepForm) (self : Bool) (t : Nat) : List (Option El × Nat) :=
  if f.pat = 0 then ((r.els.drop (t * f.step)).take f.step).map (fun x => (x, 0))
  else if self then ((r.delivered f.pat).drop (t * (f.step / 2))).take (f.step / 2)
  else if t * f.step % (nmOf f.pat).2.1 = 0 then (r.groupAt f t).map (fun x => (x, 0)) else []

/-- The slot of the last K-step of block `i` on a lane (R121). A block has at least two K-steps, so SWAP is 0. -/
def OpRow.lastSlot (r : OpRow) (f : StepForm) (self : Bool) (i : Nat) (bank : Bool) (x : Fin 2) : PathSlot :=
  let es := r.stepEls f self ((i + 1) * f.blk / f.step - 1)
  ⟨true, es.map Prod.fst, if f.pat ≠ 0 ∧ self then es.map Prod.snd else [], true, BitVec.ofNat 8 (r.scales.getD i 0x7F), false, bank, x⟩

/-- A cell's block register in its 72 bits (R88). -/
def BlockReg.held (r : BlockReg) : CellRegs := ⟨BitVec.ofInt 72 r.sum, r.nan, r.pinf, r.ninf⟩

/-- What the cells hold after block `i` of a command has passed them (R119). -/
def pipeOf (as bs : List OpRow) (f : StepForm) (i : Nat) (bank : Bool) (x : Fin 2) : CellPipe :=
  { rows := as.map (fun r => r.lastSlot f (!f.nmB) i bank x)
    cols := bs.map (fun r => r.lastSlot f f.nmB i bank x)
    latch := if f.pat = 0 then [] else (if f.nmB then as else bs).map (fun r => r.groupAt f ((i + 1) * f.blk / f.step - 1))
    regs := (raster as.length bs.length).map (fun p => (regAt as bs f.blk i p.1 p.2).held) }

/-- The pipe of an array after `n` blocks of a command, which leave it as it was when there are none. -/
def GridArray.piped (g : GridArray) (as bs : List OpRow) (f : StepForm) (n : Nat) (x : Fin 2) (cuts : Nat) : GridArray :=
  if n = 0 then g else { g with pipe := pipeOf as bs f (n - 1) (xor (vget g.bank x) (decide (cuts % 2 = 1))) x }

/-- The bank of a context changes `k` times (R129). -/
def GridArray.swapped (g : GridArray) (x : Fin 2) (k : Nat) : GridArray :=
  if k % 2 = 0 then g else { g with bank := vmod g.bank x (fun b => !b) }

/-- Jobs queue behind the blocks that a context owes, and then the context owes `rest` (R138). -/
def GridArray.queue (g : GridArray) (x : Fin 2) (js : List DrainJob) (rest : Nat) : GridArray :=
  match js with
  | [] => { g with owed := vmod g.owed x (fun n => n + rest) }
  | j :: js => { g with todo := g.todo ++ { j with left := j.left + vget g.owed x } :: js, owed := vset g.owed x rest }

/-- The zero tile that a start form opens (R97). -/
def Tile.open' (info : TileInfo) (m n : Nat) (b16 : Bool) (k : Nat) : Tile :=
  ⟨info, List.replicate (m * n) Cell.zero, 0, k, b16, false, m, n, m, n, false⟩

/-! ### Siding rows (R133, R135) -/

/-- Whether a repair map names a physical row. -/
def Repair.names (m : Repair) (r : Fin 130) : Bool := decide (m.a = some r ∨ m.b = some r)

/-- The physical rows that a repair map leaves, ascending. -/
def Repair.live (m : Repair) : List (Fin 130) := (List.finRange 130).filter (fun r => !m.names r)

/-- The physical row of a logical row: the r-th one that the map does not name (R133). -/
def Repair.physRow (m : Repair) (r : Fin 128) : Option (Fin 130) := m.live[r.val]?

/-- The repair map that an array applies at every reset (R133). -/
def State.repairOf (s : State) (c : CoreId) (a : Fin 2) : Repair := vget (vget (vget s.pkg.fuses.repair c.die) c.core) a

/-- Siding rows in use: logical rows that lie on physical rows 128 and 129 (R133, R135). -/
def Repair.sidings (m : Repair) : Nat := (m.live.take 128).countP (fun r => decide (128 ≤ r.val))

/-- CAP_SIDINGd (R135). -/
def State.sidingWord (s : State) (d : Fin 8) : Word :=
  (fins 16).foldl (fun w c => w ||| at' ((s.repairOf ⟨d, c⟩ 0).sidings + 4 * (s.repairOf ⟨d, c⟩ 1).sidings) (4 * c.val)) 0

/-! ### Commands at the array -/

/-- A grid array of a core. -/
def State.arr (s : State) (c : CoreId) (a : Fin 2) : GridArray := vget (s.core c).ga a

/-- Change a grid array. -/
def State.modArr (s : State) (c : CoreId) (a : Fin 2) (f : GridArray → GridArray) : State :=
  s.modCore c (fun k => { k with ga := vmod k.ga a f })

/-- Change one context of an array. -/
def GridArray.modCtx (g : GridArray) (x : Fin 2) (f : ArrCtx → ArrCtx) : GridArray := { g with ctx := vmod g.ctx x f }

/-- Detail word of the SEQUENCE cause: bit 0 CTX, bit 1 ARRAY (R340). -/
def seqDetail (a x : Fin 2) : BitVec 32 := BitVec.ofNat 32 (x.val + 2 * a.val)

/-- Whether a context has a bank that has not drained. -/
def GridArray.undrained (g : GridArray) (x : Fin 2) : Bool := (g.todo ++ g.jobs).any (fun j => decide (j.ctx = x) && j.ended)

/-- The conversion target of an operand in BF16 (R71). -/
def cvtOf (v : View) (en : Bool) (code : BitVec 4) : Option Fmt := if v.fmt = .bf16 ∧ en then Fmt.ofCode code.toNat else none

/-- What a tile of a context carries from its configuration. DEDUCED (log 169): a corrected read of the epilogue descriptor serves every tile of that configuration (R509). -/
def CtxCfg.info (cfg : CtxCfg) (dual : Bool) : TileInfo :=
  { acc := Acc.ofCode cfg.l.acc.toNat, exact' := cfg.l.exact', exwMode := cfg.l.exwMode, exwOff := cfg.exwOff, rmode := cfg.l.rmode.toNat,
    ovf := cfg.l.ovf, epi := cfg.epi, dual := dual, m := 0, n := 0, flags := flagIf 0 .eccCorr cfg.corr, viol := 0, vpos := 0, conv := 0 }

/-- `arr.cfg` at the array (R126, R149, R349). -/
def State.beginCfg (s : State) (c : CoreId) (a : Fin 2) (pc : BitVec 32) (l : LayC) (off desc : BitVec 32) : State :=
  let g := s.arr c a
  let x := l.ctx
  let inTile (y : Fin 2) : Bool := (vget g.ctx y).tile.isSome
  let busy := inTile 0 || inTile 1 || g.undrained 0 || g.undrained 1
  if inTile x then s.illegal c .sequence pc (seqDetail a x)
  else if l.dual ≠ g.dual ∧ busy then s.illegal c .sequence pc (seqDetail a x)
  else
    let (s, e) := s.eccRead [(clmAddr c + desc.toNat, 64)]
    let bs := s.mem.read (clmAddr c + desc.toNat) 64
    if desc.toNat % 64 ≠ 0 ∨ desc.toNat + 64 > clmSize then s.illegal c .epilogue pc desc
    else
      match e.poison with
      | some p => s.uncEngine c a.val pc p
      | none =>
        if !epiOk bs then s.illegal c .epilogue pc desc
        else
          let keep0 (y : ArrCtx) : ArrCtx := match y.cfg with
            | some q => if q.l.acc = 2#2 ∨ q.l.acc = 3#2 then y else { y with cfg := none }
            | none => y
          let g1 : GridArray :=
            if l.dual = g.dual then g
            else if l.dual then
              (if x = 0 then ({ g with dual := true }).modCtx 1 (fun y => { y with cfg := none }) else ({ g with dual := true }).modCtx 0 keep0)
            else ({ g with dual := false }).modCtx 1 (fun y => { y with cfg := none })
          s.modArr c a (fun _ => g1.modCtx x (fun y => { y with cfg := some ⟨l, off.toNat, desc, bs, e.corrected⟩ }))

/-- The drain job that ends a tile, `left` blocks from now. -/
def endJob (x : Fin 2) (seq : Nat) (pc : BitVec 32) (t : Tile) (m n : Nat) (o : View) (origin tag : Word) (done : SemOpt) (left : Nat) : DrainJob :=
  ⟨.final, x, seq, pc, { t.info with m := m, n := n }, t.slice m n, !t.firstDone, o, origin, tag, done, 0, 0, left⟩

/-- The drain jobs of the chunks that a pass ends, each with the blocks that the feeders issue between the end before it and its own; `prev` blocks lie behind. -/
def chunkJobs (x : Fin 2) (seq : Nat) (pc : BitVec 32) (t : Tile) (m : MmCmd) : Nat → List Chunk → List DrainJob
  | _, [] => []
  | prev, ch :: cs =>
    ⟨.chunk, x, seq, pc, { t.info with m := t.bm, n := t.bn }, ch.cells, ch.first, m.o, m.origin, m.tag, none, 0, 0, ch.stop - prev⟩ ::
      chunkJobs x seq pc t m ch.stop cs

/-- Blocks of a pass up to its last chunk end. -/
def lastStop (cs : List Chunk) : Nat := ((cs.getLast?).map Chunk.stop).getD 0

/-- `arr.mm` at the array: the checks of R126 and R351, then the pass up to its end or its fault point.
DESIGN CHOICE (log 142): a command with END = 0 whose K is no whole number of blocks runs with its last block padded, as R146 pads the last block of a tile. -/
def State.beginMm (s : State) (c : CoreId) (a : Fin 2) (seq : Nat) (pc : BitVec 32) (x : Fin 2) (m : MmCmd) : State :=
  let g := s.arr c a
  let cx := vget g.ctx x
  let blk := blockSize m.a m.b
  let b16 := decide (blk = 16)
  let seqErr := s.illegal c .sequence pc (seqDetail a x)
  if x = 1 ∧ !g.dual then seqErr
  else
    match cx.cfg with
    | none => seqErr
    | some cfg =>
      if m.start ≠ cx.tile.isNone then seqErr
      else if (match cx.tile with
        | some t => decide (t.b16 ≠ b16) || (t.loaded && decide (t.knext ≠ m.kbase.toNat))
        | none => false) then seqErr
      else
        let mm := m.a.lanes
        let nn := m.b.lanes
        if m.fin ∧ !epiReach cfg.epi m.origin mm nn then
          (s.modArr c a (fun g => g.modCtx x (fun y => { y with tile := none }))).illegal c .epilogue pc cfg.desc
        else
          let (s, e) := s.eccRead (natRanges (s.feedRanges c m.a ++ s.feedRanges c m.b))
          match e.poison with
          | some p => s.uncEngine c a.val pc p
          | none =>
            let bNm := m.b.nm
            let aNm := m.a.nm && !bNm
            let ca := cvtOf m.a cfg.l.ace cfg.l.acvt
            let cb := cvtOf m.b cfg.l.bce cfg.l.bcvt
            let (ra, va) := s.opRows c m.a false aNm ca blk
            let (rb, vb) := s.opRows c m.b true bNm cb blk
            let viols := ra.flatMap OpRow.viols ++ va ++ rb.flatMap OpRow.viols ++ vb
            let bad := (ra ++ rb).foldl (fun n r => n + r.bad) 0
            let step := kStep (ca.getD m.a.fmt) (cb.getD m.b.fmt) (aNm || bNm)
            let nb := ceilDiv m.a.kExt blk
            let t0 := (cx.tile.getD (Tile.open' (cfg.info g.dual) mm nn b16 m.kbase.toNat)).continued mm nn
            let t0 := { t0 with info := { t0.info with flags := flagIf t0.info.flags .eccCorr e.corrected } }
            let fp := faultAt viols step m.a.reg m.b.reg x pc m.tag
            let upto := match fp with
              | some (k, _) => min nb (k * step / blk)
              | none => nb
            let (t, cs) := runBlocks ra rb blk m.kbase.toNat (if m.fin then some (nb - 1) else none) upto 0 t0 []
            let t := { t with info := t.info.report (viols.filter (fun v => !v.strict)) bad }
            let chunks := chunkJobs x seq pc t m 0 cs
            let form : StepForm := ⟨blk, step, if bNm then Leg.nmpat m.b.prim else if aNm then Leg.nmpat m.a.prim else 0, bNm⟩
            let piped (g : GridArray) : GridArray := (g.piped ra rb form upto x cs.length).swapped x cs.length
            match fp with
            | some (_, f) => s.modArr c a (fun g =>
                { (((piped g).modCtx x (fun y => { y with tile := some t })).queue x chunks (upto - lastStop cs)) with fault := some f })
            | none =>
              s.modArr c a (fun g =>
                let g := { piped g with frees := g.frees ++ [(x, seq, m.free)] }
                if m.fin then
                  ((g.swapped x 1).modCtx x (fun y => { y with tile := none })).queue x
                    (chunks ++ [endJob x seq pc t mm nn m.o m.origin m.tag m.done (nb - lastStop cs)]) 0
                else (g.modCtx x (fun y => { y with tile := some t })).queue x chunks (nb - lastStop cs))

/-- Plain `arr.drain` at the array (R126, R155). -/
def State.beginDrain (s : State) (c : CoreId) (a : Fin 2) (seq : Nat) (pc : BitVec 32) (x : Fin 2) (o : View) (origin tag : Word) (done : SemOpt) : State :=
  let g := s.arr c a
  match (vget g.ctx x).cfg, (vget g.ctx x).tile with
  | some cfg, some t =>
    if x = 1 ∧ !g.dual then s.illegal c .sequence pc (seqDetail a x)
    else if !epiReach cfg.epi origin o.rows (Leg.ext0 o.prim) then
      (s.modArr c a (fun g => g.modCtx x (fun y => { y with tile := none }))).illegal c .epilogue pc cfg.desc
    else s.modArr c a (fun g => ((g.swapped x 1).modCtx x (fun y => { y with tile := none })).queue x
      [endJob x seq pc t o.rows (Leg.ext0 o.prim) o origin tag done 0] 0)
  | _, _ => s.illegal c .sequence pc (seqDetail a x)

/-- The ExW forms of `arr.drain` at the array (R352): `dst` none is the ExW form. -/
def State.beginExw (s : State) (c : CoreId) (a : Fin 2) (seq : Nat) (pc : BitVec 32) (x : Fin 2) (o : View) (src : BitVec 32) (dst : Option (BitVec 32))
    (origin tag : Word) (done : SemOpt) : State :=
  let g := s.arr c a
  match (vget g.ctx x).cfg with
  | none => s.illegal c .sequence pc (seqDetail a x)
  | some cfg =>
    let m := o.rows
    let n := Leg.ext0 o.prim
    if (x = 1 ∧ !g.dual) ∨ (vget g.ctx x).tile.isSome then s.illegal c .sequence pc (seqDetail a x)
    else if dst.isNone ∧ !epiReach cfg.epi origin m n then s.illegal c .epilogue pc cfg.desc
    else
      let info := { cfg.info false with m := m, n := n }
      let j : DrainJob := ⟨if dst.isSome then .exwAdd else .exw, x, seq, pc, info, [], false, o, origin, tag, done, src.toNat, (dst.getD 0).toNat, 0⟩
      s.modArr c a (fun g => { g with todo := g.todo ++ [j] })

/-! ### Save and load (R156 to R158) -/

/-- The flags of a tile so far, in TSR positions (R157).
DESIGN CHOICE (log 138): EXACT is set once a chunk of the tile has reached its ExW region, which is what a restored tile needs for R109.
DESIGN CHOICE (log 173): DUAL of a record is 0, also of a tile in a dual-context array. -/
def Tile.flags (t : Tile) : BitVec 13 := flagIf (cellFlags t.info.flags t.cells) .exact' t.firstDone

/-- Class code of layout C (R157). -/
def optsByte (l : LayC) (b16 : Bool) : Nat := l.exact'.toNat + 2 * l.exwMode.toNat + 8 * b16.toNat

/-- Bytes of one bank element of a save record (R157). -/
def Cell.bytes (acc : Acc) (x : Cell) : List Byte :=
  match acc with
  | .cf32 | .i48 => leBytes 4 x.w0.toNat ++ leBytes 4 x.w1.toNat
  | _ => leBytes 4 x.w0.toNat

/-- The save record of a tile (R157).
DESIGN CHOICE (log 175): CNT of a bank past 4,096 partials, which EXACT off allows, is saved as 4,096. -/
def saveRecord (cfg : CtxCfg) (t : Tile) : List Byte :=
  let all := t.slice 128 128
  leBytes 1 cfg.l.acc.toNat ++ leBytes 1 cfg.l.kind.toNat ++ leBytes 1 (cfg.l.aclass.toNat + 4 * cfg.l.bclass.toNat) ++
    leBytes 1 (optsByte cfg.l t.b16) ++ leBytes 4 cfg.exwOff ++ leBytes 8 t.knext ++ leBytes 2 (min 4096 t.cnt.toNat) ++ leBytes 2 0 ++
    leBytes 4 t.flags.toNat ++ leBytes 40 0 ++
    (chunksOf 8 2048 all).map (fun g => BitVec.ofNat 8 (g.zipIdx.foldl (fun n p => n + p.1.sat.toNat * 2 ^ p.2) 0)) ++
    all.flatMap (Cell.bytes t.info.acc)

/-- Length of a save record (R157). -/
def saveLen (acc : Acc) : Nat := match acc with | .cf32 | .i48 => 133184 | _ => 67648

/-- `arr.save` at the array (R126, R156). -/
def State.beginSave (s : State) (c : CoreId) (a : Fin 2) (seq : Nat) (pc : BitVec 32) (x : Fin 2) (off : BitVec 32) (done : SemOpt) : State :=
  let g := s.arr c a
  match (vget g.ctx x).cfg, (vget g.ctx x).tile with
  | some cfg, some t =>
    if x = 1 ∧ !g.dual then s.illegal c .sequence pc (seqDetail a x)
    else s.modArr c a (fun g => { ((g.swapped x 1).modCtx x (fun y => { y with tile := none })) with
      saving := some ⟨seq, pc, x, off.toNat, saveRecord cfg t, done⟩ })
  | _, _ => s.illegal c .sequence pc (seqDetail a x)

/-- The flags that a record's flag word restores: EXACT and DUAL are set anew when the tile drains. -/
def loadFlags (w : Nat) : BitVec 13 := BitVec.ofNat 13 w &&& ~~~(flagIf (flagIf 0 .exact' true) .dual true)

/-- The tile that a save record restores (R158).
DESIGN CHOICE (logs 138, 137): FLAGS.EXACT says whether a chunk has reached the ExW region; SCALE_HI and SCALE_LO of single elements, and the counts and the position behind CONV_CNT, VIOL_CNT and VPOS, for which the record has no place, restart at 0.
DESIGN CHOICE (log 176): a CNT above 4,096 is accepted and counts as 4,097. -/
def loadTile (cfg : CtxCfg) (dual : Bool) (bs : List Byte) : Tile :=
  let acc := Acc.ofCode cfg.l.acc.toNat
  let w := match acc with | .cf32 | .i48 => 8 | _ => 4
  let cells := (List.range 16384).map (fun i =>
    let e := (bs.drop (0x840 + w * i)).take w
    (⟨BitVec.ofNat 32 (ofLE (e.take 4)), BitVec.ofNat 32 (ofLE (e.drop 4)), (bs.getD (0x40 + i / 8) 0).getLsbD (i % 8), false, false⟩ : Cell))
  { info := { cfg.info dual with flags := (cfg.info dual).flags ||| loadFlags (d32 bs 0x14) }, cells := cells, cnt := cntAdd 0 (d16 bs 0x10),
    knext := ofLE ((bs.drop 8).take 8), b16 := (bs.getD 3 0).getLsbD 3, firstDone := hasFlag (BitVec.ofNat 13 (d32 bs 0x14)) .exact',
    m := 128, n := 128, bm := 0, bn := 0, loaded := true }

/-- A tile with ECC_CORR set by a corrected read (R509). -/
def Tile.corrected (t : Tile) (b : Bool) : Tile := { t with info := { t.info with flags := flagIf t.info.flags .eccCorr b } }

/-- `arr.load` at the array (R158). DEDUCED (log 169): the read of the record serves the tile (R509). -/
def State.beginLoad (s : State) (c : CoreId) (a : Fin 2) (pc : BitVec 32) (x : Fin 2) (off : BitVec 32) (done : SemOpt) : State :=
  let g := s.arr c a
  let cx := vget g.ctx x
  match cx.cfg with
  | none => s.illegal c .sequence pc (seqDetail a x)
  | some cfg =>
    if (x = 1 ∧ !g.dual) ∨ cx.tile.isSome then s.illegal c .sequence pc (seqDetail a x)
    else
      let acc := Acc.ofCode cfg.l.acc.toNat
      let (s, e) := s.eccRead [(clmAddr c + off.toNat, saveLen acc)]
      match e.poison with
      | some p => s.uncEngine c a.val pc p
      | none =>
        let bs := s.mem.read (clmAddr c + off.toNat) (saveLen acc)
        let ok := decide (d8 bs 0 = cfg.l.acc.toNat) && decide (d8 bs 1 = cfg.l.kind.toNat) &&
          decide (d8 bs 2 = cfg.l.aclass.toNat + 4 * cfg.l.bclass.toNat) && decide (d8 bs 3 % 8 = optsByte cfg.l false) &&
          decide (d8 bs 3 < 16) && dZero bs 0x12 2 && decide (d32 bs 0x14 < 2 ^ 13) && dZero bs 0x18 40
        if !ok then s.illegal c .sequence pc (seqDetail a x)
        else (s.modArr c a (fun g => g.modCtx x (fun y => { y with tile := some ((loadTile cfg g.dual bs).corrected e.corrected) }))).post c done

/-! ### Sketch mode (R215 to R221) -/

/-- Whether a sketch descriptor breaks no rule of R218, and its tables and bound rows lie in the CLM. The spec names no cause for a region outside the CLM here; DESIGN CHOICE: SKETCH, as R222 has it. -/
def sktDescOk (bs : List Byte) (m0 m n0 n : Nat) : Bool :=
  let g := f32Val (BitVec.ofNat 32 (d32 bs 0x10))
  decide (d32 bs 0 % 2 = 0) && decide (d32 bs 4 % 4 = 0) && decide (d32 bs 8 % 64 = 0) && decide (d32 bs 12 % 64 = 0) &&
    dZero bs 0x14 44 && g.isFin && !(g.sign && !g.isZero) && decide (8 * (n0 + n) ≤ d32 bs 12) &&
    decide (d32 bs 0 + 2 * (n0 + n) ≤ clmSize ∧ d32 bs 4 + 4 * (m0 + m) ≤ clmSize ∧ d32 bs 8 + (m0 + m - 1) * d32 bs 12 + 8 * (n0 + n) ≤ clmSize)

/-- `skt.pass` at the array: the descriptor and the pass of a CF32 bank of its own (R216, R218). DESIGN CHOICE (log 146): the descriptor's offset must be a multiple of 64, as R149 asks of an epilogue descriptor. -/
def State.beginSkt (s : State) (c : CoreId) (a : Fin 2) (seq : Nat) (pc : BitVec 32) (va vb : View) (desc : BitVec 32) (ace : Bool) (acvt : BitVec 4)
    (origin tag : Word) (done : SemOpt) : State :=
  if desc.toNat % 64 ≠ 0 ∨ desc.toNat + 64 > clmSize then s.illegal c .sketch pc desc
  else
    let (s, e) := s.eccRead ((clmAddr c + desc.toNat, 64) :: natRanges (s.feedRanges c va ++ s.feedRanges c vb))
    match e.poison with
    | some p => s.uncEngine c 5 pc p
    | none =>
      let bs := s.mem.read (clmAddr c + desc.toNat) 64
      if !sktDescOk bs (fldN origin 0 32) va.lanes (fldN origin 32 32) vb.lanes then s.illegal c .sketch pc desc
      else
        let blk := vb.blk
        let ca := cvtOf va ace acvt
        let (ra, _) := s.opRows c va false false ca blk
        let (rb, _) := s.opRows c vb true false none blk
        let info : TileInfo := ⟨.cf32, false, 0, 0, 0, false, [], false, va.lanes, vb.lanes, flagIf 0 .eccCorr e.corrected, 0, 0,
          (ra ++ rb).foldl (fun n r => n + r.bad) 0⟩
        let (t, _) := runBlocks ra rb blk 0 none (ceilDiv va.kExt blk) 0 (Tile.open' info va.lanes vb.lanes (decide (blk = 16)) 0) []
        let nb := ceilDiv va.kExt blk
        s.modArr c a (fun g => { g.piped ra rb ⟨blk, 4, 0, false⟩ nb 0 0 with skt := some ⟨seq, pc, bs, { t.info with flags := t.info.flags &&& ~~~(1#13 <<< 5) }, t.cells, origin, tag, done⟩ })

/-- A command begins at a grid array (R22, R126). -/
def State.beginArr (s : State) (c : CoreId) (a : Fin 2) (seq : Nat) (pc : BitVec 32) (cmd : ArrCmd) : State :=
  match cmd with
  | .cfg l off desc => s.beginCfg c a pc l off desc
  | .mm x m => s.beginMm c a seq pc x m
  | .drain x o origin tag done => s.beginDrain c a seq pc x o origin tag done
  | .drainExw x o src origin tag done => s.beginExw c a seq pc x o src none origin tag done
  | .drainAdd x o src dst tag done => s.beginExw c a seq pc x o src (some dst) 0 tag done
  | .save x off done => s.beginSave c a seq pc x off done
  | .load x off done => s.beginLoad c a pc x off done
  | .skt va vb desc ace acvt origin tag done => s.beginSkt c a seq pc va vb desc ace acvt origin tag done

/-- The context that a command works on; none for a sketch pass, which uses the whole array. -/
def ArrCmd.ctx : ArrCmd → Option (Fin 2)
  | .cfg l _ _ => some l.ctx
  | .mm x _ | .drain x _ _ _ _ | .drainExw x _ _ _ _ _ | .drainAdd x _ _ _ _ _ | .save x _ _ | .load x _ _ => some x
  | .skt _ _ _ _ _ _ _ _ => none

/-- Whether a command needs every pass of the array to have ended: a sketch pass, and the ExW forms, which wait for the drain unit (R131, R155, R216). -/
def ArrCmd.alone : ArrCmd → Bool
  | .drainExw _ _ _ _ _ _ | .drainAdd _ _ _ _ _ _ | .skt _ _ _ _ _ _ _ _ => true
  | _ => false

/-- Whether a chunk of a context is still on its way into its ExW region. -/
def GridArray.adding (g : GridArray) (x : Fin 2) : Bool := g.jobs.any (fun j => decide (j.kind = .chunk ∧ j.ctx = x))

/-- Whether a command may begin at an array: no save, sketch pass or fault point is on its way to its end, and no pass or chunk of the command's context (R129, R131, R138).
DESIGN CHOICE (log 169): a save also waits for the ExW additions of its tile's chunks, whose reads may still set ECC_CORR in the tile (R157, R509). -/
def GridArray.ready (g : GridArray) (x : ArrCmd) : Bool :=
  g.saving.isNone && g.skt.isNone && g.fault.isNone &&
    (if x.alone then g.todo.isEmpty else g.todo.all (fun j => decide (some j.ctx ≠ x.ctx))) &&
    (match x with
     | .save y _ _ => !g.adding y
     | _ => true)

/-! ### Block boundaries (R138) -/

/-- The block that a context issues next: of the job at a place of `todo`, or one that it owes. -/
inductive NextBlock where
  | job (i : Nat)
  | owed
deriving DecidableEq, Repr

/-- The next block of context `x`; none when its next bank switch waits or it has no block left. -/
def GridArray.nextPass (g : GridArray) (x : Fin 2) : Option NextBlock :=
  match g.todo.zipIdx.find? (fun p => decide (p.1.ctx = x)) with
  | some (j, i) => if j.left = 0 then none else some (.job i)
  | none => if vget g.owed x = 0 then none else some .owed

/-- The block that the feeders take at a boundary, with its context: of two ready contexts the one that they did not take last (R138). `dry` has the bit of a context whose last buffers lack a slot of its next block. -/
def GridArray.pick (g : GridArray) (dry : BitVec 2) : Option (Fin 2 × NextBlock) :=
  let r (x : Fin 2) : Option (Fin 2 × NextBlock) := if dry.getLsbD x.val then none else (g.nextPass x).map (fun i => (x, i))
  let other : Fin 2 := if g.last = 0 then 1 else 0
  (r other).orElse (fun _ => r g.last)

/-- The operand registers after a bubble: VALID is 0 in every slot (R121, R128). -/
def CellPipe.bubble (p : CellPipe) : CellPipe :=
  { p with rows := p.rows.map (fun x => { x with valid := false }), cols := p.cols.map (fun x => { x with valid := false }) }

/-- One block boundary: the block that the feeders take is issued, or a bubble, which changes no result. -/
def GridArray.boundary (g : GridArray) (dry : BitVec 2) : GridArray :=
  match g.pick dry with
  | some (x, .job i) => { g with last := x, todo := g.todo.modify i (fun j => { j with left := j.left - 1 }) }
  | some (x, .owed) => { g with last := x, owed := vmod g.owed x (fun n => n - 1) }
  | none => { g with pipe := g.pipe.bubble }

end Sys2Proof.Machine
end

