-- ==== Sys2Proof/Decode.lean ====
section
/-! DEFINITION. Decoding: the command that a table word spells, the encoding of the sequencer's instructions (R335 to R356), which of their field values are reserved, and the decoder of the instruction words of a program image. -/

namespace Sys2Proof

/-- The command that a word spells by the bits of spec/opcode_table.json: the table gives no row bits, so no word spells one. -/
def decodeTableWord (_nbits _w : Nat) : Option Instr := none

/-! ### Layouts (ch. 12) -/

/-- Fields of layout A from bit 0 upward: (value, width). -/
def LayA.fields (l : LayA) : List (Nat × Nat) :=
  [(l.imm.toNat, 32), (l.u.toNat, 1), (l.rb.val, 5), (l.ra.val, 5), (l.rd.val, 5), (l.im.toNat, 1)]

/-- Layout A from its field values in that order. -/
def LayA.ofFields (v : List Nat) : LayA :=
  { imm := BitVec.ofNat 32 (v.getD 0 0),
    u := decide (v.getD 1 0 = 1),
    rb := Fin.ofNat 32 (v.getD 2 0),
    ra := Fin.ofNat 32 (v.getD 3 0),
    rd := Fin.ofNat 32 (v.getD 4 0),
    im := decide (v.getD 5 0 = 1) }

/-- Widths of the fields of layout A. -/
def LayA.widths : List Nat := [32, 1, 5, 5, 5, 1]

/-- Fields of layout F; `form` is MODE from bit 0 upward: (value, width). -/
def LayF.fields (l : LayF) (form : Nat) : List (Nat × Nat) :=
  [(0, 30), (l.ra.val, 5), (l.sem.val, 6), (form, 1), (l.mask.toNat, 7)]

/-- Layout F; `form` is MODE from its field values in that order. -/
def LayF.ofFields (v : List Nat) : LayF :=
  { ra := Fin.ofNat 32 (v.getD 1 0),
    sem := Fin.ofNat 64 (v.getD 2 0),
    mask := BitVec.ofNat 7 (v.getD 4 0) }

/-- Widths of the fields of layout F. -/
def LayF.widths : List Nat := [30, 5, 6, 1, 7]

/-- Fields of layout L from bit 0 upward: (value, width). -/
def LayL.fields (l : LayL) : List (Nat × Nat) :=
  [(l.imm.toNat, 32), (0, 1), (l.space.toNat, 2), (l.sx.toNat, 1), (l.size.toNat, 2), (l.ra.val, 5), (l.r.val, 5), (0, 1)]

/-- Layout L from its field values in that order. -/
def LayL.ofFields (v : List Nat) : LayL :=
  { imm := BitVec.ofNat 32 (v.getD 0 0),
    space := BitVec.ofNat 2 (v.getD 2 0),
    sx := decide (v.getD 3 0 = 1),
    size := BitVec.ofNat 2 (v.getD 4 0),
    ra := Fin.ofNat 32 (v.getD 5 0),
    r := Fin.ofNat 32 (v.getD 6 0) }

/-- Widths of the fields of layout L. -/
def LayL.widths : List Nat := [32, 1, 2, 1, 2, 5, 5, 1]

/-- Fields of `lg.set` (R345) from bit 0 upward: (value, width). -/
def LaySet.fields (l : LaySet) : List (Nat × Nat) :=
  [(l.imm.toNat, 32), (0, 5), (l.tbl.toNat, 1), (l.ra.val, 5), (l.dd.val, 5), (0, 1)]

/-- `lg.set` (R345) from its field values in that order. -/
def LaySet.ofFields (v : List Nat) : LaySet :=
  { imm := BitVec.ofNat 32 (v.getD 0 0),
    tbl := decide (v.getD 2 0 = 1),
    ra := Fin.ofNat 32 (v.getD 3 0),
    dd := Fin.ofNat 32 (v.getD 4 0) }

/-- Widths of the fields of `lg.set` (R345). -/
def LaySet.widths : List Nat := [32, 5, 1, 5, 5, 1]

/-- Fields of `lg.mod` (R346) from bit 0 upward: (value, width). -/
def LayMod.fields (l : LayMod) : List (Nat × Nat) :=
  [(l.imm.toNat, 32), (0, 1), (l.field.toNat, 5), (l.ra.val, 5), (l.dd.val, 5), (l.im.toNat, 1)]

/-- `lg.mod` (R346) from its field values in that order. -/
def LayMod.ofFields (v : List Nat) : LayMod :=
  { imm := BitVec.ofNat 32 (v.getD 0 0),
    field := BitVec.ofNat 5 (v.getD 2 0),
    ra := Fin.ofNat 32 (v.getD 3 0),
    dd := Fin.ofNat 32 (v.getD 4 0),
    im := decide (v.getD 5 0 = 1) }

/-- Widths of the fields of `lg.mod` (R346). -/
def LayMod.widths : List Nat := [32, 1, 5, 5, 5, 1]

/-- Fields of `lg.view` (R347) from bit 0 upward: (value, width). -/
def LayView.fields (l : LayView) : List (Nat × Nat) :=
  [(0, 23), (l.rc.val, 5), (l.rb.val, 5), (l.ra.val, 5), (l.ds.val, 5), (l.dd.val, 5), (0, 1)]

/-- `lg.view` (R347) from its field values in that order. -/
def LayView.ofFields (v : List Nat) : LayView :=
  { rc := Fin.ofNat 32 (v.getD 1 0),
    rb := Fin.ofNat 32 (v.getD 2 0),
    ra := Fin.ofNat 32 (v.getD 3 0),
    ds := Fin.ofNat 32 (v.getD 4 0),
    dd := Fin.ofNat 32 (v.getD 5 0) }

/-- Widths of the fields of `lg.view` (R347). -/
def LayView.widths : List Nat := [23, 5, 5, 5, 5, 5, 1]

/-- Fields of layout S from bit 0 upward: (value, width). -/
def LayS.fields (l : LayS) : List (Nat × Nat) :=
  [(0, 6), (l.esem.val, 6), (l.een.toNat, 1), (l.done.val, 6), (l.den.toNat, 1), (l.rcount.val, 5), (l.sstrict.toNat, 1), (l.lite.toNat, 1), (l.merge.toNat, 1), (l.idxq.toNat, 1), (l.idx.val, 5), (l.dst.val, 5), (l.src.val, 5), (l.slot.val, 4), (0, 1)]

/-- Layout S from its field values in that order. -/
def LayS.ofFields (v : List Nat) : LayS :=
  { esem := Fin.ofNat 64 (v.getD 1 0),
    een := decide (v.getD 2 0 = 1),
    done := Fin.ofNat 64 (v.getD 3 0),
    den := decide (v.getD 4 0 = 1),
    rcount := Fin.ofNat 32 (v.getD 5 0),
    sstrict := decide (v.getD 6 0 = 1),
    lite := decide (v.getD 7 0 = 1),
    merge := decide (v.getD 8 0 = 1),
    idxq := decide (v.getD 9 0 = 1),
    idx := Fin.ofNat 32 (v.getD 10 0),
    dst := Fin.ofNat 32 (v.getD 11 0),
    src := Fin.ofNat 32 (v.getD 12 0),
    slot := Fin.ofNat 16 (v.getD 13 0) }

/-- Widths of the fields of layout S. -/
def LayS.widths : List Nat := [6, 6, 1, 6, 1, 5, 1, 1, 1, 1, 5, 5, 5, 4, 1]

/-- Fields of word X from bit 0 upward: (value, width). -/
def LayX.fields (l : LayX) : List (Nat × Nat) :=
  [(0, 25), (l.grp.toNat, 8), (l.gkind.toNat, 1), (l.msem.val, 6), (l.men.toNat, 1), (l.pgran.toNat, 16), (l.prog.val, 6), (l.pen.toNat, 1)]

/-- Word X from its field values in that order. -/
def LayX.ofFields (v : List Nat) : LayX :=
  { grp := BitVec.ofNat 8 (v.getD 1 0),
    gkind := decide (v.getD 2 0 = 1),
    msem := Fin.ofNat 64 (v.getD 3 0),
    men := decide (v.getD 4 0 = 1),
    pgran := BitVec.ofNat 16 (v.getD 5 0),
    prog := Fin.ofNat 64 (v.getD 6 0),
    pen := decide (v.getD 7 0 = 1) }

/-- Widths of the fields of word X. -/
def LayX.widths : List Nat := [25, 8, 1, 6, 1, 16, 6, 1]

/-- Fields of layout C from bit 0 upward: (value, width). -/
def LayC.fields (l : LayC) : List (Nat × Nat) :=
  [(0, 13), (l.bcvt.toNat, 4), (l.bce.toNat, 1), (l.acvt.toNat, 4), (l.ace.toNat, 1), (l.re.val, 5), (l.rx.val, 5), (l.ovf.toNat, 1), (l.rmode.toNat, 2), (l.exwMode.toNat, 2), (l.exact'.toNat, 1), (l.bclass.toNat, 2), (l.aclass.toNat, 2), (l.kind.toNat, 1), (l.acc.toNat, 2), (l.dual.toNat, 1), (l.ctx.val, 1), (l.array.val, 1)]

/-- Layout C from its field values in that order. -/
def LayC.ofFields (v : List Nat) : LayC :=
  { bcvt := BitVec.ofNat 4 (v.getD 1 0),
    bce := decide (v.getD 2 0 = 1),
    acvt := BitVec.ofNat 4 (v.getD 3 0),
    ace := decide (v.getD 4 0 = 1),
    re := Fin.ofNat 32 (v.getD 5 0),
    rx := Fin.ofNat 32 (v.getD 6 0),
    ovf := decide (v.getD 7 0 = 1),
    rmode := BitVec.ofNat 2 (v.getD 8 0),
    exwMode := BitVec.ofNat 2 (v.getD 9 0),
    exact' := decide (v.getD 10 0 = 1),
    bclass := BitVec.ofNat 2 (v.getD 11 0),
    aclass := BitVec.ofNat 2 (v.getD 12 0),
    kind := decide (v.getD 13 0 = 1),
    acc := BitVec.ofNat 2 (v.getD 14 0),
    dual := decide (v.getD 15 0 = 1),
    ctx := Fin.ofNat 2 (v.getD 16 0),
    array := Fin.ofNat 2 (v.getD 17 0) }

/-- Widths of the fields of layout C. -/
def LayC.widths : List Nat := [13, 4, 1, 4, 1, 5, 5, 1, 2, 2, 1, 2, 2, 1, 2, 1, 1, 1]

/-- Fields of layout P from bit 0 upward: (value, width). -/
def LayP.fields (l : LayP) : List (Nat × Nat) :=
  [(l.wgt.toNat, 1), (l.free.val, 6), (l.fen.toNat, 1), (l.done.val, 6), (l.den.toNat, 1), (l.rt.val, 5), (l.ro.val, 5), (l.rk.val, 5), (l.dc.val, 5), (l.db.val, 5), (l.da.val, 5), (l.fin.toNat, 1), (l.start.toNat, 1), (l.ctx.val, 1), (l.array.val, 1)]

/-- Layout P from its field values in that order. -/
def LayP.ofFields (v : List Nat) : LayP :=
  { wgt := decide (v.getD 0 0 = 1),
    free := Fin.ofNat 64 (v.getD 1 0),
    fen := decide (v.getD 2 0 = 1),
    done := Fin.ofNat 64 (v.getD 3 0),
    den := decide (v.getD 4 0 = 1),
    rt := Fin.ofNat 32 (v.getD 5 0),
    ro := Fin.ofNat 32 (v.getD 6 0),
    rk := Fin.ofNat 32 (v.getD 7 0),
    dc := Fin.ofNat 32 (v.getD 8 0),
    db := Fin.ofNat 32 (v.getD 9 0),
    da := Fin.ofNat 32 (v.getD 10 0),
    fin := decide (v.getD 11 0 = 1),
    start := decide (v.getD 12 0 = 1),
    ctx := Fin.ofNat 2 (v.getD 13 0),
    array := Fin.ofNat 2 (v.getD 14 0) }

/-- Widths of the fields of layout P. -/
def LayP.widths : List Nat := [1, 6, 1, 6, 1, 5, 5, 5, 5, 5, 5, 1, 1, 1, 1]

/-- Fields of layout R; `form` is FORM from bit 0 upward: (value, width). -/
def LayR.fields (l : LayR) (form : Nat) : List (Nat × Nat) :=
  [(0, 8), (l.done.val, 6), (l.den.toNat, 1), (l.rt.val, 5), (l.ro.val, 5), (0, 5), (l.rd.val, 5), (l.rs.val, 5), (l.d.val, 5), (form, 2), (l.ctx.val, 1), (l.array.val, 1)]

/-- Layout R; `form` is FORM from its field values in that order. -/
def LayR.ofFields (v : List Nat) : LayR :=
  { done := Fin.ofNat 64 (v.getD 1 0),
    den := decide (v.getD 2 0 = 1),
    rt := Fin.ofNat 32 (v.getD 3 0),
    ro := Fin.ofNat 32 (v.getD 4 0),
    rd := Fin.ofNat 32 (v.getD 6 0),
    rs := Fin.ofNat 32 (v.getD 7 0),
    d := Fin.ofNat 32 (v.getD 8 0),
    ctx := Fin.ofNat 2 (v.getD 10 0),
    array := Fin.ofNat 2 (v.getD 11 0) }

/-- Widths of the fields of layout R. -/
def LayR.widths : List Nat := [8, 6, 1, 5, 5, 5, 5, 5, 5, 2, 1, 1]

/-- Fields of layout J from bit 0 upward: (value, width). -/
def LayJ.fields (l : LayJ) : List (Nat × Nat) :=
  [(0, 23), (l.gc.val, 5), (l.pd.val, 3), (l.rt.val, 5), (l.tsrc.toNat, 1), (l.kind.toNat, 2), (l.d2.val, 5), (l.ds.val, 5)]

/-- Layout J from its field values in that order. -/
def LayJ.ofFields (v : List Nat) : LayJ :=
  { gc := Fin.ofNat 32 (v.getD 1 0),
    pd := Fin.ofNat 8 (v.getD 2 0),
    rt := Fin.ofNat 32 (v.getD 3 0),
    tsrc := decide (v.getD 4 0 = 1),
    kind := BitVec.ofNat 2 (v.getD 5 0),
    d2 := Fin.ofNat 32 (v.getD 6 0),
    ds := Fin.ofNat 32 (v.getD 7 0) }

/-- Widths of the fields of layout J. -/
def LayJ.widths : List Nat := [23, 5, 3, 5, 1, 2, 5, 5]

/-- Fields of word D from bit 0 upward: (value, width). -/
def LayD.fields (l : LayD) : List (Nat × Nat) :=
  [(0, 34), (l.rowsem.val, 6), (0, 1), (l.re.val, 5), (l.rx.val, 5), (l.ovf.toNat, 1), (l.rmode.toNat, 2), (l.exwMode.toNat, 2), (l.exact'.toNat, 1), (l.bclass.toNat, 2), (l.aclass.toNat, 2), (l.kind.toNat, 1), (l.acc.toNat, 2)]

/-- Word D from its field values in that order. -/
def LayD.ofFields (v : List Nat) : LayD :=
  { rowsem := Fin.ofNat 64 (v.getD 1 0),
    re := Fin.ofNat 32 (v.getD 3 0),
    rx := Fin.ofNat 32 (v.getD 4 0),
    ovf := decide (v.getD 5 0 = 1),
    rmode := BitVec.ofNat 2 (v.getD 6 0),
    exwMode := BitVec.ofNat 2 (v.getD 7 0),
    exact' := decide (v.getD 8 0 = 1),
    bclass := BitVec.ofNat 2 (v.getD 9 0),
    aclass := BitVec.ofNat 2 (v.getD 10 0),
    kind := decide (v.getD 11 0 = 1),
    acc := BitVec.ofNat 2 (v.getD 12 0) }

/-- Widths of the fields of word D. -/
def LayD.widths : List Nat := [34, 6, 1, 5, 5, 1, 2, 2, 1, 2, 2, 1, 2]

/-- Fields of layout V from bit 0 upward: (value, width). -/
def LayV.fields (l : LayV) : List (Nat × Nat) :=
  [(l.opt.toNat, 6), (l.done.val, 6), (l.den.toNat, 1), (l.stw.toNat, 1), (l.rw.val, 5), (l.rs.val, 5), (0, 1), (l.ovf.toNat, 1), (l.rmode.toNat, 2), (l.scal.toNat, 1), (l.dz.val, 5), (l.dy.val, 5), (l.dx.val, 5), (l.dd.val, 5)]

/-- Layout V from its field values in that order. -/
def LayV.ofFields (v : List Nat) : LayV :=
  { opt := BitVec.ofNat 6 (v.getD 0 0),
    done := Fin.ofNat 64 (v.getD 1 0),
    den := decide (v.getD 2 0 = 1),
    stw := decide (v.getD 3 0 = 1),
    rw := Fin.ofNat 32 (v.getD 4 0),
    rs := Fin.ofNat 32 (v.getD 5 0),
    ovf := decide (v.getD 7 0 = 1),
    rmode := BitVec.ofNat 2 (v.getD 8 0),
    scal := decide (v.getD 9 0 = 1),
    dz := Fin.ofNat 32 (v.getD 10 0),
    dy := Fin.ofNat 32 (v.getD 11 0),
    dx := Fin.ofNat 32 (v.getD 12 0),
    dd := Fin.ofNat 32 (v.getD 13 0) }

/-- Widths of the fields of layout V. -/
def LayV.widths : List Nat := [6, 6, 1, 1, 5, 5, 1, 1, 2, 1, 5, 5, 5, 5]

/-- Fields of layout Y of `sem.*` from bit 0 upward: (value, width). -/
def LayY.fields (l : LayY) : List (Nat × Nat) :=
  [(0, 3), (l.gd.val, 5), (l.pd.val, 3), (l.rto.val, 5), (l.imm.toNat, 16), (l.ra.val, 5), (l.im.toNat, 1), (l.core.val, 4), (l.die.toNat, 1), (l.sem.val, 6)]

/-- Layout Y of `sem.*` from its field values in that order. -/
def LayY.ofFields (v : List Nat) : LayY :=
  { gd := Fin.ofNat 32 (v.getD 1 0),
    pd := Fin.ofNat 8 (v.getD 2 0),
    rto := Fin.ofNat 32 (v.getD 3 0),
    imm := BitVec.ofNat 16 (v.getD 4 0),
    ra := Fin.ofNat 32 (v.getD 5 0),
    im := decide (v.getD 6 0 = 1),
    core := Fin.ofNat 16 (v.getD 7 0),
    die := decide (v.getD 8 0 = 1),
    sem := Fin.ofNat 64 (v.getD 9 0) }

/-- Widths of the fields of layout Y of `sem.*`. -/
def LayY.widths : List Nat := [3, 5, 3, 5, 16, 5, 1, 4, 1, 6]

/-- Fields of layout Y of `bar.*` from bit 0 upward: (value, width). -/
def LayB.fields (l : LayB) : List (Nat × Nat) :=
  [(0, 8), (l.pd.val, 3), (l.rto.val, 5), (0, 30), (l.ch.val, 3)]

/-- Layout Y of `bar.*` from its field values in that order. -/
def LayB.ofFields (v : List Nat) : LayB :=
  { pd := Fin.ofNat 8 (v.getD 1 0),
    rto := Fin.ofNat 32 (v.getD 2 0),
    ch := Fin.ofNat 8 (v.getD 4 0) }

/-- Widths of the fields of layout Y of `bar.*`. -/
def LayB.widths : List Nat := [8, 3, 5, 30, 3]

/-- Fields of layout Y of `dsp.*`; `form` is FORM, or RETIRE at bit 44 from bit 0 upward: (value, width). -/
def LayT.fields (l : LayT) (form : Nat) : List (Nat × Nat) :=
  [(0, 3), (l.gd.val, 5), (0, 24), (l.ra.val, 5), (0, 6), (form, 2), (l.k.val, 4)]

/-- Layout Y of `dsp.*`; `form` is FORM, or RETIRE at bit 44 from its field values in that order. -/
def LayT.ofFields (v : List Nat) : LayT :=
  { gd := Fin.ofNat 32 (v.getD 1 0),
    ra := Fin.ofNat 32 (v.getD 3 0),
    retire := decide (v.getD 5 0 ≥ 2),
    k := Fin.ofNat 16 (v.getD 6 0) }

/-- Widths of the fields of layout Y of `dsp.*`. -/
def LayT.widths : List Nat := [3, 5, 24, 5, 6, 2, 4]

/-- Fields of layout Y of `q.*` from bit 0 upward: (value, width). -/
def LayQ.fields (l : LayQ) : List (Nat × Nat) :=
  [(0, 3), (l.gd.val, 5), (0, 24), (l.ra.val, 5), (0, 7), (l.eop.toNat, 1), (l.sop.toNat, 1), (l.q.val, 3)]

/-- Layout Y of `q.*` from its field values in that order. -/
def LayQ.ofFields (v : List Nat) : LayQ :=
  { gd := Fin.ofNat 32 (v.getD 1 0),
    ra := Fin.ofNat 32 (v.getD 3 0),
    eop := decide (v.getD 5 0 = 1),
    sop := decide (v.getD 6 0 = 1),
    q := Fin.ofNat 8 (v.getD 7 0) }

/-- Widths of the fields of layout Y of `q.*`. -/
def LayQ.widths : List Nat := [3, 5, 24, 5, 7, 1, 1, 3]

/-- Fields of layout K from bit 0 upward: (value, width). -/
def LayK.fields (l : LayK) : List (Nat × Nat) :=
  [(0, 8), (l.done.val, 6), (l.den.toNat, 1), (l.rt.val, 5), (l.ro.val, 5), (l.acvt.toNat, 4), (l.ace.toNat, 1), (l.rd.val, 5), (l.db.val, 5), (l.da.val, 5), (0, 3), (l.array.val, 1)]

/-- Layout K from its field values in that order. -/
def LayK.ofFields (v : List Nat) : LayK :=
  { done := Fin.ofNat 64 (v.getD 1 0),
    den := decide (v.getD 2 0 = 1),
    rt := Fin.ofNat 32 (v.getD 3 0),
    ro := Fin.ofNat 32 (v.getD 4 0),
    acvt := BitVec.ofNat 4 (v.getD 5 0),
    ace := decide (v.getD 6 0 = 1),
    rd := Fin.ofNat 32 (v.getD 7 0),
    db := Fin.ofNat 32 (v.getD 8 0),
    da := Fin.ofNat 32 (v.getD 9 0),
    array := Fin.ofNat 2 (v.getD 11 0) }

/-- Widths of the fields of layout K. -/
def LayK.widths : List Nat := [8, 6, 1, 5, 5, 4, 1, 5, 5, 5, 3, 1]

/-! ### Instruction words -/

/-- What an instruction's words hold: class, opcode, predicate, the operand fields from bit 0 upward, and the extension word's fields (R335, R336). -/
structure Enc where
  cls : Nat
  op : Nat
  pred : Fin 8
  body : List (Nat × Nat)
  ext : Option (List (Nat × Nat))
deriving DecidableEq, Repr

/-- Position of a condition code behind the class base (ch. 12). -/
def CC.num : CC → Nat
  | .eq => 0 | .ne => 1 | .lt => 2 | .ge => 3 | .le => 4 | .gt => 5 | .ltu => 6 | .geu => 7 | .leu => 8 | .gtu => 9

/-- The condition code at a position. -/
def CC.ofNum (n : Nat) : Option CC := [CC.eq, .ne, .lt, .ge, .le, .gt, .ltu, .geu, .leu, .gtu][n]?

/-- The core and the predicate of a sequencer instruction, with its encoding by the class tables of chapter 12; none for every other command. -/
def Instr.enc (i : Instr) : Option Enc :=
  match i with
  | .nop _ p l => some ⟨0, 0, p, l.fields, none⟩
  | .jmp _ p l => some ⟨0, 1, p, l.fields, none⟩
  | .call _ p l => some ⟨0, 2, p, l.fields, none⟩
  | .ret _ p l => some ⟨0, 3, p, l.fields, none⟩
  | .loop _ p l => some ⟨0, 4, p, l.fields, none⟩
  | .halt _ p l => some ⟨0, 5, p, l.fields, none⟩
  | .trap _ p l => some ⟨0, 6, p, l.fields, none⟩
  | .fenceKSem _ p l => some ⟨0, 7, p, l.fields 0, none⟩
  | .fenceKDrain _ p l => some ⟨0, 7, p, l.fields 1, none⟩
  | .add _ p l => some ⟨1, 0, p, l.fields, none⟩
  | .sub _ p l => some ⟨1, 1, p, l.fields, none⟩
  | .mul _ p l => some ⟨1, 2, p, l.fields, none⟩
  | .and _ p l => some ⟨1, 3, p, l.fields, none⟩
  | .or _ p l => some ⟨1, 4, p, l.fields, none⟩
  | .xor _ p l => some ⟨1, 5, p, l.fields, none⟩
  | .shl _ p l => some ⟨1, 6, p, l.fields, none⟩
  | .shr _ p l => some ⟨1, 7, p, l.fields, none⟩
  | .sar _ p l => some ⟨1, 8, p, l.fields, none⟩
  | .min _ p l => some ⟨1, 9, p, l.fields, none⟩
  | .max _ p l => some ⟨1, 10, p, l.fields, none⟩
  | .sel _ p l => some ⟨1, 12, p, l.fields, none⟩
  | .st _ p l => some ⟨2, 1, p, l.fields, none⟩
  | .csrRd _ p l => some ⟨2, 2, p, l.fields, none⟩
  | .csrWr _ p l => some ⟨2, 3, p, l.fields, none⟩
  | .lgSet _ p l => some ⟨2, 8, p, l.fields, none⟩
  | .lgMod _ p l => some ⟨2, 9, p, l.fields, none⟩
  | .lgView _ p l => some ⟨2, 10, p, l.fields, none⟩
  | .strRate _ p l => some ⟨3, 8, p, l.fields, none⟩
  | .strResume _ p l => some ⟨3, 9, p, l.fields, none⟩
  | .strAbort _ p l => some ⟨3, 10, p, l.fields, none⟩
  | .arrCfg _ p l => some ⟨4, 0, p, l.fields, none⟩
  | .arrMm _ p l => some ⟨4, 1, p, l.fields, none⟩
  | .arrDrainPlain _ p l => some ⟨4, 2, p, l.fields 0, none⟩
  | .arrDrainExw _ p l => some ⟨4, 2, p, l.fields 1, none⟩
  | .arrDrainExwAdd _ p l => some ⟨4, 2, p, l.fields 2, none⟩
  | .arrSave _ p l => some ⟨4, 3, p, l.fields 0, none⟩
  | .arrLoad _ p l => some ⟨4, 4, p, l.fields 0, none⟩
  | .jctRoute _ p l => some ⟨5, 0, p, l.fields, none⟩
  | .jctDrain _ p l => some ⟨5, 4, p, l.fields 0, none⟩
  | .vAdd _ p l => some ⟨6, 0, p, l.fields, none⟩
  | .vMul _ p l => some ⟨6, 1, p, l.fields, none⟩
  | .vFma _ p l => some ⟨6, 2, p, l.fields, none⟩
  | .vMax _ p l => some ⟨6, 3, p, l.fields, none⟩
  | .vExp _ p l => some ⟨6, 4, p, l.fields, none⟩
  | .vRsqrt _ p l => some ⟨6, 5, p, l.fields, none⟩
  | .vCvt _ p l => some ⟨6, 6, p, l.fields, none⟩
  | .vReduce _ p l => some ⟨6, 7, p, l.fields, none⟩
  | .vNorm2 _ p l => some ⟨6, 8, p, l.fields, none⟩
  | .vLd _ p l => some ⟨6, 9, p, l.fields, none⟩
  | .vSt _ p l => some ⟨6, 10, p, l.fields, none⟩
  | .semAdd _ p l => some ⟨7, 0, p, l.fields, none⟩
  | .semSub _ p l => some ⟨7, 1, p, l.fields, none⟩
  | .semWait _ p l => some ⟨7, 2, p, l.fields, none⟩
  | .semTake _ p l => some ⟨7, 3, p, l.fields, none⟩
  | .semRead _ p l => some ⟨7, 4, p, l.fields, none⟩
  | .barArrive _ p l => some ⟨7, 8, p, l.fields, none⟩
  | .barWait _ p l => some ⟨7, 9, p, l.fields, none⟩
  | .dspTake _ p l => some ⟨7, 16, p, l.fields (2 * l.retire.toNat), none⟩
  | .dspSetLimit _ p l => some ⟨7, 17, p, l.fields 0, none⟩
  | .dspSetNext _ p l => some ⟨7, 17, p, l.fields 1, none⟩
  | .dspSetRetire _ p l => some ⟨7, 17, p, l.fields 2, none⟩
  | .qPush _ p l => some ⟨7, 24, p, l.fields, none⟩
  | .qPop _ p l => some ⟨7, 25, p, l.fields, none⟩
  | .sktPass _ p l => some ⟨8, 0, p, l.fields, none⟩
  | .sktSelect _ p l => some ⟨8, 1, p, l.fields, none⟩
  | .sktAudit _ p l => some ⟨8, 2, p, l.fields, none⟩
  | .br _ p cc l => some ⟨0, 16 + cc.num, p, l.fields, none⟩
  | .cmp _ p cc l => some ⟨1, 16 + cc.num, p, l.fields, none⟩
  | .li _ p l x => some ⟨1, 11, p, l.fields, x.map (fun w => [(w.toNat, 64)])⟩
  | .ld _ p l _ _ => some ⟨2, 0, p, l.fields, none⟩
  | .strLoad _ p l x => some ⟨3, 0, p, l.fields, x.map LayX.fields⟩
  | .strStore _ p l x => some ⟨3, 1, p, l.fields, x.map LayX.fields⟩
  | .strGather _ p l x => some ⟨3, 2, p, l.fields, x.map LayX.fields⟩
  | .strMcast _ p l x => some ⟨3, 3, p, l.fields, some x.fields⟩
  | .jctSpmm _ p l d => some ⟨5, 1, p, l.fields, some d.fields⟩
  | .jctSpdot _ p l d => some ⟨5, 2, p, l.fields, some d.fields⟩
  | .jctBag _ p l d => some ⟨5, 3, p, l.fields, some d.fields⟩
  | _ => none

/-- Fields packed from bit 0 upward. -/
def pack : List (Nat × Nat) → Nat
  | [] => 0
  | (v, k) :: r => v % 2 ^ k + 2 ^ k * pack r

/-- The field values of a number by their widths, from bit 0 upward. -/
def unpack : List Nat → Nat → List Nat
  | [], _ => []
  | k :: r, n => n % 2 ^ k :: unpack r (n / 2 ^ k)

/-- The first word: operand fields, NEXT, PRED, OP and CLASS (R335). -/
def Enc.word (e : Enc) : Word :=
  BitVec.ofNat 64 (pack (e.body ++ [(if e.ext.isSome then 1 else 0, 2), (e.pred.val, 3), (e.op, 6), (e.cls, 4)]))

/-- The words of an instruction: the first and its extension word. -/
def Enc.words (e : Enc) : Word × Option Word := (e.word, e.ext.map (fun f => BitVec.ofNat 64 (pack f)))

/-- The words of a sequencer instruction; none for every other command. -/
def Instr.words (i : Instr) : Option (Word × Option Word) := i.enc.map Enc.words

/-- The instruction that a class and an opcode name, with its fields read and none of them checked. -/
def readG1 (c : CoreId) (p : Fin 8) (cls op n : Nat) (x : Option Word) : Option Instr :=
  let layA := LayA.ofFields (unpack LayA.widths n)
  let layF := LayF.ofFields (unpack LayF.widths n)
  let layL := LayL.ofFields (unpack LayL.widths n)
  let layS := LayS.ofFields (unpack LayS.widths n)
  let layP := LayP.ofFields (unpack LayP.widths n)
  let layR := LayR.ofFields (unpack LayR.widths n)
  let layV := LayV.ofFields (unpack LayV.widths n)
  let layY := LayY.ofFields (unpack LayY.widths n)
  let layB := LayB.ofFields (unpack LayB.widths n)
  let layT := LayT.ofFields (unpack LayT.widths n)
  let layQ := LayQ.ofFields (unpack LayQ.widths n)
  let layK := LayK.ofFields (unpack LayK.widths n)
  let ex := x.map (fun w => LayX.ofFields (unpack LayX.widths w.toNat))
  let exd := x.map (fun w => LayD.ofFields (unpack LayD.widths w.toNat))
  match cls with
  | 0 =>
    match op with
    | 0 => some (.nop c p layA)
    | 1 => some (.jmp c p layA)
    | 2 => some (.call c p layA)
    | 3 => some (.ret c p layA)
    | 4 => some (.loop c p layA)
    | 5 => some (.halt c p layA)
    | 6 => some (.trap c p layA)
    | 7 => some (if (n / 2 ^ 41) % 2 = 0 then .fenceKSem c p layF else .fenceKDrain c p layF)
    | k => if 16 ≤ k then (CC.ofNum (k - 16)).map (fun cc => .br c p cc layA) else none
  | 1 =>
    match op with
    | 0 => some (.add c p layA)
    | 1 => some (.sub c p layA)
    | 2 => some (.mul c p layA)
    | 3 => some (.and c p layA)
    | 4 => some (.or c p layA)
    | 5 => some (.xor c p layA)
    | 6 => some (.shl c p layA)
    | 7 => some (.shr c p layA)
    | 8 => some (.sar c p layA)
    | 9 => some (.min c p layA)
    | 10 => some (.max c p layA)
    | 12 => some (.sel c p layA)
    | 11 => some (.li c p layA x)
    | k => if 16 ≤ k then (CC.ofNum (k - 16)).map (fun cc => .cmp c p cc layA) else none
  | 2 =>
    match op with
    | 1 => some (.st c p layL)
    | 2 => some (.csrRd c p layL)
    | 3 => some (.csrWr c p layL)
    | 8 => some (.lgSet c p (LaySet.ofFields (unpack LaySet.widths n)))
    | 9 => some (.lgMod c p (LayMod.ofFields (unpack LayMod.widths n)))
    | 10 => some (.lgView c p (LayView.ofFields (unpack LayView.widths n)))
    | 0 => some (.ld c p layL .failed 0)
    | _ => none
  | 3 =>
    match op with
    | 8 => some (.strRate c p layS)
    | 9 => some (.strResume c p layS)
    | 10 => some (.strAbort c p layS)
    | 0 => some (.strLoad c p layS ex)
    | 1 => some (.strStore c p layS ex)
    | 2 => some (.strGather c p layS ex)
    | 3 => ex.map (fun x => .strMcast c p layS x)
    | _ => none
  | 4 =>
    match op with
    | 0 => some (.arrCfg c p (LayC.ofFields (unpack LayC.widths n)))
    | 1 => some (.arrMm c p layP)
    | 2 => match n / 2 ^ 45 % 4 with
      | 0 => some (.arrDrainPlain c p layR)
      | 1 => some (.arrDrainExw c p layR)
      | 2 => some (.arrDrainExwAdd c p layR)
      | _ => none
    | 3 => some (.arrSave c p layR)
    | 4 => some (.arrLoad c p layR)
    | _ => none
  | 5 =>
    match op with
    | 0 => some (.jctRoute c p (LayJ.ofFields (unpack LayJ.widths n)))
    | 4 => some (.jctDrain c p layR)
    | 1 => exd.map (fun d => .jctSpmm c p layP d)
    | 2 => exd.map (fun d => .jctSpdot c p layP d)
    | 3 => exd.map (fun d => .jctBag c p layP d)
    | _ => none
  | 6 =>
    match op with
    | 0 => some (.vAdd c p layV)
    | 1 => some (.vMul c p layV)
    | 2 => some (.vFma c p layV)
    | 3 => some (.vMax c p layV)
    | 4 => some (.vExp c p layV)
    | 5 => some (.vRsqrt c p layV)
    | 6 => some (.vCvt c p layV)
    | 7 => some (.vReduce c p layV)
    | 8 => some (.vNorm2 c p layV)
    | 9 => some (.vLd c p layV)
    | 10 => some (.vSt c p layV)
    | _ => none
  | 7 =>
    match op with
    | 0 => some (.semAdd c p layY)
    | 1 => some (.semSub c p layY)
    | 2 => some (.semWait c p layY)
    | 3 => some (.semTake c p layY)
    | 4 => some (.semRead c p layY)
    | 8 => some (.barArrive c p layB)
    | 9 => some (.barWait c p layB)
    | 16 => some (.dspTake c p layT)
    | 17 => match n / 2 ^ 43 % 4 with
      | 0 => some (.dspSetLimit c p layT)
      | 1 => some (.dspSetNext c p layT)
      | 2 => some (.dspSetRetire c p { layT with retire := false })
      | _ => none
    | 24 => some (.qPush c p layQ)
    | 25 => some (.qPop c p layQ)
    | _ => none
  | 8 =>
    match op with
    | 0 => some (.sktPass c p layK)
    | 1 => some (.sktSelect c p layK)
    | 2 => some (.sktAudit c p layK)
    | _ => none
  | _ => none

/-! ### Reserved values (R337, R356) -/

/-- An enable and the fields that it governs: disabled, they are 0 (R337). -/
def enOk (en : Bool) (v : Nat) : Bool := en || decide (v = 0)

/-- The operand that IM does not select is 0 (R337). -/
def imOk (im : Bool) (reg imm : Nat) : Bool := if im then decide (reg = 0) else decide (imm = 0)

/-- An instruction of layout A without operands. -/
def LayA.none (l : LayA) : Bool := decide (l = ⟨false, 0, 0, 0, false, 0⟩)

/-- A jump: `ra` or IMM (R341). -/
def LayA.jump (l : LayA) : Bool := imOk l.im l.ra.val l.imm.toNat && decide (l.rd = 0 ∧ l.rb = 0 ∧ l.u = false)

/-- A two-operand ALU instruction; U only for `min` and `max` (R343). -/
def LayA.alu (l : LayA) (u : Bool) : Bool := imOk l.im l.rb.val l.imm.toNat && (u || !l.u)

/-- `ld` and `st` (R344). -/
def LayL.mem (l : LayL) : Bool := decide (l.space ≠ 3 ∧ (l.space = 1 → l.size = 3) ∧ ¬(l.sx ∧ l.size = 3))

/-- `csr.rd` and `csr.wr`: a CSR of R27. -/
def LayL.csr (l : LayL) : Bool := decide (l.imm.toNat < 8 ∧ l.size = 0 ∧ l.sx = false ∧ l.space = 0)

/-- Fields that no moving stream command but a gather uses. -/
def LayS.plain (l : LayS) : Bool := decide (l.idx = 0 ∧ l.idxq = false ∧ l.sstrict = false ∧ l.rcount = 0)

/-- Enables of a stream command. -/
def LayS.ens (l : LayS) : Bool := enOk l.den l.done.val && enOk l.een l.esem.val

/-- Word X of a command other than `str.mcast`. -/
def LayX.prog' (x : LayX) : Bool :=
  enOk x.pen x.prog.val && enOk x.pen x.pgran.toNat && decide (x.men = false ∧ x.msem = 0 ∧ x.gkind = false ∧ x.grp = 0)

/-- Only the slot, and `ra` for `str.rate` (R348). -/
def LayS.only (l : LayS) (ra : Bool) : Bool :=
  decide (l = ⟨l.slot, if ra then l.src else 0, 0, 0, false, false, false, false, 0, false, 0, false, 0⟩)

/-- The array formats of a class: codes 0 to 10 (R55, ch. 3). -/
def classOfCode (code : Nat) : Option Nat :=
  if code ≤ 1 then some 0 else if code ≤ 3 then some 1 else if code ≤ 5 then some 2 else if code ≤ 9 then some 0
  else if code = 10 then some 1 else none

/-- A conversion at the last buffer: a format of its class; 0 when disabled (R350). -/
def cvtOk (en : Bool) (code : BitVec 4) (cls : BitVec 2) : Bool :=
  if en then decide (classOfCode code.toNat = some cls.toNat) else decide (code = 0)

/-- The declarations that layout C and word D share (R350, R353). -/
def declOk (aclass bclass rmode exwMode : BitVec 2) (exact' : Bool) (rx : Fin 32) : Bool :=
  decide (aclass ≠ 3 ∧ bclass ≠ 3 ∧ rmode ≠ 3) && (exact' || decide (exwMode = 0 ∧ rx = 0))

/-- Layout P: output fields only with END, enables (ch. 12). -/
def LayP.ok (l : LayP) (jct bag : Bool) : Bool :=
  (l.fin || decide (l.dc = 0 ∧ l.ro = 0 ∧ l.rt = 0)) && enOk l.den l.done.val && enOk l.fen l.free.val &&
    (!jct || decide (l.array = 0 ∧ l.ctx = 0)) && (bag || !l.wgt)

/-- Word D: ACC 0 or 1, ROWSEM only for `jct.bag`. -/
def LayD.ok (d : LayD) (bag : Bool) : Bool :=
  decide (d.acc.toNat ≤ 1) && declOk d.aclass d.bclass d.rmode d.exwMode d.exact' d.rx && (bag || decide (d.rowsem = 0))

/-- Layout V: what a row leaves unused is 0; RMODE 3 is reserved (R354). `y`, `z` and `sc` say which of Y, Z and SCAL the row uses, `opt` its largest OPT. -/
def LayV.ok (l : LayV) (y z sc : Bool) (opt : Nat) : Bool :=
  decide (l.rmode ≠ 3) && (l.stw || decide (l.rw = 0)) && enOk l.den l.done.val && (y || decide (l.dy = 0)) && (z || decide (l.dz = 0)) &&
    (sc || !l.scal) && decide (l.opt.toNat ≤ opt)

/-- RMODE 2 alone reads a seed (layout V). -/
def LayV.seed (l : LayV) : Bool := decide (l.rmode = 2) || decide (l.rs = 0)

/-- Layout Y of `sem.*`: the core only with DIE; the operand that IM selects. -/
def LayY.base (l : LayY) : Bool := (l.die || decide (l.core = 0)) && imOk l.im l.ra.val l.imm.toNat

/-- Whether the field values of a sequencer instruction are all used or 0, and none is a reserved value (R337, R356); true for every other command. -/
def Instr.encOk (i : Instr) : Bool :=
  match i with
  | .nop _ _ l | .ret _ _ l | .halt _ _ l => l.none
  | .jmp _ _ l | .call _ _ l => l.jump
  | .loop _ _ l => (if l.im then decide (l.ra = 0) else decide (l.imm.toNat / 65536 = 0)) && decide (l.imm.toNat % 65536 ≠ 0) &&
      decide (l.rd = 0 ∧ l.rb = 0 ∧ l.u = false)
  | .trap _ _ l => decide (l.im = false ∧ l.rd = 0 ∧ l.rb = 0 ∧ l.u = false ∧ l.imm.toNat < 65536)
  | .br _ _ _ l => decide (l.im = false ∧ l.rd = 0 ∧ l.u = false)
  | .fenceKSem _ _ l => decide (l.mask ≠ 0)
  | .fenceKDrain _ _ l => decide (l.mask ≠ 0 ∧ l.sem = 0 ∧ l.ra = 0)
  | .add _ _ l | .sub _ _ l | .mul _ _ l | .and _ _ l | .or _ _ l | .xor _ _ l | .shl _ _ l | .shr _ _ l | .sar _ _ l => l.alu false
  | .min _ _ l | .max _ _ l => l.alu true
  | .li _ _ l x => decide (l.im = true ∧ l.ra = 0 ∧ l.rb = 0 ∧ l.u = false) && (x.isNone || decide (l.imm = 0))
  | .sel _ _ l => decide (l.im = false ∧ l.u = false ∧ l.imm.toNat % 2 ^ 29 = 0)
  | .cmp _ _ _ l => l.alu false && decide (l.rd.val < 8)
  | .ld _ _ l _ _ => l.mem
  | .st _ _ l => l.mem && !l.sx
  | .csrRd _ _ l => l.csr && decide (l.ra = 0)
  | .csrWr _ _ l => l.csr && decide (l.r = 0)
  | .lgSet _ _ l => !l.tbl || decide (l.ra = 0 ∧ l.imm.toNat < 4096)
  | .lgMod _ _ l => decide (l.field.toNat ≤ 23) && imOk l.im l.ra.val l.imm.toNat
  | .lgView _ _ _ => true
  | .strLoad _ _ l x => l.plain && l.ens && (match x with | some x => x.prog' && x.pen | none => true)
  | .strStore _ _ l x => l.plain && l.ens && (match x with | some x => x.prog' | none => true)
  | .strGather _ _ l x => l.ens && (if l.idxq then decide (l.idx.val < 8) else decide (l.sstrict = false ∧ l.rcount = 0)) &&
      (match x with | some x => x.prog' | none => true)
  | .strMcast _ _ l x => l.plain && l.ens && enOk x.pen x.prog.val && enOk x.pen x.pgran.toNat && enOk x.men x.msem.val &&
      (x.gkind || decide (x.grp.toNat < 32))
  | .strRate _ _ l => l.only true
  | .strResume _ _ l | .strAbort _ _ l => l.only false
  | .arrCfg _ _ l => declOk l.aclass l.bclass l.rmode l.exwMode l.exact' l.rx && cvtOk l.ace l.acvt l.aclass && cvtOk l.bce l.bcvt l.bclass &&
      (l.dual || decide (l.ctx = 0))
  | .arrMm _ _ l => l.ok false false
  | .arrDrainPlain _ _ l => enOk l.den l.done.val && decide (l.rs = 0 ∧ l.rd = 0)
  | .arrDrainExw _ _ l => enOk l.den l.done.val && decide (l.rd = 0)
  | .arrDrainExwAdd _ _ l => enOk l.den l.done.val && decide (l.ro = 0)
  | .arrSave _ _ l | .arrLoad _ _ l => enOk l.den l.done.val && decide (l.rs = 0 ∧ l.rd = 0 ∧ l.ro = 0 ∧ l.rt = 0)
  | .jctRoute _ _ l => decide (l.kind ≠ 3) && (l.tsrc || decide (l.rt = 0))
  | .jctSpmm _ _ l d | .jctSpdot _ _ l d => l.ok true false && d.ok false
  | .jctBag _ _ l d => l.ok true true && d.ok true
  | .jctDrain _ _ l => enOk l.den l.done.val && decide (l.array = 0 ∧ l.ctx = 0 ∧ l.rs = 0 ∧ l.rd = 0)
  | .vAdd _ _ l | .vMul _ _ l | .vMax _ _ l => l.ok true false true 0 && l.seed
  | .vFma _ _ l => l.ok true true true 0 && l.seed
  | .vExp _ _ l | .vRsqrt _ _ l | .vSt _ _ l => l.ok false false false 0 && l.seed
  | .vCvt _ _ l => l.ok false (decide (l.opt = 1)) false 1 && (if l.opt = 1 then decide (l.rmode = 0 ∧ l.ovf = false) else l.seed)
  | .vReduce _ _ l => l.ok false false false 2 && l.seed
  | .vNorm2 _ _ l => l.ok false false false 1 && l.seed
  | .vLd _ _ l => (l.stw || decide (l.rw = 0)) && enOk l.den l.done.val &&
      decide (l.dz = 0 ∧ l.scal = false ∧ l.rmode = 0 ∧ l.ovf = false ∧ l.rs = 0 ∧ l.opt = 0)
  | .semAdd _ _ l | .semSub _ _ l => l.base && decide (l.rto = 0 ∧ l.pd = 0 ∧ l.gd = 0)
  | .semWait _ _ l | .semTake _ _ l => l.base && decide (l.gd = 0)
  | .semRead _ _ l => (l.die || decide (l.core = 0)) && decide (l.im = false ∧ l.ra = 0 ∧ l.imm = 0 ∧ l.rto = 0 ∧ l.pd = 0)
  | .barArrive _ _ l => decide (l.rto = 0 ∧ l.pd = 0)
  | .barWait _ _ _ => true
  | .dspTake _ _ l => decide (l.ra = 0)
  | .dspSetLimit _ _ l | .dspSetNext _ _ l => decide (l.retire = false ∧ l.gd = 0)
  | .dspSetRetire _ _ l => decide (l.retire = false ∧ l.gd = 0 ∧ l.ra = 0)
  | .qPush _ _ l => decide (l.gd = 0)
  | .qPop _ _ l => decide (l.sop = false ∧ l.eop = false ∧ l.ra = 0)
  | .sktPass _ _ l => enOk l.den l.done.val && (if l.ace then decide (l.acvt.toNat ≤ 10) else decide (l.acvt = 0))
  | .sktSelect _ _ l => enOk l.den l.done.val && decide (l.array = 0 ∧ l.da = 0 ∧ l.db = 0 ∧ l.ace = false ∧ l.acvt = 0 ∧ l.ro = 0 ∧ l.rt = 0)
  | .sktAudit _ _ l => enOk l.den l.done.val && decide (l.array = 0 ∧ l.da = 0 ∧ l.db = 0 ∧ l.ace = false ∧ l.acvt = 0 ∧ l.ro = 0)
  | _ => true

/-- The pairings of accumulator format, product kind and classes that R95 and R350 allow; `dual` is DUAL of layout C. -/
def pairOk (acc : Nat) (kind : Bool) (aclass bclass : BitVec 2) (dual : Bool) : Bool :=
  (match acc with
   | 0 | 2 => true
   | 1 => !kind
   | _ => !kind && decide (aclass ≠ 0 ∧ bclass ≠ 0)) && !(dual && decide (acc ≤ 1))

/-- Whether the declarations of a command break no rule that the loader checks at step 13 of R43 (R350, R353); true for every other command. -/
def Instr.accOk (i : Instr) : Bool :=
  match i with
  | .arrCfg _ _ l => pairOk l.acc.toNat l.kind l.aclass l.bclass l.dual
  | .jctSpmm _ _ _ d | .jctSpdot _ _ _ d => pairOk d.acc.toNat d.kind d.aclass d.bclass false
  | .jctBag _ _ l d => pairOk d.acc.toNat d.kind d.aclass d.bclass false && (l.wgt || decide (d.aclass = d.bclass))
  | _ => true

/-! ### The decoder of program text -/

/-- NEXT of a first word (R335). -/
def nextOf (w : Word) : Nat := w.toNat / 2 ^ 49 % 4

/-- The instruction that a first word and the words after it spell (R336, R356); none for a reserved encoding. -/
def decodeG1 (c : CoreId) (w : Word) (after : Option Word) : Option Instr :=
  let x := if nextOf w = 1 then after else none
  let n := w.toNat
  match readG1 c (Fin.ofNat 8 (n / 2 ^ 51 % 8)) (n / 2 ^ 60) (n / 2 ^ 54 % 64) (n % 2 ^ 49) x with
  | some i => if i.words = some (w, x) ∧ i.encOk then some i else none
  | none => none

end Sys2Proof
end

