-- ==== Sys2Proof/Machine/GroupOps.lean ====
section
/-! DEFINITION. What the group firmware and the PKC share: completion entries, the mailbox and its work records, jobs and their steps (R416 to R422, R447 to R449). -/

namespace Sys2Proof.Machine

/-! ### Completion entries (R447, R448) -/

/-- Change a host function. -/
def State.modFn (s : State) (f : Fin 9) (g : HostFn → HostFn) : State := s.modPkg (fun p => { p with fns := vmod p.fns f g })

/-- Change the group state. -/
def State.modGrp (s : State) (g : Group → Group) : State := s.modPkg (fun p => { p with grp := g p.grp })

/-- A change of a multi-word register: SEQ advances by 2 (R527). -/
def State.bumpSeq (s : State) : State := s.modPkg (fun p => { p with regSeq := p.regSeq + 2 })

/-- FW_MEAS (R462). -/
def State.fwMeas (s : State) : List Byte := let m := s.pkg.sec.meas; sha384 (vget m 1 ++ vget m 2 ++ vget m 3)

/-- The benchmark digest of the task of the group's partition (R429), as a number whose most significant byte is byte 0; without such a task it stays. -/
def State.refreshDigest (s : State) : State :=
  match s.taskOf s.pkg.grp.part with
  | none => s
  | some t =>
    let d := sha256 (t.digest ++ t.mapDigest ++ Config.scaleDigest s.pkg.grp.jobs ++ [t.gen] ++ s.fwMeas)
    (s.modGrp (fun g => { g with digest := BitVec.ofNat 256 (ofBE d) })).bumpSeq

/-- Queue a completion entry of a function: entries are held in order until the ring takes them (R448). -/
def State.complete (s : State) (f : Fin 9) (e : CqEntry) : State := s.modFn f (fun x => { x with held := x.held ++ [e] })

/-- An entry with every field that its kind does not use at 0 (R447). -/
def CqEntry.blank (cid : BitVec 16) (kind : Byte) : CqEntry := ⟨cid, kind, false, false, 0, 0, 0, 0, 0, none⟩

/-- The completion of a command (R445). -/
def State.completeCmd (s : State) (f : Fin 9) (cid status : BitVec 16) (detail : BitVec 32 := 0) (task : BitVec 16 := 0) : State :=
  s.complete f { CqEntry.blank cid 0 with status := status, detail := detail, task := task }

/-- A group event in the PF's completion ring (R447): 1 member failed, 2 orphan, 3 survey inconsistent, 4 mailbox invalid. -/
def State.groupEvent (s : State) (code : BitVec 16) (part : BitVec 12) : State :=
  s.complete 0 { CqEntry.blank 0xFFFF 3 with status := code, detail := part.setWidth 32 }

/-! ### The mailbox (R417, R418) -/

/-- The die whose mailbox the firmware uses: logical die 0 of the task of the group's partition (R417). -/
def State.mailDie (s : State) : Option (Fin 8) := (s.taskOf s.pkg.grp.part).bind (fun t => t.dies.head?)

/-- Whether the mailbox of a die is valid (R418). -/
def State.mailValid (s : State) (d : Fin 8) : Bool :=
  let k := s.die d
  let size := fldN k.mbox0 48 4
  let base := fldN k.mbox0 0 48
  let c := coreOfPkg (fldN k.mbox1 0 7)
  let inN := match s.region base with
    | .tierN _ => s.inBounds s.pkg.grp.part base (2 ^ size * 64)
    | _ => false
  decide (4 ≤ size ∧ size ≤ 12) && decide (base % 4096 = 0) && inN && s.ownsDie s.pkg.grp.part c.die &&
    (match (s.core c).sect with
     | some x => decide (x.part = s.pkg.grp.part) && x.semMask.getLsbD (fldN k.mbox1 7 6)
     | none => false)

/-- Write one work record into the mailbox ring and post SEM (R419): false when the mailbox is absent, disabled or invalid; an invalid one sets MBERR and reports a group event (R418). -/
def State.mailRecord (s : State) (bs : List Byte) : State × Bool :=
  match s.mailDie with
  | none => (s, false)
  | some d =>
    let k := s.die d
    if !bit k.mbox1 13 then (s, false)
    else if !s.mailValid d then
      (if bit k.mbox1 14 then (s, false)
       else ((s.modDie d (fun k => { k with mbox1 := setBit k.mbox1 14 true })).groupEvent 4 s.pkg.partId, false))
    else
      let s := s.memWrite (fldN k.mbox0 0 48 + 64 * (k.sent.toNat % 2 ^ fldN k.mbox0 48 4)) bs
      let s := s.modDie d (fun k => { k with sent := k.sent + 1 })
      (s.semAdd (coreOfPkg (fldN k.mbox1 0 7)) (Fin.ofNat 64 (fldN k.mbox1 7 6)) 1, true)

/-- A work record of a kind that carries no work list (R419). -/
def markRecord (epoch : BitVec 32) (kind : Nat) (step : BitVec 32) : List Byte :=
  leBytes 4 epoch.toNat ++ leBytes 1 kind ++ leBytes 1 0 ++ leBytes 2 0xFFFF ++ leBytes 4 step.toNat ++ zeros 52

/-- The work record of a work list (R419). -/
def workRecord (w : WorkList) : List Byte :=
  leBytes 4 w.epoch.toNat ++ leBytes 1 0 ++ leBytes 1 0 ++ leBytes 2 w.slot.toNat ++ leBytes 4 w.step.toNat ++ leBytes 4 w.first.toNat ++
    leBytes 4 w.items.toNat ++ leBytes 2 w.mapId.toNat ++ leBytes 2 w.pr.toNat ++ leBytes 2 w.pc.toNat ++ leBytes 6 0 ++ (w.arg ++ zeros 32).take 32

/-- Write the held work lists in order while the mailbox takes them, at most `fuel` of them. -/
def State.mailFlush (s : State) : Nat → State
  | 0 => s
  | fuel + 1 =>
    match s.pkg.grp.heldWork with
    | [] => s
    | w :: rest =>
      match s.mailRecord (workRecord w) with
      | (s, true) => (s.modGrp (fun g => { g with heldWork := rest })).mailFlush fuel
      | (s, false) => s

/-- A count of discarded work lists and completions (GRP_STAT.STALE). -/
def State.stale (s : State) : State := s.modGrp (fun g => { g with stale := satAdd g.stale 1 })

/-- A part learns of a job by its first work list: the job's scale digest enters the part's benchmark digest (R429). -/
def State.jobSeen (s : State) (n : Nat) : State :=
  if n = s.pkg.grp.jobs then s else (s.modGrp (fun g => { g with jobs := n })).refreshDigest

/-- The group firmware receives a work list (R417 to R419, R428): it holds up to 64 that the mailbox cannot take yet. -/
def State.workReceive (s : State) (w : WorkList) : State :=
  if s.pkg.grp.st = .orphan then s
  else if w.epoch ≠ s.pkg.epoch then s.stale
  else
    let s := s.jobSeen w.job
    let s := s.modGrp (fun g => { g with heldWork := if g.heldWork.length < 64 then g.heldWork ++ [w] else g.heldWork })
    s.mailFlush 64

/-! ### Jobs (R416, R419 to R421, R449) -/

/-- The address of a slot's entry of the job descriptor in the step (R449). -/
def Job.entry (j : Job) (slot : Nat) : Nat := j.addr + 64 * (j.step * j.slots + slot)

/-- The work list of a slot in a step, as the job descriptor gives it and the lead fills it (R449). -/
def State.jobList (s : State) (j : Job) (slot : Nat) : WorkList :=
  let bs := s.mem.read (j.entry slot) 64
  let n (o k : Nat) : Nat := ofLE ((bs.drop o).take k)
  { epoch := s.pkg.epoch, slot := BitVec.ofNat 16 slot, step := BitVec.ofNat 32 j.step, first := BitVec.ofNat 32 (n 0x0C 4),
    items := BitVec.ofNat 32 (n 0x10 4), mapId := BitVec.ofNat 16 (n 0x14 2), pr := BitVec.ofNat 16 (n 0x16 2), pc := BitVec.ofNat 16 (n 0x18 2),
    arg := bs.drop 0x20, job := j.num }

/-- Send the work list of a slot to its part; the lead's own comes to its own firmware (R419). The entry is read through ECC.
DESIGN CHOICE (log 179): a poisoned entry, which may not leave as good data (R519), makes no work list. -/
def State.sendWork (s : State) (j : Job) (slot : Nat) : State :=
  let (s, e) := s.eccRead [(j.entry slot, 64)]
  if e.poison.isSome then s
  else
    let w := s.jobList j slot
    let dst := j.map.getD slot 0
    if dst = s.pkg.partId then s.workReceive w else s.sendGroup dst (.work w)

/-- Send every work list of the job's step whose completion has not been accepted (R427, R449). -/
def State.dispatchStep (s : State) : State :=
  match s.pkg.grp.job with
  | none => s
  | some j => ((List.range j.slots).filter (fun i => !j.accepted.contains i)).foldl (fun s i => s.sendWork j i) s

/-- The end of a step (STEP_DONE, R420, R449): the step-done record, the entry for the host, and the next step, once the mailbox has taken the record; until then the step stays. -/
def State.stepDone (s : State) (j : Job) : State :=
  match s.mailRecord (markRecord s.pkg.epoch 2 (BitVec.ofNat 32 j.step)) with
  | (s, false) => s
  | (s, true) =>
    let s := s.complete j.fn { CqEntry.blank 0xFFFF 2 with detail := BitVec.ofNat 32 j.step }
    if j.step + 1 < j.steps then
      (s.modGrp (fun g => { g with job := some { j with step := j.step + 1, accepted := [] } })).dispatchStep
    else s.modGrp (fun g => { g with job := none })

/-- A step whose record the mailbox has not taken yet is tried again (R418, R449). -/
def State.stepRetry (s : State) : State :=
  match s.pkg.grp.job with
  | some j => if j.slots ≠ 0 ∧ j.accepted.length = j.slots then s.stepDone j else s
  | none => s

/-- The lead processes a completion (R420, R421): one of another epoch is discarded and counted; one of another step or of no slot completes nothing. -/
def State.acceptDone (s : State) (epoch : BitVec 32) (slot : Nat) (step : BitVec 16) : State :=
  if epoch ≠ s.pkg.epoch then s.stale
  else
    match s.pkg.grp.job with
    | none => s
    | some j =>
      if step ≠ BitVec.ofNat 16 j.step ∨ slot ≥ j.slots ∨ j.accepted.contains slot then s
      else
        let j := { j with accepted := slot :: j.accepted }
        let s := s.modGrp (fun g => { g with job := some j })
        if j.accepted.length = j.slots then s.stepDone j else s

/-- A write to GRP_MBOX0 or GRP_MBOX1 (R417, R418): it clears MBERR, and a write to GRP_MBOX0 resets the record count. -/
def State.mailboxWrite (s : State) (d : Fin 8) (second : Bool) (v : Word) : State :=
  let s := s.modDie d (fun k =>
    if second then { k with mbox1 := (fld v 0 14).setWidth 64 }
    else { k with mbox0 := (fld v 0 52).setWidth 64, mbox1 := setBit k.mbox1 14 false, sent := 0 })
  (s.mailFlush 64).stepRetry

/-- The firmware takes one GRP_DONE entry (R420, R428); a group lead below a top lead without a job of its own reports to the top lead (R414). -/
def State.doneServe (s : State) (v : Word) : State :=
  let epoch : BitVec 32 := fld v 0 32
  if s.pkg.grp.st = .orphan ∨ epoch ≠ s.pkg.epoch then s
  else if s.pkg.grp.role = 2#2 ∧ !(s.pkg.grp.under s.pkg.partId && s.pkg.grp.job.isNone) then s.acceptDone epoch (fldN v 32 16) (fld v 48 16)
  else s.sendGroup (if s.pkg.grp.role = 2#2 then s.pkg.grp.topLead else s.pkg.grp.lead) (.done epoch (fld v 32 16) (fld v 48 16))

/-- A write to GRP_DONE (R420): the firmware of a worker or lead takes it at once; on a standalone part it stays in the register's 64 entries. -/
def State.grpDone (s : State) (d : Fin 8) (v : Word) : State :=
  if s.pkg.grp.role = 0 then s.modDie d (fun k => { k with done := k.done ++ [v] })
  else ((s.die d).done ++ [v]).foldl (fun s v => s.doneServe v) (s.modDie d (fun k => { k with done := [] }))

end Sys2Proof.Machine
end

