-- ==== Sys2Proof/Machine/RegOps.lean ====
section
/-! DEFINITION. The registers of a core block and of a die block: what a read returns and what a core's write does (R293, R302, R316 to R320, R328, R334, R523 to R535). -/

namespace Sys2Proof.Machine

/-! ### Capabilities (R51, R52, R530) -/

/-- CAP_ISA. -/
def capIsa : Word := 0x0101

/-- CAP_FEATURES as a function reads it: HOST_PRI is that function's (R51, R436, R530). -/
def State.capFeatures (s : State) (f : Fin 9) : Word :=
  let full := decide (s.pkg.level = 3#2)
  let x := s.fn f
  at' (s.pkg.tierF && full).toNat 0 ||| at' (s.pkg.railUp && full).toNat 1 ||| 0x27C ||| at' (x.ats && x.pri).toNat 7 |||
    at' (decide (s.pkg.grp.role ≠ 0)).toNat 8

/-- CAP_PART of the variant (R530). -/
def State.capPart (s : State) : Word :=
  let n := s.dieCount
  let v := s.pkg.fuses.variant.val
  at' n 0 ||| at' (16 * n) 4 ||| at' (2 * n) 12 ||| at' s.tfChannels 17 ||| at' s.portCount 22 |||
    at' (36 * 2 ^ v) 27 ||| at' v 35 ||| at' ([80, 145, 280].getD v 0) 37

/-! ### Core registers -/

/-- STATE of a slot (R293). -/
def SlotSt.code : SlotSt → Nat
  | .idle => 0 | .running => 1 | .paging => 2 | .stopped => 3 | .aborting => 4

/-- The registers of a slot at +0x00 to +0x20 (R293). -/
def Slot.reg (x : Slot) (o : Nat) : Word :=
  match o with
  | 0x00 => put x.st.code 0 3 ||| put x.cause.toNat 3 5 ||| put x.saved.length 8 9 ||| put x.out.length 17 10
  | 0x08 => put x.i0.toNat 0 20 ||| put x.i2.toNat 20 20 ||| put x.i3.toNat 40 20 ||| put x.array.toNat 60 3
  | 0x10 => put x.i1.toNat 0 32 ||| put x.i4.toNat 32 20
  | 0x18 => put x.bytes.toNat 0 48
  | 0x20 => put x.irange.toNat 0 32 ||| put x.first.toNat 32 32
  | _ => 0

/-- The registers of a queue at +0x00 to +0x10 (R302); the push port is write-only. -/
def HwQueue.reg (q : HwQueue) (o : Nat) : Word :=
  match o with
  | 0x08 => put q.cut.toNat 0 8 ||| put q.nsem.val 8 6 ||| put q.nen.toNat 14 1
  | 0x10 => put q.rd.toNat 0 9 ||| put q.wr.toNat 9 9 ||| put q.vis 18 9 ||| put q.opened.toNat 27 1 ||| put q.frame.toNat 28 1 |||
      put q.corr.toNat 32 16 ||| put q.badpush.toNat 48 16
  | _ => 0

/-- POOLSTATi and DPOOLSTATi; 0 without a context. -/
def poolStat (p : Option Pool) : Word :=
  match p with
  | some p => put p.free 0 32 ||| put p.waiting.toNat 32 16 ||| put p.overrel.toNat 48 16
  | none => 0

/-- CORE_STAT (R534). -/
def Core.stat (k : Core) : Word :=
  let ps := if k.resetting then 3 else match k.pstate with | .run => 0 | .gated => 1 | .collapsed => 2 | .reset => 3
  put ps 0 2 ||| (if ps = 0 then put k.step 2 6 else 0) |||
    (match k.sect with | some x => put 1 8 1 ||| put x.task.toNat 9 16 | none => 0)

/-- SBOX_STAT. -/
def Core.sboxStat (k : Core) : Word :=
  put k.badPost.toNat 0 16 ||| (match k.wait with
    | some w => put w.sem.val 16 6 ||| put w.core.val 22 4 ||| put w.kind.toNat 26 2
    | none => 0)

/-- BAR_STAT. -/
def Core.barStat (k : Core) : Word :=
  put ((fins 8).foldl (fun n i => n + (vget k.bars i).arr.toNat * 2 ^ i.val) 0) 0 8 |||
    put ((k.sect.map (fun x => x.barMask.toNat)).getD 0) 8 8

/-- FRING_STAT (R514). -/
def FRing.reg (f : FRing) : Word :=
  put f.first.toNat 0 16 ||| put f.count.toNat 16 16 ||| put f.suppressed.toNat 32 8 ||| put f.faulted.toNat 40 1 ||| put f.halted.toNat 41 1

/-- A register of a core block below 0x4000 (R534); an offset that no register occupies reads 0 (R525). -/
def Core.reg (k : Core) (o : Nat) : Word :=
  if o % 8 ≠ 0 then 0
  else if o = 0x0000 then k.stat
  else if o = 0x0008 then put k.flagsSum.toNat 0 13 ||| put k.tsrCount.toNat 32 32
  else if o = 0x0800 then k.routeCsr
  else if o = 0x0808 then k.routeB8
  else if o = 0x0810 then k.routeB16
  else if o = 0x0818 then k.routeBmp
  else if o = 0x0820 then k.routeDot
  else if 0x1000 ≤ o ∧ o < 0x1400 then (vgetN k.slots ((o - 0x1000) / 0x40) Slot.reset).reg (o % 0x40)
  else if 0x2000 ≤ o ∧ o < 0x2200 then (vgetN k.queues ((o - 0x2000) / 0x40) HwQueue.reset).reg (o % 0x40)
  else if 0x3200 ≤ o ∧ o < 0x3400 then (vgetN k.sems ((o - 0x3200) / 8) 0).setWidth 64
  else if o = 0x3400 then k.sboxStat
  else if o = 0x3408 then k.waitCfg
  else if o = 0x3410 then k.barStat
  else if 0x3440 ≤ o ∧ o < 0x3480 then
    let b := vgetN k.bars ((o - 0x3440) / 8) Bar.reset
    put b.gen.toNat 0 32 ||| put b.tgt.toNat 32 32
  else if 0x34A0 ≤ o ∧ o < 0x34C0 then poolStat (vgetN k.pools ((o - 0x34A0) / 8) none)
  else if o = 0x3800 then k.fring.reg
  else 0

/-! ### Die registers (R258, R517, R532) -/

/-- DSPn_CTL. -/
def Dispatch.ctl (x : Dispatch) : Word := put x.next.toNat 0 32 ||| put x.limit.toNat 32 32

/-- DSPn_STAT. -/
def Dispatch.stat (x : Dispatch) : Word :=
  put x.ptr.val 0 4 ||| put x.requeue.length 4 7 |||
    put ((fins 16).foldl (fun n i => n + (!(vget x.held i).isEmpty).toNat * 2 ^ i.val) 0) 16 16

/-- DIE_STAT. -/
def State.dieStat (s : State) (d : Fin 8) : Word :=
  let bits (p : PState) : Nat := (fins 16).foldl (fun n i => n + (decide ((s.core ⟨d, i⟩).pstate = p) && !(s.core ⟨d, i⟩).resetting).toNat * 2 ^ i.val) 0
  put d.val 0 3 ||| (match s.dieOwner d with
    | some n => put 1 3 1 ||| put n.val 4 3 ||| put (s.taskOf n).isSome.toNat 7 1
    | none => 0) ||| put (bits .gated) 8 16 ||| put (bits .collapsed) 24 16

/-- A die register at 0x4000 to 0x7FFF, as function `f` reads the mirrors (R532). -/
def State.dieReg (s : State) (f : Fin 9) (d : Fin 8) (o : Nat) : Word :=
  let k := s.die d
  if o % 8 ≠ 0 then 0
  else if 0x4000 ≤ o ∧ o < 0x4100 then
    let x := vgetN k.dsp ((o - 0x4000) / 0x10) Dispatch.reset
    if o % 0x10 = 0 then x.ctl else x.stat
  else if o = 0x4800 then s.dieStat d
  else if o = 0x4900 then capIsa
  else if o = 0x4908 then s.capFeatures f
  else if o = 0x4910 then s.capPart
  else if 0x6040 ≤ o ∧ o < 0x6080 then poolStat (vgetN k.pools ((o - 0x6040) / 8) none)
  else if 0x6100 ≤ o ∧ o < 0x6140 then
    let e := vgetN k.ecc ((o - 0x6100) / 8) EccUnit.reset
    put e.corr.toNat 0 32 ||| put e.unc.toNat 32 16 ||| put e.rate.toNat 48 16
  else if 0x6140 ≤ o ∧ o < 0x6180 then put (vgetN k.ecc ((o - 0x6140) / 8) EccUnit.reset).addr.toNat 0 48
  else if o = 0x6800 then k.mbox0
  else if o = 0x6808 then k.mbox1
  else 0

/-- Whether an offset of a core block is a write-only port, which acts at any time (R526). -/
def portReg (o : Nat) : Bool :=
  decide (0x2000 ≤ o ∧ o < 0x2200 ∧ o % 0x40 < 8) || decide (0x3000 ≤ o ∧ o < 0x3200) || decide (0x3480 ≤ o ∧ o < 0x34A0) ||
    decide (0x6000 ≤ o ∧ o < 0x6040) || decide (o = 0x6810)

/-- Whether an offset of a core block holds a field that the host writes while no task runs (R526). -/
def rwReg (o : Nat) : Bool :=
  decide (0x0800 ≤ o ∧ o < 0x0828) || decide (0x2000 ≤ o ∧ o < 0x2200 ∧ 8 ≤ o % 0x40 ∧ o % 0x40 < 0x18) || decide (0x3408 ≤ o ∧ o < 0x3410) ||
    decide (0x4000 ≤ o ∧ o < 0x4100 ∧ o % 0x10 < 8) || decide (0x6800 ≤ o ∧ o < 0x6810)

/-- Whether a register that the host only reads stands at an offset of a core block (R532, R534). -/
def roReg (o : Nat) : Bool :=
  decide (o < 0x10) || decide (0x1000 ≤ o ∧ o < 0x1400 ∧ o % 0x40 < 0x28) || decide (0x3200 ≤ o ∧ o < 0x3408) || decide (0x3410 ≤ o ∧ o < 0x3418) ||
    decide (0x3440 ≤ o ∧ o < 0x3480) || decide (0x34A0 ≤ o ∧ o < 0x34C0) || decide (0x3800 ≤ o ∧ o < 0x3808) ||
    decide (0x4000 ≤ o ∧ o < 0x4100) || decide (0x4800 ≤ o ∧ o < 0x4808) || decide (0x4900 ≤ o ∧ o < 0x4918) ||
    decide (0x6040 ≤ o ∧ o < 0x6080) || decide (0x6100 ≤ o ∧ o < 0x6180)

/-- Whether a register stands at an offset of a core block (R525, R532, R534). -/
def blockNamed (o : Nat) : Bool := portReg o || rwReg o || roReg o

/-- A read of an aligned word of a core block (R358, R525, R533): while the die resets its registers read all ones (R441), and an offset without one reads 0. -/
def State.blockRead (s : State) (f : Fin 9) (c : CoreId) (o : Nat) : Word :=
  if (s.die c.die).resetting then (if blockNamed o then BitVec.allOnes 64 else 0)
  else if o < 0x4000 then (s.core c).reg o
  else if o < 0x8000 then s.dieReg f c.die o
  else 0

/-! ### Pools (R326 to R328) -/

/-- Return bytes to a reservation: shared bytes first, then reserved ones; what exceeds the holding counts in OVERREL (R328). -/
def Pool.release (p : Pool) (v : Word) : Pool :=
  let bytes := fldN v 0 32
  let r := fldN v 32 4
  match p.resv[r]? with
  | none => { p with overrel := satAdd p.overrel 1 }
  | some x =>
    let a := min bytes x.hs
    let b := min (bytes - a) x.hr
    { p with
      free := p.free + a
      resv := p.resv.set r { x with hs := x.hs - a, hr := x.hr - b }
      overrel := if bytes > a + b then satAdd p.overrel 1 else p.overrel }

/-- A write to POOLRELi of a core (R328): a release that reaches a pool context is activity (R330). -/
def State.clmPoolRelease (s : State) (c : CoreId) (i : Nat) (v : Word) : State :=
  s.modCore c (fun k => { k with pools := vmodN k.pools i (fun p => p.map (fun p => p.release v)), moved := k.moved || decide ((k.pools.toList[i]?).join.isSome) })

/-- A write to DPOOLRELi of a die (R328). -/
def State.depotPoolRelease (s : State) (d : Fin 8) (i : Nat) (v : Word) : State :=
  s.modDie d (fun k => { k with pools := vmodN k.pools i (fun p => p.map (fun p => p.release v)) })

/-! ### Writes by a core -/

/-- A word written through a push port (R294, R296). -/
def portWord (v : Word) : Word := pushWord (fld v 0 56) (bit v 61) (bit v 62)

/-- A write to QCFGq (R302); CUT applies from the next packet that begins. -/
def HwQueue.cfg (q : HwQueue) (v : Word) : HwQueue := { q with cut := fld v 0 8, nsem := Fin.ofNat 64 (fldN v 8 6), nen := bit v 14 }

/-- A write of 8 bytes to a register of a core block below 0x4000 (R8, R534). -/
def State.coreRegWrite (s : State) (c : CoreId) (o : Nat) (v : Word) : State :=
  if o % 8 ≠ 0 then s
  else if o = 0x0800 then s.modCore c (fun k => { k with routeCsr := (fld v 0 48).setWidth 64 })
  else if o = 0x0808 then s.modCore c (fun k => { k with routeB8 := (fld v 0 48).setWidth 64 })
  else if o = 0x0810 then s.modCore c (fun k => { k with routeB16 := (fld v 0 48).setWidth 64 })
  else if o = 0x0818 then s.modCore c (fun k => { k with routeBmp := (fld v 0 48).setWidth 64 })
  else if o = 0x0820 then s.modCore c (fun k => { k with routeDot := (fld v 0 48).setWidth 64 })
  else if 0x2000 ≤ o ∧ o < 0x2200 then
    let q : Fin 8 := Fin.ofNat 8 ((o - 0x2000) / 0x40)
    match o % 0x40 with
    | 0x00 => s.queuePush c q (portWord v)
    | 0x08 => s.modQueue c q (fun x => x.cfg v)
    | 0x10 => s.modQueue c q (fun x => { x with frame := x.frame && !bit v 28 })
    | _ => s
  else if 0x3000 ≤ o ∧ o < 0x3200 then s.semPost c (Fin.ofNat 64 ((o - 0x3000) / 8)) v
  else if o = 0x3408 then s.modCore c (fun k => { k with waitCfg := (fld v 0 49).setWidth 64 })
  else if 0x3480 ≤ o ∧ o < 0x34A0 then s.clmPoolRelease c ((o - 0x3480) / 8) v
  else s

/-- A write of 8 bytes to a die register by a core (R532); DSPn_CTL is no such register. -/
def State.dieRegWrite (s : State) (d : Fin 8) (o : Nat) (v : Word) : State :=
  if o % 8 ≠ 0 then s
  else if 0x6000 ≤ o ∧ o < 0x6040 then s.depotPoolRelease d ((o - 0x6000) / 8) v
  else if o = 0x6800 then s.mailboxWrite d false v
  else if o = 0x6808 then s.mailboxWrite d true v
  else if o = 0x6810 then s.grpDone d v
  else s

/-- A write of 8 bytes to a core block: core registers below 0x4000, die registers below 0x8000 (R358). -/
def State.blockWrite (s : State) (c : CoreId) (o : Nat) (v : Word) : State :=
  if (s.die c.die).resetting then s
  else if o < 0x4000 then s.coreRegWrite c o v
  else if o < 0x8000 then s.dieRegWrite c.die o v
  else s

/-- A write to a core block that is narrower than 8 bytes: counted at the SEMPOST and QPUSH ports (R296, R316), performed nowhere (DESIGN CHOICE elsewhere, as R439 has it for the host). -/
def State.blockWriteNarrow (s : State) (c : CoreId) (o : Nat) : State :=
  if 0x3000 ≤ o ∧ o < 0x3200 then s.badPost c
  else if 0x2000 ≤ o ∧ o < 0x2200 ∧ o % 0x40 < 8 then
    s.modQueue c (Fin.ofNat 8 ((o - 0x2000) / 0x40)) (fun q => { q with badpush := satAdd q.badpush 1 })
  else s

/-- Whether a block offset is DSPn_CTL, which a core's `st` may not write (R532). -/
def isDspCtl (o : Nat) : Bool := decide (0x4000 ≤ o ∧ o < 0x4100) && decide (o % 0x10 < 8)

/-- Whether a block offset is a SEMPOST port or a release register, whose store waits for earlier stores (R318, R328). -/
def isPostPort (o : Nat) : Bool :=
  decide (0x3000 ≤ o ∧ o < 0x3200) || decide (0x3480 ≤ o ∧ o < 0x34A0) || decide (0x6000 ≤ o ∧ o < 0x6040)

end Sys2Proof.Machine
end

