-- ==== Sys2Proof/Machine/Issue.lean ====
section
/-! DEFINITION. The issue of an instruction: when the sequencer issues, stalls or skips, and what it enqueues (R18 to R24, R335 to R340). -/

namespace Sys2Proof.Machine

/-- The outcome type of every meaning. -/
abbrev Res := Host.Outcome State Fault Refusal

/-- Words that an instruction occupies (R336). -/
def iwords (i : Instr) : Nat :=
  match i.words with
  | some (_, some _) => 2
  | _ => 1

/-- General registers that an instruction reads or writes; a field that the row does not use names `g0` (R337). -/
def gregs (i : Instr) : List (Fin 32) :=
  match i with
  | .jmp _ _ l | .call _ _ l | .loop _ _ l | .trap _ _ l => [l.ra]
  | .br _ _ _ l | .cmp _ _ _ l => [l.ra, l.rb]
  | .add _ _ l | .sub _ _ l | .mul _ _ l | .and _ _ l | .or _ _ l | .xor _ _ l | .shl _ _ l | .shr _ _ l | .sar _ _ l | .min _ _ l | .max _ _ l
  | .sel _ _ l => [l.rd, l.ra, l.rb]
  | .li _ _ l _ => [l.rd]
  | .fenceKSem _ _ l => [l.ra]
  | .ld _ _ l _ _ | .st _ _ l | .csrRd _ _ l | .csrWr _ _ l => [l.r, l.ra]
  | .lgSet _ _ l => [l.ra]
  | .lgMod _ _ l => [l.ra]
  | .lgView _ _ l => [l.ra, l.rb, l.rc]
  | .strGather _ _ l _ => [l.rcount]
  | .strRate _ _ l => [l.src]
  | .arrCfg _ _ l => [l.rx, l.re]
  | .arrMm _ _ l => [l.rk, l.ro, l.rt]
  | .arrDrainPlain _ _ l | .arrDrainExw _ _ l | .arrDrainExwAdd _ _ l | .jctDrain _ _ l => [l.ro, l.rt, l.rs, l.rd]
  | .arrSave _ _ l | .arrLoad _ _ l => [l.d]
  | .jctRoute _ _ l => [l.rt, l.gc]
  | .jctSpmm _ _ l d | .jctSpdot _ _ l d | .jctBag _ _ l d => [l.rk, l.ro, l.rt, d.rx] ++ if l.start then [d.re] else []
  | .vAdd _ _ l | .vMul _ _ l | .vFma _ _ l | .vMax _ _ l | .vExp _ _ l | .vRsqrt _ _ l | .vReduce _ _ l | .vNorm2 _ _ l =>
      [l.rs, l.rw, if l.scal then l.dy else 0]
  | .vCvt _ _ l => [l.rs, l.rw, if l.opt = 1 then l.dz else 0]
  | .vLd _ _ l => [l.dd, l.dy, l.rw]
  | .vSt _ _ l => [l.rs, l.rw, l.dx]
  | .semAdd _ _ l | .semSub _ _ l | .semWait _ _ l | .semTake _ _ l | .semRead _ _ l => [l.ra, l.rto, l.gd]
  | .barWait _ _ l => [l.rto]
  | .dspTake _ _ l | .dspSetLimit _ _ l | .dspSetNext _ _ l => [l.ra, l.gd]
  | .qPush _ _ l | .qPop _ _ l => [l.ra, l.gd]
  | .sktPass _ _ l | .sktSelect _ _ l | .sktAudit _ _ l => [l.rd, l.ro, l.rt]
  | _ => []

/-- Predicates that an instruction reads or writes besides the one that governs it. -/
def pregs (i : Instr) : List (Fin 8) :=
  match i with
  | .sel _ _ l => [Fin.ofNat 8 (fldN l.imm 29 3)]
  | .cmp _ _ _ l => [Fin.ofNat 8 l.rd.val]
  | .jctRoute _ _ l => [l.pd]
  | .semWait _ _ l | .semTake _ _ l => [l.pd]
  | .barWait _ _ l => [l.pd]
  | _ => []

/-- Whether the extension word holds no reserved value (R348, R353). -/
def extOk (i : Instr) : Bool :=
  match i with
  | .strLoad _ _ _ (some x) | .strStore _ _ _ (some x) | .strGather _ _ _ (some x) => x.prog'
  | .jctSpmm _ _ _ d | .jctSpdot _ _ _ d => d.ok false
  | .jctBag _ _ _ d => d.ok true
  | _ => true

/-- Bits [31:0] of the offending word of a reserved encoding (R340). -/
def badWord (i : Instr) : BitVec 32 :=
  match i.words with
  | some (w, x) => if extOk i then w.setWidth 32 else (x.getD w).setWidth 32
  | none => 0

/-! ### Pending registers (R339) -/

/-- The register that a command of the signal-box queue will write. -/
def SynCmd.dst : SynCmd → Option (Fin 32)
  | .semRead _ _ gd => some gd
  | .dspTake _ _ gd => some gd
  | .qPop _ gd => some gd
  | _ => none

/-- The command of a queue entry. -/
def QItem.cmd? {α : Type} : QItem α → Option α
  | .cmd _ _ x => some x
  | .fence _ _ => none

/-- The register that a vector command will write. -/
def VecCmd.dst (v : VecCmd) : Option (Fin 32) := if v.op = .ld then some v.gd else none

/-- The predicate and the register that a route step will write. -/
def JctCmd.dst : JctCmd → Option (Fin 8 × Fin 32)
  | .route l _ _ _ => some (l.pd, l.gc)
  | _ => none

/-- General registers whose value an engine or a remote part still owes (R339, R344). -/
def State.pendingG (s : State) (c : CoreId) : List (Fin 32) :=
  let k := s.core c
  let fromVec := (k.qVec.filterMap QItem.cmd?) ++ (k.vec.map (fun v => v.2.2)).toList
  let fromLd := s.pkg.pends.filterMap (fun p => match p.who with
    | .ld d rd _ _ _ => if d = c then some rd else none
    | _ => none)
  k.results.map Result.rd ++ (k.qSyn.filterMap QItem.cmd?).filterMap SynCmd.dst ++ fromVec.filterMap VecCmd.dst ++
    ((k.qJx.filterMap QItem.cmd?).filterMap JctCmd.dst).map Prod.snd ++ k.jx.routes.map (fun r => r.2.2.1) ++ fromLd

/-- Predicates that a route step still owes (R339). -/
def State.pendingP (s : State) (c : CoreId) : List (Fin 8) :=
  let k := s.core c
  ((k.qJx.filterMap QItem.cmd?).filterMap JctCmd.dst).map Prod.fst ++ k.jx.routes.map (fun r => r.2.1)

/-! ### Issue -/

/-- Whether the sequencer of a core issues: it runs, nothing holds it and its clock runs (R20, R47, R307, R333). -/
def Core.ready (k : Core) : Bool :=
  decide (k.run = .running ∧ k.wait = none ∧ k.stalled = none ∧ k.pstate = .run) && !k.resetting

/-- The sequencer stalls on an instruction (R20, R339). -/
def State.stallOn (s : State) (c : CoreId) (i : Instr) : State := s.modCore c (fun k => { k with stalled := some i })

/-- Whether an instruction names a register or a predicate whose value is still owed (R339). -/
def State.owed (s : State) (c : CoreId) (i : Instr) : Bool :=
  (gregs i).any (fun r => decide (r ≠ 0) && (s.pendingG c).contains r) || (pregs i).any (fun r => decide (r ≠ 0) && (s.pendingP c).contains r)

/-- The issue of an instruction at the PC of its core (R18 to R21, R339, R340, R356): `may` says whether nothing but the instruction itself is in its way, and `f` is its effect with the advance of the PC. -/
def State.issue (s : State) (i : Instr) (c : CoreId) (p : Fin 8) (may : State → Bool) (f : State → State) : Res :=
  if !s.hasDie c.die then .next s
  else if !(s.core c).ready then .next s
  else
    let n := iwords i
    let pc := (s.core c).pc
    let (s, e) := s.eccRead [(clmAddr c + pc.toNat, 8 * n)]
    match e.poison with
    | some a => .next (s.uncFault c 0x0802 pc 0 a)
    | none =>
      if p ≠ 0 ∧ (s.pendingP c).contains p then .next (s.stallOn c i)
      else if !(s.core c).getP p then .next (s.advance c n)
      else if !(i.encOk && i.accOk) then .next (s.illegal c .encoding pc (badWord i))
      else if s.owed c i then .next (s.stallOn c i)
      else if !may s then .next (s.stallOn c i)
      else .next (f s)

/-- Nothing stands in the way of the instruction. -/
def always (_s : State) : Bool := true

/-- A semaphore operand under its enable (R337). -/
def semOpt (en : Bool) (n : Fin 64) : SemOpt := if en then some n else none

/-- Take an issue number. -/
def State.takeSeq (s : State) (c : CoreId) : Nat × State := ((s.core c).seq, s.modCore c (fun k => { k with seq := k.seq + 1 }))

/-- A text offset for records and queue entries. -/
def State.pcOf (s : State) (c : CoreId) : BitVec 32 := (s.core c).pc

/-- A queue with a command at its end. -/
def enq {α : Type} (q : List (QItem α)) (seq : Nat) (pc : BitVec 32) (x : α) : List (QItem α) := q ++ [.cmd seq pc x]

/-- Put a command into the queue of a grid array and go on (R20). -/
def State.enqGa (s : State) (c : CoreId) (a : Fin 2) (x : ArrCmd) : State :=
  let (n, s) := s.takeSeq c
  s.modCore c (fun k => { k with qGa := vmod k.qGa a (fun q => enq q n k.pc x) })

/-- Put a command into the junction engine's queue. -/
def State.enqJx (s : State) (c : CoreId) (x : JctCmd) : State :=
  let (n, s) := s.takeSeq c
  s.modCore c (fun k => { k with qJx := enq k.qJx n k.pc x })

/-- Put a command into the vector unit's queue. -/
def State.enqVec (s : State) (c : CoreId) (x : VecCmd) : State :=
  let (n, s) := s.takeSeq c
  s.modCore c (fun k => { k with qVec := enq k.qVec n k.pc x })

/-- Put a command into the sketch sequencing queue. -/
def State.enqSkt (s : State) (c : CoreId) (x : SktCmd) : State :=
  let (n, s) := s.takeSeq c
  s.modCore c (fun k => { k with qSkt := enq k.qSkt n k.pc x })

/-- Put a command into the signal-box, queue and dispatch command queue. -/
def State.enqSyn (s : State) (c : CoreId) (x : SynCmd) : State :=
  let (n, s) := s.takeSeq c
  s.modCore c (fun k => { k with qSyn := enq k.qSyn n k.pc x })

/-- Put a command into the stream engine's queue. -/
def State.enqStr (s : State) (c : CoreId) (x : StrCmd) : State :=
  let (n, s) := s.takeSeq c
  s.modCore c (fun k => { k with qStr := enq k.qStr n k.pc x })

/-- Depths of the command queues (R20), in the order of the fence mask. -/
def queueDepth : Engine → Nat
  | .str => 32 | .ga0 => 8 | .ga1 => 8 | .jx => 8 | .vec => 16 | .skt => 4 | .syn => 8

/-- Entries in the queue of an engine. -/
def Core.queued (k : Core) : Engine → Nat
  | .str => k.qStr.length | .ga0 => (vget k.qGa 0).length | .ga1 => (vget k.qGa 1).length | .jx => k.qJx.length
  | .vec => k.qVec.length | .skt => k.qSkt.length | .syn => k.qSyn.length

/-- Whether the queue of an engine has room (R20). -/
def State.room (s : State) (c : CoreId) (e : Engine) : Bool := decide ((s.core c).queued e < queueDepth e)

/-- The engine of a grid array. -/
def gaEngine (a : Fin 2) : Engine := if a = 0 then .ga0 else .ga1

/-- Bytes of the text region of a core: the text rounded up to 4,096 bytes (R42). -/
def State.textRegion (s : State) (c : CoreId) : Nat := alignUp (s.core c).textLen 4096

/-- The Rail-loss fault of a `ld` or `st` (R395, R512, R513). -/
def State.railLoss (s : State) (c : CoreId) (pc : BitVec 32) (part : BitVec 12) (link : Option (Fin 72)) (a : Nat) : State :=
  s.coreFault c ⟨0x0901, pc, 0, a, leBytes 2 part.toNat ++ leBytes 1 ((link.map Fin.val).getD 0xFF)⟩

end Sys2Proof.Machine
end

