-- ==== Sys2Proof/Machine/ArrayCmd.lean ====
section
/-! DEFINITION. The instructions of the grid arrays with their checks at issue, and the events of an array (R96, R107, R125 to R158, R170, R180, R349 to R352, R558). -/

namespace Sys2Proof.Machine

/-! ### Checks at issue -/

/-- A configuration as the sequencer knows it when it issues: dual-context mode and the declarations of each context. -/
abbrev CfgView := Bool × Option LayC × Option LayC

/-- What an `arr.cfg` makes of it (R349). -/
def cfgStep (v : CfgView) (l : LayC) : CfgView :=
  let (dual, c0, c1) := v
  let keep0 : Option LayC := c0.filter (fun q => decide (q.acc = 2#2 ∨ q.acc = 3#2))
  let (c0, c1) := if l.dual = dual then (c0, c1) else if l.dual then (if l.ctx = 0 then (c0, none) else (keep0, none)) else (c0, none)
  if l.ctx = 0 then (l.dual, some l, c1) else (l.dual, c0, some l)

/-- The declarations of a context behind the commands that wait in an array's queue. -/
def Core.cfgAt (k : Core) (a x : Fin 2) : Option LayC :=
  let g := vget k.ga a
  let v0 : CfgView := (g.dual, (vget g.ctx 0).cfg.map CtxCfg.l, (vget g.ctx 1).cfg.map CtxCfg.l)
  let (_, c0, c1) := (vget k.qGa a).foldl (fun v q => match q with
    | .cmd _ _ (.cfg l _ _) => cfgStep v l
    | _ => v) v0
  if x = 0 then c0 else c1

/-- A register number as a detail word. -/
def regWord (r : Fin 32) : BitVec 32 := BitVec.ofNat 32 r.val

/-- The first failed check of a list: a cause with its detail word. -/
def firstBad (cs : List (Bool × Ill × BitVec 32)) : Option (Ill × BitVec 32) := (cs.find? (fun c => c.1)).map Prod.snd

/-- The class code of layout C. -/
def Cls.code : Cls → BitVec 2
  | .c8 => 0 | .c4 => 1 | .c2 => 2 | .wide => 3

/-- The format in which an operand enters an array: the conversion target of a BF16 operand (R71). -/
def arrFmt (v : View) (en : Bool) (code : BitVec 4) : Fmt := (cvtOf v en code).getD v.fmt

/-- Whether a format may be the target of a conversion under OVF (R74). -/
def ovfOk (ovf : Bool) (f : Fmt) : Bool := !ovf || decide (f = .e5m2 ∨ f = .fp16)

/-- Whether every array of a view that the legend fixes lies in the core's CLM (R144, R558). -/
def viewInClm (c : CoreId) (v : View) : Bool := rangesInClm c v.fixedRanges

/-- Whether an output view has the shape of a tile of `m × n` (R144). -/
def outShape (c : CoreId) (o : View) (m n : Nat) : Bool :=
  decide (Leg.sparse o.prim = 0 ∧ Leg.nmpat o.prim = 0 ∧ !Leg.trn o.prim ∧ Leg.ndim o.prim ≤ 2 ∧ Leg.ext0 o.prim = n ∧ o.rows = m) && viewInClm c o

/-- The checks of an `arr.mm` at issue: legends (R35), forms and formats (R67, R71, R170), shapes (R144, R558), the declarations of its context (R96, R350). -/
def mmBad (c : CoreId) (cfg : Option LayC) (fin : Bool) (a b o : View) : Option (Ill × BitVec 32) :=
  let q := cfg.getD ⟨0, 0, false, 0, false, 0, 0, false, 0, 0, false, 0, 0, false, 0, false, 0⟩
  let ra := regWord a.reg
  let rb := regWord b.reg
  let fa := arrFmt a q.ace q.acvt
  let fb := arrFmt b q.bce q.bcvt
  let isInt := fa.isInt && fb.isInt
  let scaled (v : View) (en : Bool) (code : BitVec 4) : Bool := decide (Leg.scale v.prim ≠ 0) || (cvtOf v en code).isSome
  let noScale := decide (q.acc = 1#2 ∨ q.acc = 3#2)
  match firstInvalid ([a, b] ++ if fin then [o] else []) with
  | some r => some (.legend, regWord r)
  | none => firstBad
    [(decide (Leg.sparse a.prim = 6 ∨ fa.cls = .wide), .format, ra), (decide (Leg.sparse b.prim = 6 ∨ fb.cls = .wide), .format, rb),
      (decide (Leg.scale a.prim ≠ 0 ∧ Leg.scale b.prim ≠ 0 ∧ a.blk ≠ b.blk), .format, rb),
      (!(decide (Leg.ndim a.prim ≤ 2 ∧ a.lanes ≤ 128) && viewInClm c a), .shape, ra),
      (!(decide (Leg.ndim b.prim ≤ 2 ∧ b.lanes ≤ 128 ∧ b.kExt = a.kExt) && viewInClm c b), .shape, rb),
      (fin && !outShape c o a.lanes b.lanes, .shape, regWord o.reg),
      (cfg.isSome && decide (q.aclass ≠ fa.cls.code), .format, ra), (cfg.isSome && decide (q.bclass ≠ fb.cls.code), .format, rb),
      (cfg.isSome && decide (q.kind = isInt), .format, if q.kind then ra else if fa.isInt then rb else ra),
      (cfg.isSome && noScale && scaled a q.ace q.acvt, .format, ra), (cfg.isSome && noScale && scaled b q.bce q.bcvt, .format, rb),
      (cfg.isSome && fin && !ovfOk q.ovf o.fmt, .format, regWord o.reg)]

/-- Bytes of one tile's ExW region (R107). -/
def exwTileBytes : Nat := 786432

/-- Whether an ExW region does not fit the section's (R107).
DESIGN CHOICE (log 172): an offset that is no multiple of 64 is refused with the same cause. -/
def State.exwBad (s : State) (c : CoreId) (off : BitVec 32) : Bool :=
  decide (off.toNat % 64 ≠ 0 ∨ ((s.core c).sect.map (fun x => x.exwLen)).getD 0 < off.toNat + exwTileBytes)

/-- Put a checked command of an array into its queue, or raise the cause that its checks found. -/
def State.gaPut (s : State) (c : CoreId) (a : Fin 2) (bad : Option (Ill × BitVec 32)) (x : ArrCmd) : State :=
  match bad with
  | some (cause, detail) => s.illegal c cause (s.pcOf c) detail
  | none => (s.enqGa c a x).advance c 1

/-- Bits [31:0] of a general register. -/
def Core.lowG (k : Core) (r : Fin 32) : BitVec 32 := fld (k.getG r) 0 32

/-! ### Instructions -/

/-- `arr.cfg` (R96, R107, R349, R350). -/
def execArrCfg (c : CoreId) (p : Fin 8) (l : LayC) (s : State) : Res :=
  s.issue (.arrCfg c p l) c p (fun s => s.room c (gaEngine l.array)) (fun s =>
    let k := s.core c
    s.gaPut c l.array (firstBad [(l.exact' && s.exwBad c (k.lowG l.rx), .exw, k.lowG l.rx)]) (.cfg l (k.lowG l.rx) (k.lowG l.re)))

/-- The operands of an `arr.mm` or a junction tile command as captured at issue. -/
def Core.mmOf (k : Core) (l : LayP) : MmCmd :=
  ⟨l.start, l.fin, k.view l.da, k.view l.db, k.view l.dc, k.getG l.rk, k.getG l.ro, k.getG l.rt, semOpt l.den l.done, semOpt l.fen l.free⟩

/-- `arr.mm` (R125, R144). -/
def execArrMm (c : CoreId) (p : Fin 8) (l : LayP) (s : State) : Res :=
  s.issue (.arrMm c p l) c p (fun s => s.room c (gaEngine l.array)) (fun s =>
    let k := s.core c
    let m := k.mmOf l
    s.gaPut c l.array (mmBad c (k.cfgAt l.array l.ctx) l.fin m.a m.b m.o) (.mm l.ctx m))

/-- The checks of a drain of an array at issue: the output legend, its shape, and the target of the conversion (R74, R155, R352). -/
def drainBad (c : CoreId) (cfg : Option LayC) (o : View) : Option (Ill × BitVec 32) :=
  match firstInvalid [o] with
  | some r => some (.legend, regWord r)
  | none => firstBad
    [(!(outShape c o o.rows (Leg.ext0 o.prim) && decide (o.rows ≤ 128 ∧ Leg.ext0 o.prim ≤ 128)), .shape, regWord o.reg),
      (!ovfOk ((cfg.map LayC.ovf).getD false) o.fmt, .format, regWord o.reg)]

/-- `arr.drain`, plain form (R155). -/
def execArrDrainPlain (c : CoreId) (p : Fin 8) (l : LayR) (s : State) : Res :=
  s.issue (.arrDrainPlain c p l) c p (fun s => s.room c (gaEngine l.array)) (fun s =>
    let k := s.core c
    let o := k.view l.d
    s.gaPut c l.array (drainBad c (k.cfgAt l.array l.ctx) o) (.drain l.ctx o (k.getG l.ro) (k.getG l.rt) (semOpt l.den l.done)))

/-- `arr.drain`, ExW form (R110, R352). -/
def execArrDrainExw (c : CoreId) (p : Fin 8) (l : LayR) (s : State) : Res :=
  s.issue (.arrDrainExw c p l) c p (fun s => s.room c (gaEngine l.array)) (fun s =>
    let k := s.core c
    let o := k.view l.d
    let bad := (drainBad c (k.cfgAt l.array l.ctx) o).orElse (fun _ => firstBad [(s.exwBad c (k.lowG l.rs), .exw, k.lowG l.rs)])
    s.gaPut c l.array bad (.drainExw l.ctx o (k.lowG l.rs) (k.getG l.ro) (k.getG l.rt) (semOpt l.den l.done)))

/-- The checks of the ExW-add form at issue: the legend gives the extents, and the regions fit and do not overlap in part (R107, R352). -/
def State.addBad (s : State) (c : CoreId) (o : View) (src dst : BitVec 32) : Option (Ill × BitVec 32) :=
  let apart := decide (src = dst) || decide (src.toNat + exwTileBytes ≤ dst.toNat) || decide (dst.toNat + exwTileBytes ≤ src.toNat)
  match firstInvalid [o] with
  | some r => some (.legend, regWord r)
  | none => firstBad
    [(!decide (Leg.ndim o.prim ≤ 2 ∧ o.rows ≤ 128 ∧ Leg.ext0 o.prim ≤ 128), .shape, regWord o.reg), (s.exwBad c src, .exw, src),
      (s.exwBad c dst, .exw, dst), (!apart, .exw, dst)]

/-- `arr.drain`, ExW-add form (R110, R352). -/
def execArrDrainExwAdd (c : CoreId) (p : Fin 8) (l : LayR) (s : State) : Res :=
  s.issue (.arrDrainExwAdd c p l) c p (fun s => s.room c (gaEngine l.array)) (fun s =>
    let k := s.core c
    let o := k.view l.d
    s.gaPut c l.array (s.addBad c o (k.lowG l.rs) (k.lowG l.rd)) (.drainAdd l.ctx o (k.lowG l.rs) (k.lowG l.rd) (k.getG l.rt) (semOpt l.den l.done)))

/-- The check of a save record's place: a multiple of 64, inside the CLM (R156). The spec names no cause; DESIGN CHOICE: SHAPE with the register's number. -/
def recordBad (cfg : Option LayC) (off : BitVec 32) (r : Fin 32) : Option (Ill × BitVec 32) :=
  let n := saveLen (Acc.ofCode ((cfg.map (fun q => q.acc.toNat)).getD 2))
  firstBad [(decide (off.toNat % 64 ≠ 0 ∨ clmSize < off.toNat + n), .shape, regWord r)]

/-- `arr.save` (R156, R157). -/
def execArrSave (c : CoreId) (p : Fin 8) (l : LayR) (s : State) : Res :=
  s.issue (.arrSave c p l) c p (fun s => s.room c (gaEngine l.array)) (fun s =>
    let k := s.core c
    s.gaPut c l.array (recordBad (k.cfgAt l.array l.ctx) (k.lowG l.d) l.d) (.save l.ctx (k.lowG l.d) (semOpt l.den l.done)))

/-- `arr.load` (R158). -/
def execArrLoad (c : CoreId) (p : Fin 8) (l : LayR) (s : State) : Res :=
  s.issue (.arrLoad c p l) c p (fun s => s.room c (gaEngine l.array)) (fun s =>
    let k := s.core c
    s.gaPut c l.array (recordBad (k.cfgAt l.array l.ctx) (k.lowG l.d) l.d) (.load l.ctx (k.lowG l.d) (semOpt l.den l.done)))

/-! ### Events -/

/-- The feeders have read the last operand byte of the oldest `arr.mm` of the context that still owes its FREE (R127). -/
def execArrFreePost (c : CoreId) (a : ArrPath) (s : State) : Res :=
  if !s.hasDie c.die then .next s
  else
    match (s.arr c a.arr).frees.find? (fun f => decide (f.1 = a.ctx)) with
    | none => .next s
    | some f => .next ((s.modArr c a.arr (fun g => { g with frees := g.frees.erase f })).post c f.2.2)

/-- Whether a drain job adds into an ExW region. -/
def DrainJob.addsExw (j : DrainJob) : Bool :=
  decide (j.kind = .chunk ∨ j.kind = .exwAdd) || (decide (j.kind = .final) && j.info.exact')

/-- Whether the next job may go to the drain unit: the shadow bank of its context is free and no ExW addition of the array runs; an ExW form uses no bank and waits for the drain unit (R102, R129, R131). -/
def mayDrain (jobs : List DrainJob) (j : DrainJob) : Bool :=
  if j.ended then jobs.all (fun q => decide (q.ctx ≠ j.ctx) && !q.addsExw) else jobs.isEmpty

/-- Whether a job's pass or chunk has ended and its bank may become the shadow bank. -/
def GridArray.switchable (g : GridArray) (j : DrainJob) : Bool := decide (j.left = 0) && mayDrain g.jobs j

/-- Block boundaries until a bank may switch or no pass or chunk is left to end, at most `fuel` of them; at the first ones the contexts of `dry` are not ready (R138). -/
def GridArray.feed : Nat → List (BitVec 2) → GridArray → GridArray
  | 0, _, g => g
  | fuel + 1, dry, g =>
    if g.todo.any g.switchable || g.todo.all (fun j => decide (j.left = 0)) then g else GridArray.feed fuel (dry.drop 1) (g.boundary (dry.headD 0))

/-- The array after its feeders have issued blocks until a bank may switch. -/
def GridArray.fed (g : GridArray) (dry : List (BitVec 2)) : GridArray :=
  g.feed ((g.todo.map DrainJob.left).sum + vget g.owed 0 + vget g.owed 1 + dry.length) dry

/-- The feeders issue blocks, the contexts in turn, until a pass or a chunk has ended and its bank becomes the shadow bank (R129, R138). -/
def execArrBankSwitch (c : CoreId) (a : ArrBlocks) (s : State) : Res :=
  if !s.hasDie c.die then .next s
  else .next (s.modArr c a.arr (fun g =>
    let g := g.fed a.dry
    match g.todo.find? g.switchable with
    | none => g
    | some j => { g with todo := g.todo.erase j, jobs := g.jobs ++ [j] }))

/-- The array that an engine code names. -/
def arrOf (e : Engine) : Option (Fin 2) :=
  match e with
  | .ga0 => some 0 | .ga1 => some 1 | _ => none

/-- The drain unit has added the chunk at its head into ExW (R102, R109); `jx` names the junction engine's drain unit. -/
def execExwChunkAddComplete (c : CoreId) (e : Engine) (s : State) : Res :=
  if !s.hasDie c.die then .next s
  else
    match arrOf e with
    | some a =>
      (match (s.arr c a).jobs with
       | j :: rest => if j.kind = .chunk then .next ((s.modArr c a (fun g => { g with jobs := rest })).drain c a.val j).1 else .next s
       | [] => .next s)
    | none =>
      if e = .jx then
        match (s.core c).jx.jobs with
        | j :: rest =>
          if j.kind = .chunk then .next ((s.modCore c (fun k => { k with jx := { k.jx with jobs := rest } })).drain c 2 j).1 else .next s
        | [] => .next s
      else .next s

/-- The bank at the head of the drain unit, or the ExW form there, has drained: output, TSR, then DONE (R127, R155). -/
def execArrDrainComplete (c : CoreId) (a : Fin 2) (s : State) : Res :=
  if !s.hasDie c.die then .next s
  else
    match (s.arr c a).jobs with
    | j :: rest =>
      if j.kind = .chunk then .next s
      else
        match (s.modArr c a (fun g => { g with jobs := rest })).drain c a.val j with
        | (s, true) => .next (s.post c j.done)
        | (s, false) => .next s
    | [] => .next s

/-- The saved bank has been shifted out: the record is in CLM, and DONE is posted (R156). -/
def execArrSaveComplete (c : CoreId) (a : Fin 2) (s : State) : Res :=
  if !s.hasDie c.die then .next s
  else
    match (s.arr c a).saving with
    | some r => .next (((s.modArr c a (fun g => { g with saving := none })).memWrite (clmAddr c + r.off) r.bytes).post c r.done)
    | none => .next s

/-- The record of one code at a fault point (R512, R513). -/
def FaultPt.frec (f : FaultPt) (eng : Nat) (r : BitVec 16 × BitVec 32) : FRec :=
  ⟨r.1, f.pc, r.2, 0, if r.1 = 0x020A then [] else leBytes 1 eng ++ leBytes 7 0 ++ leBytes 8 f.tag.toNat⟩

/-- A fault point is reached: every code of its cycle is recorded and the core faults (R180, R514). -/
def State.faultPoint (s : State) (c : CoreId) (eng : Nat) (f : FaultPt) : State := s.coreFaults c (f.recs.map (f.frec eng)) f.suppressed

/-- The fault point that an engine has reached, once the chunks that ended before it have been handed on, with the engine's number. -/
def State.faultOf (s : State) (c : CoreId) (e : Engine) : Option (Nat × FaultPt) :=
  match arrOf e with
  | some a => let g := s.arr c a; g.fault.bind (fun f => if g.todo.all (fun j => decide (j.ctx ≠ f.ctx)) then some (a.val, f) else none)
  | none => let j := (s.core c).jx; if e = .jx ∧ j.todo.isEmpty then j.fault.map (fun f => (2, f)) else none

/-- A strict violation, or a read outside the CLM, reaches its fault point (R180, R558). -/
def execStrictViolationFault (c : CoreId) (e : Engine) (s : State) : Res :=
  if !s.hasDie c.die then .next s
  else
    match s.faultOf c e with
    | some (n, f) => if f.recs.any (fun r => decide (r.1 ≠ 0x0400)) then .next (s.faultPoint c n f) else .next s
    | none => .next s

/-- A repeated metadata index reaches its fault point (R181). -/
def execMetaErr (c : CoreId) (e : Engine) (s : State) : Res :=
  if !s.hasDie c.die then .next s
  else
    match s.faultOf c e with
    | some (n, f) => if f.recs.any (fun r => decide (r.1 = 0x0400)) then .next (s.faultPoint c n f) else .next s
    | none => .next s

end Sys2Proof.Machine
end

