-- ==== Sys2Proof/Machine/Junction.lean ====
section
/-! DEFINITION. The junction engine: the route step, the junction commands with their checks at issue, windows, segments and recombination, and its drain (R184 to R210, R353). -/

namespace Sys2Proof.Machine

/-- Change the junction engine of a core. -/
def State.modJx (s : State) (c : CoreId) (f : Junction → Junction) : State := s.modCore c (fun k => { k with jx := f k.jx })

/-- Put a checked command of the junction engine into its queue, or raise the cause that its checks found. -/
def State.jxPut (s : State) (c : CoreId) (i : Instr) (bad : Option (Ill × BitVec 32)) (x : JctCmd) : State :=
  match bad with
  | some (cause, detail) => s.illegal c cause (s.pcOf c) detail
  | none => (s.enqJx c x).advance c (iwords i)

/-! ### The route step (R186 to R190) -/

/-- Whether `spdot` may name a form (R188). -/
def dotForm (v : View) : Bool := decide (Leg.sparse v.prim = 0 ∨ Leg.sparse v.prim = 1 ∨ Leg.sparse v.prim = 5)

/-- The legend whose form the table of R188 does not list, if any. The spec names no register for the detail word; DESIGN CHOICE: the first legend unless only the second is at fault. -/
def routeForm (kind : BitVec 2) (a b : View) : Option (Fin 32) :=
  if kind = 2#2 then (if Leg.sparse a.prim = 6 then none else some a.reg)
  else if kind = 0#2 then (if Leg.sparse a.prim = 6 then some a.reg else none)
  else if !dotForm a then some a.reg
  else if !dotForm b then some b.reg
  else none

/-- Whether the route unit reads memory for a form (R187). -/
def routeReads (v : View) : Bool := !decide (Leg.sparse v.prim = 0 ∨ Leg.sparse v.prim = 5)

/-- Whether the SPARSE field holds a reserved form (R29): R188 gives such a legend the ROUTE cause, before the validity that R34 asks of every other field. -/
def routeRsv (v : View) : Bool := decide (6 < Leg.sparse v.prim)

/-- The checks of `jct.route` at issue (R35, R185, R188). -/
def routeBad (c : CoreId) (kind : BitVec 2) (a b : View) : Option (Ill × BitVec 32) :=
  match [a, b].find? routeRsv with
  | some v => some (.route, regWord v.reg)
  | none =>
  match firstInvalid [a, b] with
  | some r => some (.legend, regWord r)
  | none =>
    match routeForm kind a b with
    | some r => some (.route, regWord r)
    | none => firstBad
      [(routeReads a && !viewInClm c a, .shape, regWord a.reg),
        (decide (kind = 1#2) && routeReads b && !viewInClm c b, .shape, regWord b.reg)]

/-- The count of R161 and R187. -/
def State.routeCount (s : State) (v : View) : Nat :=
  let ent := s.ptrAt v v.rows - s.ptrAt v 0
  match Leg.sparse v.prim with
  | 0 => if Leg.nmpat v.prim = 0 then Leg.ext0 v.prim * v.rows else (nmOf (Leg.nmpat v.prim)).1 * v.groups * v.rows
  | 5 => (nmOf (Leg.nmpat v.prim)).1 * v.groups * v.rows
  | 4 => s.bmpCount v
  | 6 => ent
  | _ => ent * v.vblk

/-- The bytes that the count reads (R187). -/
def routeRanges (v : View) : List (Int × Nat) :=
  if !routeReads v then []
  else if Leg.sparse v.prim = 4 then [(v.aux0Addr, v.rows * v.bmpRow)]
  else [(v.aux0Addr, v.ptrB), (v.aux0Addr + (v.rows * v.ptrB : Nat), v.ptrB)]

/-- Position of the rate class in a threshold register (R189): the wider class of the two formats (R71). A wide format has no class there. -/
def rateField (a b : Fmt) : Option Nat :=
  if a.cls = .wide ∨ b.cls = .wide then none
  else if a.cls = .c8 ∨ b.cls = .c8 then some 0
  else if a.cls = .c4 ∨ b.cls = .c4 then some 16
  else some 32

/-- The threshold register of a form and an operation (R189). -/
def Core.routeReg (k : Core) (kind : BitVec 2) (v : View) : Word :=
  if kind = 1#2 then k.routeDot
  else match Leg.sparse v.prim with
    | 1 => k.routeCsr | 2 => k.routeB8 | 3 => k.routeB16 | _ => k.routeBmp

/-- The test of R188. -/
def routeTest (count thr : Nat) (v : View) : Bool := decide (65536 * count ≤ thr * Leg.ext0 v.prim * v.rows)

/-- The decision of R188 from the counts of the legends and the threshold. -/
def routeDecide (kind : BitVec 2) (a b : View) (na nb thr : Nat) : Bool :=
  let sparse := !decide (Leg.sparse a.prim = 0 ∨ Leg.sparse a.prim = 5)
  if kind = 2#2 then true
  else if kind = 0#2 then sparse && routeTest na thr a
  else decide (Leg.sparse a.prim = 1 ∧ Leg.sparse b.prim = 1) && routeTest na thr a && routeTest nb thr b

/-- `jct.route` begins: the route unit reads its counts and decides; a class that the registers do not hold gives a free threshold. -/
def State.beginRoute (s : State) (c : CoreId) (seq : Nat) (pc : BitVec 32) (l : LayJ) (a b : View) (thr : BitVec 16) : State :=
  let (s, e) := s.eccRead (natRanges (routeRanges a ++ if l.kind = 1#2 then routeRanges b else []))
  match e.poison with
  | some p => s.uncEngine c 2 pc p
  | none =>
    let na := s.routeCount a
    let nb := if l.kind = 1#2 then s.routeCount b else 0
    let (t, s) : Nat × State :=
      if l.tsrc then (thr.toNat, s)
      else match rateField a.fmt b.fmt with
        | some f => (fldN ((s.core c).routeReg l.kind a) f 16, s)
        | none => let (n, s) := s.spend; (fldN (Config.freeWord n) 0 16, s)
    s.modJx c (fun j => { j with routes := j.routes ++ [(seq, l.pd, l.gc, routeDecide l.kind a b na nb t, BitVec.ofNat 64 na)] })

/-- `jct.route` (R186, R190). -/
def execJctRoute (c : CoreId) (p : Fin 8) (l : LayJ) (s : State) : Res :=
  s.issue (.jctRoute c p l) c p (fun s => s.room c .jx) (fun s =>
    let k := s.core c
    let a := k.view l.ds
    let b := k.view l.d2
    s.jxPut c (.jctRoute c p l) (routeBad c l.kind a b) (.route l a b (fld (k.getG l.rt) 0 16)))

/-! ### Checks of the tile commands at issue -/

/-- The declarations that the checks of a tile command use, in the order LEGEND, forms and formats, shapes, declarations, ExW (R35, R67, R71, R96, R107, R144, R170, R185, R193 to R195, R353). -/
def State.jmBad (s : State) (c : CoreId) (op : JOp) (weighted : Bool) (d : LayD) (exwOff : BitVec 32) (fin : Bool) (a b o : View) : Option (Ill × BitVec 32) :=
  let ra := regWord a.reg
  let rb := regWord b.reg
  let bag := decide (op = .bag)
  let useA := !bag || weighted
  let fa := if useA then a.fmt else b.fmt
  let sa := Leg.sparse a.prim
  let sb := Leg.sparse b.prim
  let no (v : View) (isBagList : Bool) : Bool :=
    decide (Leg.nmpat v.prim ≠ 0 ∨ Leg.sparse v.prim = 5) || (decide (Leg.sparse v.prim = 6) && !isBagList)
  let csr1 (v : View) : Bool := decide (Leg.sparse v.prim = 1 ∧ Leg.ndim v.prim ≤ 2 ∧ v.rows ≤ 128)
  let shapeA : Bool := match op with
    | .spmm => decide ((sa = 1 ∨ sa = 2 ∨ sa = 3 ∨ sa = 4) ∧ Leg.ndim a.prim ≤ 2 ∧ a.rows ≤ 128)
    | .spdot => csr1 a
    | .bag => decide (sa = 6 ∧ Leg.scale a.prim = 0 ∧ Leg.ndim a.prim ≤ 2 ∧ a.rows ≤ 128)
  let shapeB : Bool := match op with
    | .spmm => decide (sb = 0 ∧ Leg.trn b.prim ∧ Leg.ndim b.prim ≤ 2 ∧ Leg.ext0 b.prim ≤ 128 ∧ b.rows = Leg.ext0 a.prim)
    | .spdot => csr1 b && decide (Leg.ext0 a.prim = Leg.ext0 b.prim)
    | .bag => decide (sb = 0 ∧ !Leg.trn b.prim ∧ Leg.ndim b.prim ≤ 2 ∧ Leg.ext0 b.prim ≤ 128)
  let cols := if op = .spdot then b.rows else Leg.ext0 b.prim
  let isInt := fa.isInt && b.fmt.isInt
  match firstInvalid ([a, b] ++ if fin then [o] else []) with
  | some r => some (.legend, regWord r)
  | none => firstBad
    [(no a bag, .format, ra), (no b false, .format, rb),
      (decide (a.fmt.cls = .wide), .format, ra), (decide (b.fmt.cls = .wide), .format, rb),
      (!bag && decide (Leg.scale a.prim ≠ 0 ∧ Leg.scale b.prim ≠ 0 ∧ a.blk ≠ b.blk), .format, rb),
      (!(shapeA && viewInClm c a), .shape, ra), (!(shapeB && viewInClm c b), .shape, rb),
      (fin && !outShape c o a.rows cols, .shape, regWord o.reg),
      (decide (d.aclass ≠ fa.cls.code), .format, if useA then ra else rb), (decide (d.bclass ≠ b.fmt.cls.code), .format, rb),
      (decide (d.kind = isInt), .format, if !useA then rb else if d.kind then ra else if fa.isInt then rb else ra),
      (decide (d.acc = 1#2) && decide (Leg.scale a.prim ≠ 0), .format, ra), (decide (d.acc = 1#2) && decide (Leg.scale b.prim ≠ 0), .format, rb),
      (fin && !ovfOk d.ovf o.fmt, .format, regWord o.reg),
      (d.exact' && s.exwBad c exwOff, .exw, exwOff)]

/-- The issue of a tile command. -/
def State.issueJm (s : State) (i : Instr) (c : CoreId) (p : Fin 8) (op : JOp) (l : LayP) (d : LayD) : Res :=
  s.issue i c p (fun s => s.room c .jx) (fun s =>
    let k := s.core c
    let m := k.mmOf l
    s.jxPut c i (s.jmBad c op l.wgt d (k.lowG d.rx) l.fin m.a m.b m.o) (.mm op m d (k.lowG d.rx) (k.lowG d.re) l.wgt))

/-- `jct.spmm` (R193). -/
def execJctSpmm (c : CoreId) (p : Fin 8) (l : LayP) (d : LayD) (s : State) : Res := s.issueJm (.jctSpmm c p l d) c p .spmm l d

/-- `jct.spdot` (R194). -/
def execJctSpdot (c : CoreId) (p : Fin 8) (l : LayP) (d : LayD) (s : State) : Res := s.issueJm (.jctSpdot c p l d) c p .spdot l d

/-- `jct.bag` (R195). -/
def execJctBag (c : CoreId) (p : Fin 8) (l : LayP) (d : LayD) (s : State) : Res := s.issueJm (.jctBag c p l d) c p .bag l d

/-- OVF of the tile that a `jct.drain` will end, behind the commands that wait in the queue; 0 where they leave no tile in progress (R192, R353). -/
def Core.jctOvf (k : Core) : Bool :=
  let ended := k.jx.bag.any (fun r => r.m.fin)
  k.qJx.foldl (fun v q => match q with
    | .cmd _ _ (.mm _ m d _ _ _) => !m.fin && d.ovf
    | .cmd _ _ (.drain _ _ _ _) => false
    | _ => v) (!ended && (k.jx.tile.map (fun t => t.2.d.ovf)).getD false)

/-- `jct.drain` (R192, R353). -/
def execJctDrain (c : CoreId) (p : Fin 8) (l : LayR) (s : State) : Res :=
  s.issue (.jctDrain c p l) c p (fun s => s.room c .jx) (fun s =>
    let k := s.core c
    let o := k.view l.d
    let bad : Option (Ill × BitVec 32) :=
      match firstInvalid [o] with
      | some r => some (.legend, regWord r)
      | none => firstBad
        [(!(outShape c o o.rows (Leg.ext0 o.prim) && decide (o.rows ≤ 128 ∧ Leg.ext0 o.prim ≤ 128)), .shape, regWord o.reg),
          (!ovfOk k.jctOvf o.fmt, .format, regWord o.reg)]
    s.jxPut c (.jctDrain c p l) bad (.drain o (k.getG l.ro) (k.getG l.rt) (semOpt l.den l.done)))

/-! ### Windows and segments (R198, R199, R203 to R206) -/

/-- K positions of a window (R198). -/
def windowOf (a b : Fmt) : Nat := if a.cls = .c8 ∨ b.cls = .c8 then 256 else if a.cls = .c4 ∨ b.cls = .c4 then 512 else 1024

/-- The windows of a command of `nb` blocks from KBASE on, `per` blocks to a window: the command's blocks in each. -/
def windowsOf (per kbase nb : Nat) : List (List Nat) :=
  if nb = 0 then []
  else
    let w0 := kbase / per
    (List.range ((kbase + nb - 1) / per - w0 + 1)).map (fun i =>
      let lo := max ((w0 + i) * per) kbase - kbase
      let hi := min ((w0 + i + 1) * per) (kbase + nb) - kbase
      (List.range (hi - lo)).map (fun t => lo + t))

/-- Stored entries of a row in a block. -/
def OpRow.entries (r : OpRow) (blk i : Nat) : Nat := ((r.els.drop (i * blk)).take blk).countP Option.isSome

/-- The segments of a row in a window: whole blocks that hold entries, at most 64 entries each (R199). -/
def segmentsOf (r : OpRow) (blk : Nat) (bs : List Nat) : List (List Nat) :=
  let (done, cur, _) := bs.foldl (fun (acc : List (List Nat) × List Nat × Nat) i =>
    let (done, cur, n) := acc
    let k := r.entries blk i
    if k = 0 then acc
    else if !cur.isEmpty && decide (64 < n + k) then (done ++ [cur], [i], k)
    else (done, cur ++ [i], n + k)) ([], [], 0)
  if cur.isEmpty then done else done ++ [cur]

/-- One merge of the recombine stage (R205). -/
def mergeCell (acc : Acc) (bank seg : Cell) : Cell := if acc = .cf32 then cf32Merge bank seg else i48Merge bank seg

/-- Whether a scale byte of the blocks makes element (m, n) NaN (R204). -/
def nanScale (as bs : List OpRow) (blks : List Nat) (m n : Nat) : Bool :=
  let hit (r : Option OpRow) : Bool := match r with
    | some r => blks.any (fun i => decide (r.scales.getD i 0x7F = 0xFF))
    | none => false
  hit as[m]? || hit bs[n]?

/-- One element over one window: its segments, each summed on a lane and then merged, and the NaN of a scale (R203 to R205). -/
def windowCell (acc : Acc) (as bs : List OpRow) (blk : Nat) (blks : List Nat) (segs : List (List Nat)) (m n : Nat) (c : Cell) : Cell :=
  let c := segs.foldl (fun c sg => mergeCell acc c (sg.foldl (fun x i => accAdd acc x (partAt as bs blk i m n)) Cell.zero)) c
  if nanScale as bs blks m n then { c with w0 := f32Of .rne .nan, w1 := 0 } else c

/-- One window into a tile; BOUND counts every block of the K range (R206). -/
def runWindow (as bs : List OpRow) (blk kbase : Nat) (blks : List Nat) (t : Tile) : Tile :=
  let segs := as.map (fun r => segmentsOf r blk blks)
  let cells := (raster t.m t.n).zip t.cells |>.map (fun p =>
    if p.1.1 < as.length ∧ p.1.2 < bs.length then windowCell t.info.acc as bs blk blks (segs.getD p.1.1 []) p.1.1 p.1.2 p.2 else p.2)
  { (t.count blks.length) with cells := cells, knext := kbase + blks.foldl max 0 + 1 }

/-- The windows of a command into a tile, ending chunks at global boundaries (R99, R206); `last` is the tile's last block. -/
def runWindows (as bs : List OpRow) (blk kbase : Nat) (last : Option Nat) : List (List Nat) → Tile → List Chunk → Tile × List Chunk
  | [], t, cs => (t, cs)
  | w :: ws, t, cs =>
    let t := runWindow as bs blk kbase w t
    let i := w.foldl max 0
    if t.info.exact' && decide ((kbase + i) % 4096 = 4095) && decide (last ≠ some i) then
      let (t, ch) := t.cut (i + 1)
      runWindows as bs blk kbase last ws t (cs ++ [ch])
    else runWindows as bs blk kbase last ws t cs

/-! ### Commands at the engine -/

/-- SEQUENCE of the junction engine (R340). -/
def State.jxSeq (s : State) (c : CoreId) (pc : BitVec 32) : State := s.illegal c .sequence pc 4

/-- The epilogue descriptor that a start form reads, and whether the read corrected an error (R149, R192, R509); none after a fault. -/
def State.jctEpi (s : State) (c : CoreId) (pc desc : BitVec 32) : State × Option (List Byte × Bool) :=
  if desc.toNat % 64 ≠ 0 ∨ desc.toNat + 64 > clmSize then (s.illegal c .epilogue pc desc, none)
  else
    let (s, e) := s.eccRead [(clmAddr c + desc.toNat, 64)]
    match e.poison with
    | some p => (s.uncEngine c 2 pc p, none)
    | none =>
      let bs := s.mem.read (clmAddr c + desc.toNat) 64
      if epiOk bs then (s, some (bs, e.corrected)) else (s.illegal c .epilogue pc desc, none)

/-- What a junction tile carries from its declarations. -/
def jctInfo (d : LayD) (exwOff : BitVec 32) (epi : List Byte) : TileInfo :=
  { acc := Acc.ofCode d.acc.toNat, exact' := d.exact', exwMode := d.exwMode, exwOff := exwOff.toNat, rmode := d.rmode.toNat,
    ovf := d.ovf, epi := epi, dual := false, m := 0, n := 0, flags := 0, viol := 0, vpos := 0, conv := 0 }

/-- Bits [63:51] of word D (R353). -/
def LayD.decl (d : LayD) : BitVec 13 :=
  d.acc ++ BitVec.ofBool d.kind ++ d.aclass ++ d.bclass ++ BitVec.ofBool d.exact' ++ d.exwMode ++ d.rmode ++ BitVec.ofBool d.ovf

/-- Whether a continue form fits the tile in progress (R192, R351, R353). A bag does not continue another operation's tile, nor the reverse. -/
def jctFits (t : Tile) (q : JctDecl) (op : JOp) (m : MmCmd) (d : LayD) (exwOff : BitVec 32) : Bool :=
  decide (LayD.decl d = LayD.decl q.d ∧ exwOff = q.exwOff) &&
    (if op = .bag then decide (q.op = .bag ∧ m.a.rows = q.ext1 ∧ Leg.ext0 m.b.prim = q.cols ∧ d.rowsem = q.d.rowsem)
     else decide (q.op ≠ .bag) && decide (t.b16 = decide (blockSize m.a m.b = 16)))

/-- Columns of the output of a junction command (R193 to R195). -/
def jctCols (op : JOp) (b : View) : Nat := if op = .spdot then b.rows else Leg.ext0 b.prim

/-- The fault point of a command: the first window that holds a strict event (R180); `win` gives the window of a K position. -/
def jctFault (vs : List Viol) (win : Nat → Nat) (ra rb : Fin 32) (pc : BitVec 32) (tag : Word) : Option (Nat × FaultPt) :=
  faultAt (vs.map (fun v => { v with k := win v.k })) 1 ra rb 0 pc tag

/-- A tile command of `jct.spmm` or `jct.spdot` on an open tile (R193, R194, R198 to R206). -/
def State.runJm (s : State) (c : CoreId) (seq : Nat) (pc : BitVec 32) (op : JOp) (m : MmCmd) (t0 : Tile) (q : JctDecl) : State :=
  let (s, e) := s.eccRead (natRanges (s.feedRanges c m.a ++ s.feedRanges c m.b))
  match e.poison with
  | some p => s.uncEngine c 2 pc p
  | none =>
    let blk := blockSize m.a m.b
    let mm := m.a.rows
    let nn := jctCols op m.b
    let (ra, _) := s.opRows c m.a false false none blk
    let (rb, _) := s.opRows c m.b true false none blk
    let viols := ra.flatMap OpRow.viols ++ rb.flatMap OpRow.viols
    let bad := (ra ++ rb).foldl (fun n r => n + r.bad) 0
    let w := windowOf m.a.fmt m.b.fmt
    let kb := m.kbase.toNat
    let nb := ceilDiv (Leg.ext0 m.a.prim) blk
    let wins := windowsOf (w / blk) kb nb
    let fp := jctFault viols (fun k => (kb * blk + k) / w - kb * blk / w) m.a.reg m.b.reg pc m.tag
    let upto := match fp with
      | some (k, _) => wins.take k
      | none => wins
    let t0 := t0.continued mm nn
    let t0 := { t0 with info := { t0.info with flags := flagIf t0.info.flags .eccCorr e.corrected } }
    let (t, cs) := runWindows ra rb blk kb (if m.fin then some (nb - 1) else none) upto t0 []
    let t := { t with info := t.info.report (viols.filter (fun v => !v.strict)) bad }
    let chunks := (chunkJobs 0 seq pc t m 0 cs).map (fun x => { x with left := 1 })
    match fp with
    | some (_, f) => s.modJx c (fun j => { j with tile := some (t, q), todo := j.todo ++ chunks, fault := some f })
    | none =>
      s.modJx c (fun j =>
        let j := { j with frees := j.frees ++ [(seq, m.free)] }
        if m.fin then { j with tile := none, todo := j.todo ++ chunks ++ [endJob 0 seq pc t mm nn m.o m.origin m.tag m.done 1] }
        else { j with tile := some (t, q), todo := j.todo ++ chunks })

/-- What the walk of one bag has found: the gathered row and the weight of every entry that counts, the violations, and the bytes of the index list that it has read. -/
structure BagWalk where
  ents : List (Nat × El)
  viols : List Viol
  done : Bool
  bad : Nat
  reads : List (Int × Nat)
deriving DecidableEq, Repr

/-- The entries of bag `i` (R167, R178, R195): a skipped entry names no table row, or its gathered row lies outside the gathered view. -/
def State.bagEntries (s : State) (c : CoreId) (a b : View) (weighted : Bool) (i : Nat) : BagWalk :=
  let p0 := s.ptrAt a i
  let p1 := s.ptrAt a (i + 1)
  let base := s.ptrAt a 0
  let st := Leg.strict a.prim
  if p1 < p0 then ⟨[], [⟨.order, false, i, 0, 1, 0, st.getLsbD 2⟩], false, 0, []⟩
  else
    let one : El := .num 65536
    let w := (List.range (p1 - p0)).foldl (fun (w : BagWalk) o =>
      let j := p0 + o
      let ir : Int × Nat := (a.aux1Addr + (j * a.idxB : Nat), a.idxB)
      let out : BagWalk := { w with done := true, viols := ⟨.outside, false, i, o, 0, 0, true⟩ :: w.viols }
      if w.done then w
      else if !rangesInClm c [ir] then out
      else
        let w := { w with reads := ir :: w.reads }
        if Leg.ext0 a.prim ≤ s.idxAt a j ∨ j < base ∨ b.rows ≤ j - base then { w with viols := ⟨.range, false, i, o, 1, 0, st.getLsbD 1⟩ :: w.viols }
        else if !weighted then { w with ents := (j - base, one) :: w.ents }
        else if !rangesInClm c [a.valRange j 1] then { out with reads := w.reads }
        else
          let code := s.valCode a j
          { w with ents := (j - base, El.ofVal (a.fmt.decode code)) :: w.ents, bad := w.bad + (a.fmt.badTern code).toNat,
                   reads := a.valRange j 1 :: w.reads }) ⟨[], [], false, 0, []⟩
    { w with ents := w.ents.reverse, viols := w.viols.reverse }

/-- `jct.bag` on an open tile: the index list is read, and the gathered rows wait for ROWSEM (R195).
DESIGN CHOICE (log 178): R198 gives a bag no windows, so that for R180 the whole command is one window: its faults are raised when it begins, one record for each strict code and the rest suppressed. -/
def State.runBag (s : State) (c : CoreId) (seq : Nat) (pc : BitVec 32) (m : MmCmd) (d : LayD) (weighted : Bool) (t0 : Tile) (q : JctDecl) : State :=
  let ws := (List.range m.a.rows).map (fun i => s.bagEntries c m.a m.b weighted i)
  let (s, e) := s.eccRead (natRanges (m.a.knownRanges ++ ws.flatMap BagWalk.reads))
  match e.poison with
  | some p => s.uncEngine c 2 pc p
  | none =>
    let viols := ws.flatMap BagWalk.viols
    let t0 := t0.continued m.a.rows (Leg.ext0 m.b.prim)
    let t0 := { t0 with info := { t0.info with flags := flagIf t0.info.flags .eccCorr e.corrected } }
    match jctFault viols (fun _ => 0) m.a.reg m.b.reg pc m.tag with
    | some (_, f) => s.modJx c (fun j => { j with tile := some (t0, q), fault := some f })
    | none =>
      let t := { t0 with info := t0.info.report viols (ws.foldl (fun n w => n + w.bad) 0) }
      s.modJx c (fun j => { j with tile := some (t, q), bag := some ⟨seq, pc, m, ws.map BagWalk.ents, d.rowsem⟩ })

/-- A tile command begins: the checks of R192 and R353, the epilogue descriptor, the reach of its drain (R150), then the work. -/
def State.beginJm (s : State) (c : CoreId) (seq : Nat) (pc : BitVec 32) (op : JOp) (m : MmCmd) (d : LayD) (exwOff desc : BitVec 32) (weighted : Bool) : State :=
  let go (s : State) (t : Tile) (q : JctDecl) : State :=
    if m.fin ∧ !epiReach t.info.epi m.origin m.a.rows (jctCols op m.b) then (s.modJx c (fun j => { j with tile := none })).illegal c .epilogue pc q.desc
    else if op = .bag then s.runBag c seq pc m d weighted t q
    else s.runJm c seq pc op m t q
  match (s.core c).jx.tile with
  | some (t, q) => if m.start ∨ !jctFits t q op m d exwOff then s.jxSeq c pc else go s t q
  | none =>
    if !m.start then s.jxSeq c pc
    else
      match s.jctEpi c pc desc with
      | (s, none) => s
      | (s, some (epi, corr)) =>
        let t := Tile.open' (jctInfo d exwOff epi) m.a.rows (jctCols op m.b) (decide (op ≠ .bag) && decide (blockSize m.a m.b = 16)) m.kbase.toNat
        go s (if corr then t.marked else t) ⟨op, d, exwOff, desc, m.a.rows, jctCols op m.b, List.replicate m.a.rows 0⟩

/-- `jct.drain` begins (R150, R192, R209). -/
def State.beginJDrain (s : State) (c : CoreId) (seq : Nat) (pc : BitVec 32) (o : View) (origin tag : Word) (done : SemOpt) : State :=
  match (s.core c).jx.tile with
  | none => s.jxSeq c pc
  | some (t, q) =>
    let s := s.modJx c (fun j => { j with tile := none })
    if !epiReach t.info.epi origin o.rows (Leg.ext0 o.prim) then s.illegal c .epilogue pc q.desc
    else s.modJx c (fun j => { j with todo := j.todo ++ [endJob 0 seq pc t o.rows (Leg.ext0 o.prim) o origin tag done 0] })

/-- A command begins at the junction engine (R190, R192). -/
def State.beginJct (s : State) (c : CoreId) (seq : Nat) (pc : BitVec 32) (x : JctCmd) : State :=
  match x with
  | .route l a b thr => s.beginRoute c seq pc l a b thr
  | .mm op m d exwOff desc weighted => s.beginJm c seq pc op m d exwOff desc weighted
  | .drain o origin tag done => s.beginJDrain c seq pc o origin tag done

/-- Whether the command at the head may begin: a tile command waits until the tile bank is free and the rows of the bag before it are read. -/
def Junction.ready (j : Junction) (x : JctCmd) : Bool :=
  match x with
  | .route _ _ _ _ => j.fault.isNone
  | _ => j.todo.isEmpty && j.bag.isNone && j.fault.isNone

/-! ### The rows of a bag (R195, R203 to R206) -/

/-- Split a list into pieces of 64 (R199). -/
def segs64 (l : List α) : List (List α) := chunksOf 64 l.length l

/-- The block partial of one entry at one column (R203). -/
def State.bagPart (s : State) (b : View) (x : Nat × El) (n : Nat) : Part :=
  (BlockReg.zero.add x.2 (El.ofVal (b.fmt.decode (s.code2 b n x.1)))).partial' 0x7F (s.scaleAt b (n / b.blk) x.1)

/-- One bag and one column into its element. DESIGN CHOICE (log 143): each command's entries start new segments of 64; a continue form does not fill the segment that the command before it left open. -/
def State.bagCell (s : State) (acc : Acc) (b : View) (es : List (Nat × El)) (n : Nat) (c : Cell) : Cell :=
  (segs64 es).foldl (fun c sg => mergeCell acc c (sg.foldl (fun x p => accAdd acc x (s.bagPart b p n)) Cell.zero)) c

/-- The bytes of a gathered row with its scale bytes. -/
def gatheredRow (b : View) (j : Nat) : List (Int × Nat) :=
  (b.rowAddr j 0 0 0, b.runBytes) :: if Leg.scale b.prim = 0 then [] else [(b.scaleAddr + (j * b.scaleDims.1 : Nat), b.scaleDims.1)]

/-- The rows of a bag command are read and summed. -/
def State.bagRows (s : State) (c : CoreId) (r : BagRun) (t : Tile) (q : JctDecl) : State :=
  let b := r.m.b
  let js := r.ents.flatMap (fun es => es.map Prod.fst)
  let (s, e) := s.eccRead (natRanges (js.flatMap (gatheredRow b)))
  let s := (s.modJx c (fun j => { j with bag := none })).modCore c (fun k => { k with met := k.met.erase (.jx, r.seq) })
  match e.poison with
  | some p => s.uncEngine c 2 r.pc p
  | none =>
    let cells := ((raster t.m t.n).zip t.cells).map (fun p =>
      if p.1.1 < r.ents.length ∧ p.1.2 < Leg.ext0 b.prim then s.bagCell t.info.acc b (r.ents.getD p.1.1 []) p.1.2 p.2 else p.2)
    let bad := js.foldl (fun n j => n + badCount b.fmt ((List.range (Leg.ext0 b.prim)).map (fun i => some (s.code2 b i j)))) 0
    let counts := (q.counts.zip (r.ents.map List.length)).map (fun p => p.1 + p.2)
    let bound := decide (t.info.acc = .cf32) && counts.any (fun n => decide (n > 4096))
    let fl := flagIf (flagIf (flagIf t.info.flags .eccCorr e.corrected) .bound bound) .convSat (decide (bad ≠ 0))
    let t := { t with cells := cells, info := { t.info with flags := fl, conv := t.info.conv + bad } }
    let s := if r.m.fin then
        s.modJx c (fun j => { j with tile := none, todo := j.todo ++ [endJob 0 r.seq r.pc t r.m.a.rows (Leg.ext0 b.prim) r.m.o r.m.origin r.m.tag r.m.done 1] })
      else s.modJx c (fun j => { j with tile := some (t, { q with counts := counts }) })
    s.post c r.m.free

/-! ### Events -/

/-- The junction engine has read the last byte of a command's operands; a bag reads its gathered rows once ROWSEM admits them all (R192, R195). -/
def execJctFreePost (c : CoreId) (s : State) : Res :=
  if !s.hasDie c.die then .next s
  else
    let k := s.core c
    match k.jx.frees with
    | (_, f) :: _ => .next ((s.modJx c (fun j => { j with frees := j.frees.drop 1 })).post c f)
    | [] =>
      match k.jx.bag, k.jx.tile with
      | some r, some (t, q) => if k.rowsIn r then .next (s.bagRows c r t q) else .next s
      | _, _ => .next s

/-- The route unit writes `pd` and `gc` (R190). -/
def execJctRouteComplete (c : CoreId) (s : State) : Res :=
  if !s.hasDie c.die then .next s
  else
    match (s.core c).jx.routes with
    | [] => .next s
    | (_, pd, gc, b, n) :: rest => .next (s.modCore c (fun k => (({ k with jx := { k.jx with routes := rest } } : Core).setP pd b).setG gc n))

/-- The tile bank, at the end of a tile or of a chunk, moves to the shadow bank once that has drained (R206, R209). -/
def execJctTileEnd (c : CoreId) (s : State) : Res :=
  if !s.hasDie c.die then .next s
  else
    let j := (s.core c).jx
    match j.todo with
    | [] => .next s
    | x :: rest =>
      let x := { x with left := 0 }
      .next (s.modJx c (fun j => if mayDrain j.jobs x then { j with todo := rest, jobs := j.jobs ++ [x] } else { j with todo := x :: rest }))

/-- The shadow bank has drained: output, TSR, then DONE (R209). -/
def execJctDrainComplete (c : CoreId) (s : State) : Res :=
  if !s.hasDie c.die then .next s
  else
    match (s.core c).jx.jobs with
    | [] => .next s
    | j :: rest =>
      if j.kind = .chunk then .next s
      else
        match (s.modJx c (fun q => { q with jobs := rest })).drain c 2 j with
        | (s, true) => .next (s.post c j.done)
        | (s, false) => .next s

end Sys2Proof.Machine
end

