-- ==== Sys2Proof/Machine/Sketch.lean ====
section
/-! DEFINITION. The sketch pass: bound entries, selection and audit (R211 to R230). -/

namespace Sys2Proof.Machine

/-! ### `skt.pass` at issue (R211, R215, R217) -/

/-- Whether context `.c0` of an array will hold a tile in progress, and whether the array will be in dual-context mode, behind the commands that wait in its queue. -/
def Core.arrAfter (k : Core) (a : Fin 2) : Bool × Bool :=
  let g := vget k.ga a
  (vget k.qGa a).foldl (fun (v : Bool × Bool) q => match q with
    | .cmd _ _ (.cfg l _ _) => (v.1, l.dual)
    | .cmd _ _ (.mm x m) => if x = 0 then (!m.fin, v.2) else v
    | .cmd _ _ (.drain x _ _ _ _) => if x = 0 then (false, v.2) else v
    | .cmd _ _ (.save x _ _) => if x = 0 then (false, v.2) else v
    | .cmd _ _ (.load x _ _) => if x = 0 then (true, v.2) else v
    | _ => v) ((vget g.ctx 0).tile.isSome, g.dual)

/-- The checks of `skt.pass` at issue (R35, R215). A scale of A whose block size is not B's is SHAPE (DESIGN CHOICE: the spec states no check). -/
def Core.sktBad (k : Core) (c : CoreId) (arr : Fin 2) (a b : View) (ace : Bool) (acvt : BitVec 4) : Option (Ill × BitVec 32) :=
  let (tile, dual) := k.arrAfter arr
  let okA := decide (Leg.sparse a.prim = 0 ∧ Leg.nmpat a.prim = 0 ∧ (arrFmt a ace acvt).cls ≠ .wide ∧ Leg.ndim a.prim ≤ 2 ∧ a.lanes ≤ 128) &&
    viewInClm c a && decide (Leg.scale a.prim = 0 ∨ a.blk = b.blk) && decide (ceilDiv a.kExt b.blk ≤ 4096)
  let okB := decide (Leg.sparse b.prim = 0 ∧ Leg.nmpat b.prim = 0 ∧ !Leg.trn b.prim ∧ (b.fmt = .tern ∨ b.fmt = .int2) ∧ Leg.scale b.prim ≠ 0 ∧
    Leg.ndim b.prim ≤ 2 ∧ b.rows ≤ 128 ∧ b.kExt = a.kExt) && viewInClm c b
  match firstInvalid [a, b] with
  | some r => some (.legend, regWord r)
  | none => firstBad [(!okA, .shape, regWord a.reg), (!okB, .shape, regWord b.reg), (dual || tile, .sequence, seqDetail arr 0)]

/-- `skt.pass` (R215, R217): one command in the sketch sequencing queue and in the array's queue. -/
def execSktPass (c : CoreId) (p : Fin 8) (l : LayK) (s : State) : Res :=
  s.issue (.sktPass c p l) c p (fun s => s.room c .skt && s.room c (gaEngine l.array)) (fun s =>
    let k := s.core c
    let a := k.view l.da
    let b := k.view l.db
    match k.sktBad c l.array a b l.ace l.acvt with
    | some (cause, detail) => s.illegal c cause (s.pcOf c) detail
    | none =>
      let x : ArrCmd := .skt a b (k.lowG l.rd) l.ace l.acvt (k.getG l.ro) (k.getG l.rt) (semOpt l.den l.done)
      let (n, s) := s.takeSeq c
      (s.modCore c (fun k => { k with qSkt := enq k.qSkt n k.pc (.pass l.array), qGa := vmod k.qGa l.array (fun q => enq q n k.pc x) })).advance c 1)

/-- `skt.select` (R222). -/
def execSktSelect (c : CoreId) (p : Fin 8) (l : LayK) (s : State) : Res :=
  s.issue (.sktSelect c p l) c p (fun s => s.room c .skt) (fun s =>
    (s.enqSkt c (.select ((s.core c).lowG l.rd) (semOpt l.den l.done))).advance c 1)

/-- `skt.audit` (R222, R229). -/
def execSktAudit (c : CoreId) (p : Fin 8) (l : LayK) (s : State) : Res :=
  s.issue (.sktAudit c p l) c p (fun s => s.room c .skt) (fun s =>
    (s.enqSkt c (.audit ((s.core c).lowG l.rd) ((s.core c).getG l.rt) (semOpt l.den l.done))).advance c 1)

/-! ### Bound entries (R219 to R221) -/

/-- `2^−100`. -/
def slackMin : Val := .fin false 1 (-100)

/-- Rounding toward −∞ to FP32. -/
def f32Down (x : Val) : BitVec 32 := f32Of .up x.neg ^^^ 0x80000000

/-- The entry of an uncertain output (R220): U = +∞, L = −∞. -/
def uncertainEntry : BitVec 32 × BitVec 32 := (0x7F800000, 0xFF800000)

/-- One bound entry (R219, R220). DEDUCED (log 60): a slack that is NaN, as ρ = +∞ with ν = 0 makes it, gives the uncertain entry, the only one for which the bound of R214 holds. -/
def boundEntry (cell : Cell) (rho nu guard : Val) : BitVec 32 × BitVec 32 :=
  let y := f32Val (f32Of .rne (cell.value .cf32))
  let neg (v : Val) : Bool := v.sign && !v.isZero
  if !y.isFin ∨ cell.sat ∨ cell.hi ∨ rho = .nan ∨ nu = .nan ∨ neg rho ∨ neg nu then uncertainEntry
  else
    let g := if guard.lt slackMin then slackMin else guard
    let sigma := f32Val (f32Of .up ((rho.mul nu).add g))
    if !sigma.isFin then uncertainEntry
    else (f32Of .up (y.add sigma), f32Down (y.sub sigma))

/-- The sketch epilogue: the bound rows, the TSR and DONE (R219 to R221). -/
def State.sktDrain (s : State) (c : CoreId) (r : SktRun) : State :=
  let t := r.info
  let m0 := fldN r.origin 0 32
  let n0 := fldN r.origin 32 32
  let base := clmAddr c
  let rhoA := base + d32 r.desc 0 + 2 * n0
  let nuA := base + d32 r.desc 4 + 4 * m0
  let (s, e) := s.eccRead [(rhoA, 2 * t.n), (nuA, 4 * t.m)]
  match e.poison with
  | some p => s.uncEngine c 5 r.pc p
  | none =>
    let rho := (List.range t.n).map (fun i => Fmt.fp16.decode (s.mem.readN (rhoA + 2 * i) 2))
    let nu := (List.range t.m).map (fun i => f32Val (BitVec.ofNat 32 (s.mem.readN (nuA + 4 * i) 4)))
    let g := f32Val (BitVec.ofNat 32 (d32 r.desc 0x10))
    let es := ((raster t.m t.n).zip r.cells).map (fun p => (p.1, boundEntry p.2 (rho.getD p.1.2 .nan) (nu.getD p.1.1 .nan) g))
    let s := es.foldl (fun s p =>
      s.memWrite (base + d32 r.desc 8 + (m0 + p.1.1) * d32 r.desc 12 + 8 * (n0 + p.1.2)) (leBytes 4 p.2.1.toNat ++ leBytes 4 p.2.2.toNat)) s
    let ys := r.cells.map (fun x => f32Val (f32Of .rne (x.value .cf32)))
    let nf := ys.map (fun y => !y.isFin)
    let (a, b) := firstPos t.n nf
    let fl := flagIf (flagIf (flagIf (flagIf t.flags .sat (r.cells.any Cell.sat)) .scaleHi (r.cells.any Cell.hi)) .scaleLo (r.cells.any Cell.lo)) .nonfinite (nf.any id)
    let fl := flagIf (flagIf fl .convSat (decide (t.conv ≠ 0))) .eccCorr e.corrected
    (s.writeTsr c { Tsr.blank r.tag with flags := fl, nfm := a, nfn := b, amax := amaxOf ys, satCnt := (r.cells.filter Cell.sat).length, convCnt := t.conv }).post c r.done

/-! ### The select descriptor (R222) -/

/-- The fields of a select descriptor. -/
structure SelDesc where
  bounds : Nat
  bstride : Nat
  rows : Nat
  cols : Nat
  budgeted : Bool
  topk : Bool
  ksel : Nat
  budget : Nat
  arate : Nat
  aphase : Nat
  thresh : Nat
  mask : Nat
  amask : Nat
  ulist : Nat
  exactv : Nat
  estride : Nat
  missrows : Nat
  stat : Nat
deriving DecidableEq, Repr

/-- The fields that 64 bytes spell. -/
def SelDesc.ofBytes (bs : List Byte) : SelDesc :=
  ⟨d32 bs 0, d32 bs 4, d16 bs 8, d16 bs 10, decide (d8 bs 12 = 1), decide (d8 bs 13 = 1), d16 bs 14, d16 bs 16, d8 bs 18, d16 bs 20,
    d32 bs 24, d32 bs 28, d32 bs 32, d32 bs 36, d32 bs 40, d32 bs 44, d32 bs 48, d32 bs 52⟩

/-- Whether a command audits nothing. -/
def SelDesc.noAudit (d : SelDesc) : Bool := decide (128 ≤ d.arate)

/-- Bytes of a mask row (R165, R227). -/
def SelDesc.maskRow (d : SelDesc) : Nat := ceilDiv d.cols 512 * 64

/-- Every rule of the table of R222 but for the regions whose length the outputs fix. -/
def selOk (bs : List Byte) : Bool :=
  let d := SelDesc.ofBytes bs
  let a := d.arate % 16
  let fits (o n : Nat) : Bool := decide (o + n ≤ clmSize)
  decide (d8 bs 12 ≤ 1 ∧ d8 bs 13 ≤ 1) && dZero bs 19 1 && dZero bs 22 2 && dZero bs 56 8 &&
    decide (d.bounds % 64 = 0 ∧ d.bstride % 64 = 0 ∧ 8 * d.cols ≤ d.bstride) && decide (1 ≤ d.rows ∧ d.rows ≤ 128 ∧ 1 ≤ d.cols ∧ d.cols ≤ 4096) &&
    (if d.topk then decide (1 ≤ d.ksel ∧ d.ksel ≤ d.cols ∧ d.thresh = absent) else decide (d.ksel = 0)) &&
    (if d.budgeted then decide (1 ≤ d.budget ∧ d.budget ≤ d.cols) && (!d.topk || decide (d.ksel ≤ d.budget)) else decide (d.budget = 0 ∧ d.arate = 0x80)) &&
    decide (a ≤ 12 ∧ d.arate / 16 % 8 = 0 ∧ d.aphase < 2 ^ a) && decide (d.thresh = absent ∨ d.thresh % 4 = 0) &&
    decide (d.mask % 64 = 0 ∧ d.ulist % 64 = 0 ∧ d.exactv % 4 = 0 ∧ d.estride % 4 = 0 ∧ d.missrows % 16 = 0 ∧ d.stat % 32 = 0) &&
    (if d.amask = absent then d.noAudit else decide (d.amask % 64 = 0) && fits d.amask (d.rows * d.maskRow)) &&
    fits d.bounds ((d.rows - 1) * d.bstride + 8 * d.cols) && (decide (d.thresh = absent) || fits d.thresh (4 * d.cols)) &&
    fits d.mask (d.rows * d.maskRow) && fits d.missrows 16 && fits d.stat 32

/-- Bytes of the column list: two for each column that any row names, filled up to a multiple of 64 (R227). -/
def listLen (cols : Nat) : Nat := alignUp (2 * cols) 64

/-- Whether the regions whose length the columns of the command fix leave the CLM: the column list, and the rows of exact values, one for each column of the list (R222, R228). DESIGN CHOICE (log 145): with no column, EXACTV has no bytes. -/
def SelDesc.leaves (d : SelDesc) (cols : Nat) : Bool :=
  decide (clmSize < d.ulist + listLen cols) || decide (cols ≠ 0 ∧ clmSize < d.exactv + (d.rows - 1) * d.estride + 4 * cols)

/-- τ of a column (R222). -/
def State.tau (s : State) (c : CoreId) (d : SelDesc) (n : Nat) : Val :=
  if d.thresh = absent then .fin false 0 0 else f32Val (BitVec.ofNat 32 (s.mem.readN (clmAddr c + d.thresh + 4 * n) 4))

/-! ### Selection (R223 to R227) -/

/-- An entry of a bound row; a NaN or crossed pair reads as uncertain (R223). -/
def State.entryAt (s : State) (c : CoreId) (d : SelDesc) (m n : Nat) : Val × Val :=
  let a := clmAddr c + d.bounds + m * d.bstride + 8 * n
  let u := f32Val (BitVec.ofNat 32 (s.mem.readN a 4))
  let l := f32Val (BitVec.ofNat 32 (s.mem.readN (a + 4) 4))
  if u = .nan ∨ l = .nan ∨ u.lt l then (.inf false, .inf true) else (u, l)

/-- Insert into a list that falls by value; equal values keep their order. -/
def descIns (p : Nat × Val) : List (Nat × Val) → List (Nat × Val)
  | [] => [p]
  | q :: qs => if q.2.lt p.2 then p :: q :: qs else q :: descIns p qs

/-- A list of (column, value) pairs by value falling, then column rising. -/
def descSort (l : List (Nat × Val)) : List (Nat × Val) := l.foldl (fun acc p => descIns p acc) []

/-- What a row selects: the columns kept, the budget-skipped columns in ascending order, and the counts of uncertain entries. -/
structure RowSel where
  keep : List Nat
  skipped : List Nat
  uncertain : Nat
deriving DecidableEq, Repr

/-- `select_row` of R223. -/
def State.selectRow (s : State) (c : CoreId) (d : SelDesc) (m : Nat) : RowSel :=
  let es := (List.range d.cols).map (fun n => (n, s.entryAt c d m n))
  let lam := ((descSort (es.map (fun e => (e.1, e.2.2)))).map Prod.snd).getD (d.ksel - 1) (.inf true)
  let cand := es.filter (fun e => if d.topk then !(e.2.1.lt lam) else !(e.2.1.le (s.tau c d e.1)))
  let unc := (es.filter (fun e => decide (e.2 = (.inf false, .inf true)))).length
  let all := cand.map Prod.fst
  if d.budgeted ∧ cand.length > d.budget then
    let keep := ((descSort (cand.map (fun e => (e.1, e.2.1)))).take d.budget).map Prod.fst
    ⟨all.filter (fun n => keep.contains n), all.filter (fun n => !keep.contains n), unc⟩
  else ⟨all, [], unc⟩

/-- The audited columns of each row: budget-skipped outputs numbered in raster order over the command (R226). -/
def auditRows (d : SelDesc) (rows : List RowSel) : List (List Nat) :=
  if d.noAudit then rows.map (fun _ => [])
  else (rows.foldl (fun (acc : Nat × List (List Nat)) r =>
    let (q, out) := acc
    (q + r.skipped.length, out ++ [(r.skipped.zipIdx.filter (fun p => (q + p.2) % 2 ^ (d.arate % 16) = d.aphase)).map Prod.fst])) (0, [])).2

/-- A mask row as bytes (R165). -/
def maskBytes (n : Nat) (cols : List Nat) : List Byte :=
  (List.range n).map (fun i => BitVec.ofNat 8 ((List.range 8).foldl (fun v b => if cols.contains (8 * i + b) then v + 2 ^ b else v) 0))

/-- The columns that any row names, ascending. -/
def unionCols (cols : Nat) (rows : List (List Nat)) : List Nat := (List.range cols).filter (fun n => rows.any (fun r => r.contains n))

/-- `skt.select` (R222 to R227). -/
def State.runSelect (s : State) (c : CoreId) (pc desc : BitVec 32) (done : SemOpt) : State :=
  let base := clmAddr c
  let bad := s.illegal c .sketch pc desc
  if desc.toNat + 64 > clmSize then bad
  else
    let bs := s.mem.read (base + desc.toNat) 64
    let d := SelDesc.ofBytes bs
    let ok := selOk bs
    let reads := (base + desc.toNat, 64) :: if ok then
        (List.range d.rows).map (fun m => (base + d.bounds + m * d.bstride, 8 * d.cols)) ++ (if d.thresh = absent then [] else [(base + d.thresh, 4 * d.cols)])
      else []
    let (s, e) := s.eccRead reads
    match e.poison with
    | some p => s.uncEngine c 4 pc p
    | none =>
      if !ok then s.illegal c .sketch pc desc
      else
        let rows := (List.range d.rows).map (fun m => s.selectRow c d m)
        let aud := auditRows d rows
        let uni := unionCols d.cols (rows.map RowSel.keep ++ aud)
        let len := listLen uni.length
        if d.leaves uni.length then s.illegal c .sketch pc desc
        else
          let putMask (s : State) (o : Nat) (rs : List (List Nat)) : State :=
            rs.zipIdx.foldl (fun s p => s.memWrite (base + o + p.2 * d.maskRow) (maskBytes d.maskRow p.1)) s
          let s := putMask s d.mask (rows.map RowSel.keep)
          let s := if d.amask = absent then s else putMask s d.amask aud
          let s := s.memWrite (base + d.ulist) (uni.flatMap (fun n => leBytes 2 n) ++ List.replicate (len - 2 * uni.length) 0xFF)
          let sel := rows.foldl (fun n r => n + r.keep.length) 0
          let bsk := rows.foldl (fun n r => n + r.skipped.length) 0
          let auds := aud.foldl (fun n r => n + r.length) 0
          let unc := rows.foldl (fun n r => n + r.uncertain) 0
          (s.memWrite (base + d.stat) (leBytes 4 sel ++ leBytes 4 (d.rows * d.cols - sel - bsk) ++ leBytes 4 bsk ++ leBytes 4 auds ++ leBytes 2 uni.length ++
            leBytes 2 (satN 16 unc) ++ leBytes 2 0 ++ leBytes 2 0xFFFF ++ leBytes 2 0xFFFF ++ leBytes 6 0)).post c done

/-! ### Audit (R229, R230) -/

/-- The columns that a mask row in CLM names. -/
def State.maskCols (s : State) (c : CoreId) (d : SelDesc) (o m : Nat) : List Nat :=
  (List.range d.cols).filter (fun n => (s.mem.get (clmAddr c + o + m * d.maskRow + n / 8)).getLsbD (n % 8))

/-- κ of a row: the KSEL-th largest value, NaN above every number (R229). -/
def kthLargest (k : Nat) (vs : List Val) : Val :=
  let nans := vs.filter (fun v => decide (v = .nan))
  let rest := (descSort ((vs.filter (fun v => decide (v ≠ .nan))).map (fun v => (0, v)))).map Prod.snd
  (nans ++ rest).getD (k - 1) .nan

/-- `skt.audit` (R229, R230). -/
def State.runAudit (s : State) (c : CoreId) (pc desc : BitVec 32) (tag : Word) (done : SemOpt) : State :=
  let base := clmAddr c
  if desc.toNat + 64 > clmSize then s.illegal c .sketch pc desc
  else
    let bs := s.mem.read (base + desc.toNat) 64
    let d := SelDesc.ofBytes bs
    let ok := selOk bs
    let rowIdx := List.range d.rows
    let masks := if ok then rowIdx.map (fun m => s.maskCols c d d.mask m) else []
    let auds := if !ok ∨ d.amask = absent then masks.map (fun _ => []) else rowIdx.map (fun m => s.maskCols c d d.amask m)
    let uni := unionCols d.cols (masks ++ auds)
    let addr (m n : Nat) : Nat := base + d.exactv + m * d.estride + 4 * (uni.takeWhile (fun x => decide (x < n))).length
    let used := (masks.zip auds).zipIdx.flatMap (fun p =>
      let (kept, au) := p.1
      if au.isEmpty then [] else ((if d.topk then kept else []) ++ au).map (fun n => (addr p.2 n, 4)))
    let maskRd (o : Nat) : List (Nat × Nat) := [(base + o, d.rows * d.maskRow)]
    let reads := (base + desc.toNat, 64) :: if ok then maskRd d.mask ++ (if d.amask = absent then [] else maskRd d.amask) ++
        (if d.thresh = absent then [] else [(base + d.thresh, 4 * d.cols)]) ++ used else []
    if ok ∧ d.leaves uni.length then s.illegal c .sketch pc desc
    else
      let (s, e) := s.eccRead reads
      match e.poison with
      | some p => s.uncEngine c 4 pc p
      | none =>
        if !ok then s.illegal c .sketch pc desc
        else
          let val (m n : Nat) : Val := f32Val (BitVec.ofNat 32 (s.mem.readN (addr m n) 4))
          let miss := (masks.zip auds).zipIdx.flatMap (fun p =>
            let (kept, au) := p.1
            let kap := kthLargest d.ksel (kept.map (val p.2))
            (au.filter (fun n =>
              let v := val p.2 n
              decide (v = .nan) || (if d.topk then kap.lt v else (s.tau c d n).lt v))).map (fun n => (p.2, n)))
          let (fm, fn) := miss.head?.getD (0xFFFF, 0xFFFF)
          let s := s.memWrite (base + d.stat + 0x14) (leBytes 2 (satN 16 miss.length) ++ leBytes 2 fm ++ leBytes 2 fn)
          let s := s.memWrite (base + d.missrows) (maskBytes 16 (miss.map Prod.fst))
          (s.writeTsr c { Tsr.blank tag with flags := flagIf 0 .sketchMiss (!miss.isEmpty), missCnt := miss.length }).post c done

/-! ### Events -/

/-- The sketch epilogue has written the last bound row (R221). -/
def execSktPassComplete (c : CoreId) (a : Fin 2) (s : State) : Res :=
  if !s.hasDie c.die then .next s
  else
    match (s.arr c a).skt with
    | some r => .next ((s.modArr c a (fun g => { g with skt := none })).sktDrain c r)
    | none => .next s

/-- The `skt.select` in the select unit completes (R227). -/
def execSktSelectComplete (c : CoreId) (s : State) : Res :=
  if !s.hasDie c.die then .next s
  else
    match (s.core c).skt with
    | some (_, pc, .select desc done) => .next ((s.modCore c (fun k => { k with skt := none })).runSelect c pc desc done)
    | _ => .next s

/-- The `skt.audit` in the select unit completes (R230). -/
def execSktAuditComplete (c : CoreId) (s : State) : Res :=
  if !s.hasDie c.die then .next s
  else
    match (s.core c).skt with
    | some (_, pc, .audit desc tag done) => .next ((s.modCore c (fun k => { k with skt := none })).runAudit c pc desc tag done)
    | _ => .next s

end Sys2Proof.Machine
end

