-- ==== Sys2Proof/Machine/StrPlan.lean ====
section
/-! DEFINITION. What a stream copies: the places of its views, the checks at issue, and the requests that a view is cut into (R239 to R241, R259, R263 to R276, R348). -/

namespace Sys2Proof.Machine

/-! ### Places (R259, R348) -/

/-- The range of the address map in which a BASE falls (R348). -/
inductive Place where
  | tier
  | depot (d : Fin 8)
  | clm (c : CoreId)
  | host
  | rem
  | none
deriving DecidableEq, Repr

/-- The place of a device address by its range alone (R348, R357, R373). -/
def State.place (s : State) (a : Nat) : Place :=
  let low (x : Nat) : Place :=
    if x < 0x050000000000 then .tier
    else match s.region x with
      | .depot d _ => .depot d
      | .clm c _ => .clm c
      | .host _ => .host
      | _ => .none
  if a < 2 ^ 48 then low a
  else if a < 2 ^ 63 then .none
  else
    if a ≥ 2 ^ 63 + 2 ^ 60 then .none else if a / 2 ^ 48 % 4096 = s.pkg.partId.toNat then low (a % 2 ^ 48) else .rem

/-- Whether a view may be the source of a load, a gather or a multicast. -/
def Place.source (p : Place) : Bool := decide (p ≠ .none)

/-- Whether a view lies in a CLM or a depot. -/
def Place.near : Place → Bool
  | .depot _ => true
  | .clm _ => true
  | _ => false

/-! ### Issue (R262, R263, R266, R268, R271) -/

/-- The operands of a moving command as captured at issue (R21, R262). -/
def Core.moveOf (k : Core) (kind : StrKind) (l : LayS) (x : Option LayX) : MoveCmd where
  kind := kind
  src := k.view l.src
  dst := k.view l.dst
  idx := if kind = .gather ∧ l.idxq = false then some (k.view l.idx) else none
  queue := if kind = .gather ∧ l.idxq then some (Fin.ofNat 8 l.idx.val) else none
  count := fld (k.getG l.rcount) 0 32
  sstrict := l.sstrict
  merge := l.merge
  lite := l.lite
  done := semOpt l.den l.done
  esem := semOpt l.een l.esem
  prog := x.bind (fun x => semOpt x.pen x.prog)
  msem := x.bind (fun x => semOpt x.men x.msem)
  pgran := (x.map (fun x => x.pgran.toNat + 1)).getD 1
  gkind := (x.map LayX.gkind).getD false
  grp := (x.map LayX.grp).getD 0

/-- Whether the legends of a stream agree (R263). -/
def viewsAgree (a b : View) : Bool :=
  let p := a.prim
  let q := b.prim
  decide (Leg.ndim p = Leg.ndim q) && (List.range 5).all (fun i => decide (a.ext' i = b.ext' i)) &&
    decide (Leg.fmtCode p = Leg.fmtCode q ∧ Leg.sparse p = Leg.sparse q ∧ Leg.nmpat p = Leg.nmpat q ∧ Leg.idxw p = Leg.idxw q ∧
      Leg.ptrw p = Leg.ptrw q ∧ Leg.scale p = Leg.scale q ∧ Leg.gen p = Leg.gen q) &&
    (decide (Leg.scale p = 0) || decide (Leg.trn p = Leg.trn q))

/-- The cores of a core group (R239); none for a reserved code. -/
def coreGroup (c : CoreId) (g : Nat) : Option (List CoreId) :=
  let row (r : Nat) : List CoreId := (List.range 4).map (fun j => ⟨c.die, Fin.ofNat 16 (4 * r + j)⟩)
  let col (k : Nat) : List CoreId := (List.range 4).map (fun j => ⟨c.die, Fin.ofNat 16 (4 * j + k)⟩)
  if g < 4 then some (row g)
  else if g < 8 then some (col (g - 4))
  else if g = 8 then some (row (c.core.val / 4))
  else if g = 9 then some (col (c.core.val % 4))
  else if g = 10 then some ((fins 16).map (fun i => ⟨c.die, i⟩))
  else none

/-- The physical dies of a die group (R240); none when the mask is 0 or names a die that the task does not have. -/
def State.dieGroup (s : State) (c : CoreId) (m : BitVec 8) : Option (List (Fin 8)) :=
  let ds := ((s.coreTask c).map Task.dies).getD []
  if m = 0 ∨ m.toNat ≥ 2 ^ ds.length then none
  else some (ds.zipIdx.filterMap (fun p => if m.getLsbD p.2 then some p.1 else none))

/-- A view with BASE as a local address when it names this part (R373). -/
def State.localView (s : State) (v : View) : View :=
  match s.devAddr (Leg.base v.prim) with
  | .loc a => { v with prim := setFld v.prim 0 64 a }
  | _ => v

/-- Why a gather does not issue (R271, R348): a destination that does not lie whole in the issuing core's CLM raises SHAPE (R271; DEDUCED, log 63). -/
def State.gatherBad (s : State) (c : CoreId) (slot : Fin 16) (m : MoveCmd) : Option (Ill × BitVec 32) :=
  let t := m.src
  let d := m.dst
  let place (v : View) : Place := s.place (Leg.base v.prim)
  let regOf (v : View) : BitVec 32 := BitVec.ofNat 32 v.reg.val
  if Leg.sparse t.prim ≠ 0 ∨ Leg.ndim t.prim ≠ 2 ∨ Leg.nmpat t.prim ≠ 0 then some (.shape, regOf t)
  else if Leg.sparse d.prim ≠ 0 ∨ Leg.ndim d.prim ≠ 2 ∨ Leg.ext0 d.prim ≠ Leg.ext0 t.prim ∨ Leg.fmtCode d.prim ≠ Leg.fmtCode t.prim ∨
      Leg.scale d.prim ≠ Leg.scale t.prim then some (.shape, regOf d)
  else if m.idx.any (fun v => decide (Leg.sparse v.prim ≠ 6) || !(place v).source) then some (.shape, ((m.idx.map regOf).getD 0))
  else if place d ≠ .clm c || !rangesInClm c (s.localView d).fixedRanges then some (.shape, regOf d)
  else if !(place t).source then some (.stream, BitVec.ofNat 32 slot.val)
  else none

/-- Why a load, a store or a multicast does not issue (R263, R266, R268, R348); `w` is the low half of the command's last word. -/
def State.copyBad (s : State) (c : CoreId) (slot : Fin 16) (m : MoveCmd) (w : BitVec 32) : Option (Ill × BitVec 32) :=
  let place (v : View) : Place := s.place (Leg.base v.prim)
  let ok := match m.kind with
    | .load => (place m.src).source && (place m.dst).near
    | .store => decide (place m.src = .clm c ∨ place m.src = .depot c.die) && (place m.dst).source
    | _ => (place m.src).source && decide (Leg.base m.dst.prim < 2 ^ 32)
  let grp := match m.kind with
    | .mcast => if m.gkind then (s.dieGroup c m.grp).isSome else (coreGroup c m.grp.toNat).isSome
    | _ => true
  if !grp then some (.encoding, w)
  else if !viewsAgree m.src m.dst || (m.prog.isSome && decide (Leg.sparse m.src.prim ≠ 0)) || !ok then some (.stream, BitVec.ofNat 32 slot.val)
  else none

/-- Why a moving command does not issue: an invalid legend first (R35), then the conditions of its kind. -/
def State.moveBad (s : State) (c : CoreId) (slot : Fin 16) (m : MoveCmd) (w : BitVec 32) : Option (Ill × BitVec 32) :=
  match firstInvalid ([m.src, m.dst] ++ m.idx.toList) with
  | some r => some (.legend, BitVec.ofNat 32 r.val)
  | none => if m.kind = .gather then s.gatherBad c slot m else s.copyBad c slot m w

/-! ### Runs and requests (R264, R265) -/

/-- A device address of 64 bits. -/
def addr64 (a : Int) : Nat := (a % (2 ^ 64 : Nat)).toNat

/-- A number for runs that belong to no progress unit (R268). -/
def noRun : Nat := 2 ^ 64

/-- A contiguous run in source and destinations: `off` is its byte offset from the array's anchor and `eb` the bits of an entry, so that an entry number can be given to any byte. -/
structure Run where
  src : Int
  dsts : List Int
  len : Nat
  lo : Nat
  bits : Nat
  arr : ReqArr
  run : Nat
  off : Nat
  eb : Nat
  i1 : Nat
  i2 : Nat
  i3 : Nat
  i4 : Nat
  index : Option Nat
deriving DecidableEq, Repr

/-- Bits that belong to the view in the last byte of a string of `n` bits. -/
def lastBits (n : Nat) : Nat := if n % 8 = 0 then 8 else n % 8

/-- Piece `i` of a run, cut at the 256-byte-aligned boundaries of the source: its byte offset in the run and its length (R264). -/
def cutAt (src len i : Nat) : Nat × Nat :=
  let seg := (src / 256 + i) * 256
  let lo := Nat.max src seg
  let hi := Nat.min (src + len) (seg + 256)
  (lo - src, hi - lo)

/-- The requests of a run, in order (R264). -/
def Run.reqs (r : Run) : List Req :=
  let a := addr64 r.src
  (List.range (if r.len = 0 then 0 else ceilDiv (a % 256 + r.len) 256)).map (fun i =>
    let (o, n) := cutAt a r.len i
    { src := a + o, len := n, dsts := r.dsts.map (fun d => addr64 (d + o)), lo := if o = 0 then r.lo else 0,
      bits := if o + n = r.len then r.bits else 8, arr := r.arr, run := r.run, i0 := (r.off + o) * 8 / r.eb, i1 := r.i1, i2 := r.i2, i3 := r.i3,
      i4 := r.i4, index := r.index.map (fun k => if k < 2 then k else k + o * 8 / r.eb) })

/-- The element runs of a dense copy in stream order (R264); `bases` are what each destination adds to the destination view's addresses. -/
def elemRuns (src dst : View) (bases : List Int) : List Run :=
  src.runIdx.zipIdx.map (fun p =>
    let (i1, i2, i3, i4) := p.1
    { src := src.rowAddr i1 i2 i3 i4, dsts := bases.map (fun b => b + dst.rowAddr i1 i2 i3 i4), len := src.runBytes, lo := 0,
      bits := lastBits (Leg.ext0 src.prim * src.bits), arr := .elems, run := p.2, off := 0, eb := src.bits, i1 := i1, i2 := i2, i3 := i3, i4 := i4,
      index := none })

/-- The runs of the scale table along its own dimension 0 (R32, R264). -/
def scaleRuns (src dst : View) (bases : List Int) : List Run :=
  if Leg.scale src.prim = 0 then []
  else
    let (n0, n1) := src.scaleDims
    (List.range (n1 * src.dimN 2 * src.dimN 3 * src.dimN 4)).map (fun r =>
      { src := src.scaleAddr + (r * n0 : Nat), dsts := bases.map (fun b => b + dst.scaleAddr + (r * n0 : Nat)), len := n0, lo := 0, bits := 8,
        arr := .scales, run := noRun, off := 0, eb := 8, i1 := r % n1, i2 := r / n1 % src.dimN 2, i3 := r / (n1 * src.dimN 2) % src.dimN 3,
        i4 := r / (n1 * src.dimN 2 * src.dimN 3), index := none })

/-- One array of a sparse view as one run: bits `[b0, b1)` of the array at an anchor (R265). -/
def arrayRun (src dst : Int) (bases : List Int) (arr : ReqArr) (eb b0 b1 : Nat) : Run where
  src := src + (b0 / 8 : Nat)
  dsts := bases.map (fun b => b + dst + (b0 / 8 : Nat))
  len := if b1 ≤ b0 then 0 else ceilDiv b1 8 - b0 / 8
  lo := b0 % 8
  bits := lastBits b1
  arr := arr
  run := noRun
  off := b0 / 8
  eb := eb
  i1 := 0
  i2 := 0
  i3 := 0
  i4 := 0
  index := none

/-- The scale table of a sparse view as one run. -/
def sparseScale (s d : View) (bases : List Int) : List Run :=
  if s.scaleLen = 0 then [] else [arrayRun s.scaleAddr d.scaleAddr bases .scales 8 0 (8 * s.scaleLen)]

/-- The arrays whose length the legend fixes and that the rest of the copy depends on: pointers, offsets or bitmap rows (R265). -/
def sparseHead (s d : View) (bases : List Int) : List Run :=
  let sp := Leg.sparse s.prim
  if sp = 4 then [arrayRun s.aux0Addr d.aux0Addr bases .bitmap 8 0 (8 * (s.rows * s.bmpRow))]
  else if sp = 5 then
    [arrayRun (Leg.base s.prim) (Leg.base d.prim) bases .elems s.bits 0 (8 * (s.rows * s.vrow)),
      arrayRun s.aux0Addr d.aux0Addr bases .bitmap 8 0 (8 * (s.rows * s.mrow))]
  else [arrayRun s.aux0Addr d.aux0Addr bases .ptrs (8 * s.ptrB) 0 (8 * ((s.rows + 1) * s.ptrB))]

/-- The arrays behind the head: entries `p0` to `pn − 1` of a CSR, block-CSR or index-list view, `c` values of a bitmap, and the scale table (R265). -/
def sparseTail (s d : View) (bases : List Int) (p0 pn c : Nat) : List Run :=
  let sp := Leg.sparse s.prim
  let w := s.vblk * s.bits
  let ent : List Run :=
    if pn ≤ p0 then []
    else [arrayRun s.aux1Addr d.aux1Addr bases .idxs (8 * s.idxB) (8 * p0 * s.idxB) (8 * pn * s.idxB),
      arrayRun (Leg.base s.prim) (Leg.base d.prim) bases .elems s.bits (p0 * w) (pn * w)]
  let vals : List Run :=
    if sp = 4 then [arrayRun (Leg.base s.prim) (Leg.base d.prim) bases .elems s.bits 0 (c * s.bits)] else if sp = 5 then [] else ent
  vals ++ (if sp = 6 then [] else sparseScale s d bases)

/-- Where each destination of a command begins: 0 for the views of a load, a store or a gather; the working regions of the members of a multicast (R42, R241, R266). -/
def State.strBases (s : State) (c : CoreId) (m : MoveCmd) : List Int :=
  if m.kind ≠ .mcast then [0]
  else if m.gkind then ((s.dieGroup c m.grp).getD []).map (fun d => (depotAddr d : Int))
  else ((coreGroup c m.grp.toNat).getD []).map (fun d => ((clmAddr d + ((s.core d).sect.map (fun x => x.workOff)).getD 0 : Nat) : Int))

/-- The cores that take the member posts of a command (R267, R269). -/
def State.strMembers (s : State) (c : CoreId) (m : MoveCmd) : List CoreId :=
  if m.kind ≠ .mcast then [c]
  else
    let all : List CoreId :=
      if m.gkind then ((s.dieGroup c m.grp).getD []).flatMap (fun d => (fins 16).map (fun i => ⟨d, i⟩)) else (coreGroup c m.grp.toNat).getD []
    all.filter (fun d => decide (((s.core d).sect.map (fun x => x.part)) = ((s.core c).sect.map (fun x => x.part))))

/-! ### Gathers (R271 to R276) -/

/-- The index reads of off[0] and off[EXT1] (R272). -/
def offsetRuns (v : View) : List Run :=
  let one (k i : Nat) : Run := { arrayRun (v.aux0Addr + (i * v.ptrB : Nat)) 0 [] .ptrs (8 * v.ptrB) 0 (8 * v.ptrB) with off := i * v.ptrB, index := some k }
  [one 0 0, one 1 v.rows]

/-- The index reads of `n` indices from entry `off0` (R272). -/
def indexRun (v : View) (off0 n : Nat) : Run :=
  { arrayRun v.aux1Addr 0 [] .idxs (8 * v.idxB) (8 * off0 * v.idxB) (8 * (off0 + n) * v.idxB) with index := some 2 }

/-- The row transfers of gathered row `j` from table row `ix`: its value bytes and its scale bytes (R271). -/
def rowRuns (t d : View) (j ix : Nat) : List Run :=
  let n := ceilDiv (Leg.ext0 t.prim) t.blk
  let vals : Run :=
    { src := t.rowAddr ix 0 0 0, dsts := [d.rowAddr j 0 0 0], len := t.runBytes, lo := 0, bits := lastBits (Leg.ext0 t.prim * t.bits), arr := .elems,
      run := j, off := 0, eb := t.bits, i1 := j, i2 := 0, i3 := 0, i4 := 0, index := none }
  if Leg.scale t.prim = 0 then [vals]
  else [vals, { vals with src := t.scaleAddr + (ix * n : Nat), dsts := [d.scaleAddr + (j * n : Nat)], len := n, bits := 8, arr := .scales, eb := 8 }]

/-- Whether an index list or a queue source is strict (R275). -/
def MoveCmd.strict (m : MoveCmd) : Bool :=
  match m.idx with
  | some v => bit v.prim 195
  | none => m.sstrict

end Sys2Proof.Machine
end

