-- ==== Sys2Proof/Machine/Sync.lean ====
section
/-! DEFINITION. Semaphores, barriers, dispatch counters and queues: the commands of the signal-box queue, waits, timeouts, posts from outside, the stall detector and the power states of a core (R247 to R258, R294 to R334, R487). -/

namespace Sys2Proof.Machine

/-! ### Serving one command of the queue (R307 to R311) -/

/-- The value that a command brings back is on its way to its register (R339). -/
def State.owe (s : State) (c : CoreId) (seq : Nat) (rd : Fin 32) (v : Word) (k : Option (Fin 16)) : State :=
  s.modCore c (fun x => { x with results := x.results ++ [⟨seq, rd, v, k⟩] })

/-- The outstanding wait has reached the box (R311). -/
def State.waitArrive (s : State) (c : CoreId) (tgt : BitVec 32) : State :=
  s.modCore c (fun k => { k with wait := k.wait.map (fun w => { w with arrived := true, tgt := tgt }) })

/-- An error in a queue word: it counts at unit 7 of the die and in HEALTH (R301, R517, R521). -/
def State.queueUnc (s : State) (d : Fin 8) : State :=
  let s := s.modDie d (fun k => { k with ecc := vmod k.ecc 7 (fun e => { e with unc := satAdd e.unc 1 }) })
  let s := s.modPkg (fun p => { p with uncTotal := satAdd p.uncTotal 1 })
  let th := fldN s.pkg.eccCfg 16 16
  if th ≠ 0 ∧ s.pkg.uncTotal.toNat ≥ th then s.fatal 1 else s

/-- Take the oldest visible word of a queue with its check state, count a correction, and let a held push complete (R296, R300, R301). -/
def State.queueTake (s : State) (c : CoreId) (q : Fin 8) : State × Option (Word × WordEcc) :=
  let (w, x) := (s.queue c q).read
  match w with
  | none => (s, none)
  | some (v, e) =>
    let s := (s.modQueue c q (fun _ => { x with corr := if e = .corr then satAdd x.corr 1 else x.corr })).modCore c (fun k => { k with moved := true })
    let s := if e = .corr then s.countCorr c.die 7 else s
    (s.queueUnhold c q, some (v, e))

/-- Whether a stream of the core consumes a queue (R273). -/
def Core.consumes (k : Core) (q : Fin 8) : Bool :=
  k.slots.toList.any (fun x => match x.cmd with
    | some (_, _, m) => decide (m.queue = some q) && !x.gather.ended && decide (x.st = .running ∨ x.st = .paging)
    | none => false)

/-- `q.pop` at its queue (R296, R301). -/
def State.popServe (s : State) (c : CoreId) (seq : Nat) (pc : BitVec 32) (q : Fin 8) (gd : Fin 32) : State :=
  match s.queueTake c q with
  | (s, none) => s.owe c seq gd 0 none
  | (s, some (_, .unc)) => (s.queueUnc c.die).coreFault c ⟨0x0804, pc, BitVec.ofNat 32 q.val, 0, leBytes 1 4 ++ leBytes 1 c.die.val⟩
  | (s, some (w, _)) => s.owe c seq gd (w ||| at' 1 63) none

/-- `bar.arrive` at the box when ARR is clear (R322). -/
def State.arriveServe (s : State) (c : CoreId) (k : Fin 8) : State :=
  let s := s.modCore c (fun x => { x with bars := vmod x.bars k (fun b => { b with tgt := b.gen + 1, arr := true }) })
  match s.coreTask c with
  | some t => s.barCheck t k
  | none => s

/-- `dsp.take` at the dispatch unit (R248, R252): the retire comes first. -/
def State.takeServe (s : State) (c : CoreId) (seq : Nat) (k : Fin 16) (retire : Bool) (gd : Fin 32) : State :=
  let x := if retire then (s.dsp c.die k).retire c.core else s.dsp c.die k
  let (t, x) := x.take c.core
  (s.modDsp c.die k (fun _ => x.served c.core)).owe c seq gd (t.setWidth 64) (some k)

/-- The NEXT form of `dsp.set`: refused while a core holds a ticket or the requeue list is not empty (R250). -/
def State.nextServe (s : State) (c : CoreId) (pc : BitVec 32) (k : Fin 16) (v : BitVec 32) : State :=
  let x := s.dsp c.die k
  if x.requeue.isEmpty && x.held.toList.all List.isEmpty then s.modDsp c.die k (fun x => { x with next := v })
  else s.illegal c .dispatch pc (BitVec.ofNat 32 k.val)

/-- Serve one command of the signal-box queue: false when it must wait at the head of its queue (R297, R308, R322, R273). -/
def State.synServe (s : State) (c : CoreId) (seq : Nat) (pc : BitVec 32) (x : SynCmd) : State × Bool :=
  let out := s.pkg.pends.any (fun p => match p.who with | .st d _ => decide (d = c) | _ => false)
  match x with
  | .semAdd b n amt => if out then (s, false) else (s.semAdd ⟨c.die, b⟩ n amt, true)
  | .semSub b n amt => if out then (s, false) else (s.semSub ⟨c.die, b⟩ n amt, true)
  | .semWait b n tgt _ _ => ((s.waitArrive c tgt).serveSem ⟨c.die, b⟩ n, true)
  | .semTake b n tgt _ _ => ((s.waitArrive c tgt).serveSem ⟨c.die, b⟩ n, true)
  | .semRead b n gd => (s.owe c seq gd ((s.sem ⟨c.die, b⟩ n).setWidth 64) none, true)
  | .barArrive k => if out ∨ (vget (s.core c).bars k).arr then (s, false) else (s.arriveServe c k, true)
  | .barWait k _ _ =>
    let b := vget (s.core c).bars k
    let s := s.waitArrive c b.tgt
    (if serGe b.gen b.tgt then s.release c true else s, true)
  | .dspTake k retire gd => (s.takeServe c seq k retire gd, true)
  | .dspLimit k v => (s.modDsp c.die k (fun x => { x with limit := v }), true)
  | .dspNext k v => (s.nextServe c pc k v, true)
  | .dspRetire k => (s.modDsp c.die k (fun x => x.retire c.core), true)
  | .qPush q sop eop v =>
    let y := s.queue c q
    if y.full || !y.held.isEmpty then (s, false) else (s.queueWrite c q (pushWord (fld v 0 56) sop eop), true)
  | .qPop q gd => if (s.core c).consumes q then (s, false) else (s.popServe c seq pc q gd, true)

/-- The command at the head of a core's signal-box queue that can be served now. -/
def State.synHead (s : State) (c : CoreId) : Option (Nat × BitVec 32 × SynCmd) :=
  match (s.core c).qSyn with
  | .cmd n pc x :: rest => if ((s.modCore c (fun k => { k with qSyn := rest })).synServe c n pc x).2 then some (n, pc, x) else none
  | _ => none

/-- The step of one FCLK cycle in which a command is served (R252, R311): settings of counters, retires, takes, updates of semaphores, waits and takes on them, and what stands for itself; reads see the end of the cycle. -/
def SynCmd.stage : SynCmd → Nat
  | .dspLimit _ _ => 0
  | .dspNext _ _ => 0
  | .dspRetire _ => 1
  | .dspTake _ _ _ => 2
  | .semAdd _ _ _ => 3
  | .semSub _ _ _ => 3
  | .semWait _ _ _ _ _ => 4
  | .semTake _ _ _ _ _ => 4
  | .semRead _ _ _ => 6
  | _ => 5

/-- The semaphore that a command updates or waits for. -/
def SynCmd.semRef (d : Fin 8) : SynCmd → Option (CoreId × Fin 64)
  | .semAdd b n _ => some (⟨d, b⟩, n)
  | .semSub b n _ => some (⟨d, b⟩, n)
  | .semWait b n _ _ _ => some (⟨d, b⟩, n)
  | .semTake b n _ _ _ => some (⟨d, b⟩, n)
  | _ => none

/-- The takes of one counter in a cycle, after the retires that they carry (R252). -/
def State.takesServe (s : State) (d : Fin 8) (k : Fin 16) (hs : List (CoreId × Nat × BitVec 32 × SynCmd)) : State :=
  let ts := hs.filterMap (fun h => match h.2.2.2 with | .dspTake m r gd => if m = k then some (h.1.core, h.2.1, r, gd) else none | _ => none)
  if ts.isEmpty then s
  else
    let x := ts.foldl (fun (x : Dispatch) t => if t.2.2.1 then x.retire t.1 else x) (s.dsp d k)
    let (x, out) := x.takes (ts.map Prod.fst)
    ts.foldl (fun s t => s.owe ⟨d, t.1⟩ t.2.1 t.2.2.2 (((out.find? (fun o => o.1 = t.1)).map (fun o => o.2.setWidth 64)).getD 0) (some k))
      (s.modDsp d k (fun _ => x))

/-- The heads of the signal-box queues of several cores of a die, served in one FCLK cycle (R252, R311). -/
def State.synCycle (s : State) (d : Fin 8) (cores : List (Fin 16)) : State :=
  let hs := ((fins 16).filter (fun i => cores.contains i)).filterMap (fun i => (s.synHead ⟨d, i⟩).map (fun h => ((⟨d, i⟩ : CoreId), h)))
  let s := hs.foldl (fun s h => s.modCore h.1 (fun k => { k with qSyn := k.qSyn.drop 1 })) s
  let run (s : State) (n : Nat) : State :=
    (hs.filter (fun h => decide (h.2.2.2.stage = n))).foldl (fun s h => (s.synServe h.1 h.2.1 h.2.2.1 h.2.2.2).1) s
  let refs := (hs.filterMap (fun h => h.2.2.2.semRef d)).map (fun r => (r, s.sem r.1 r.2))
  let s := (fins 16).foldl (fun s k => s.takesServe d k hs) (run (run s 0) 1)
  let s := run (run (run (refs.foldl (fun s r => s.boxHold r.1.1 r.1.2) s) 3) 4) 5
  run (refs.foldl (fun s r => s.boxClose r.1.1 r.1.2 r.2) s) 6

/-- A command that does not hold the sequencer joins the signal-box queue, and the sequencer goes on (R20, R307). -/
def State.synIssue (s : State) (c : CoreId) (x : SynCmd) : State := (s.enqSyn c x).advance c 1

/-- A command that holds the sequencer until its wait ends joins the queue (R307); SBOX_STAT shows the wait from issue on (R316). -/
def State.synWait (s : State) (c : CoreId) (w : Wait) (x : SynCmd) : State := (s.modCore c (fun k => { k with wait := some w })).enqSyn c x

/-- The box that a `sem.*` names (R309). -/
def semBox (c : CoreId) (l : LayY) : Fin 16 := if l.die then l.core else c.core

/-- The amount or target (R306). -/
def semAmt (k : Core) (l : LayY) : BitVec 32 := if l.im then l.imm.setWidth 32 else fld (k.getG l.ra) 0 32

/-- A timeout (R306). -/
def tmo (k : Core) (r : Fin 32) : BitVec 32 := fld (k.getG r) 0 32

/-- `sem.add` (R303 to R311). -/
def execSemAdd (c : CoreId) (p : Fin 8) (l : LayY) (s : State) : Res :=
  s.issue (.semAdd c p l) c p (fun s => s.room c .syn) (fun s => s.synIssue c (.semAdd (semBox c l) l.sem (semAmt (s.core c) l)))

/-- `sem.sub` (R303 to R311). -/
def execSemSub (c : CoreId) (p : Fin 8) (l : LayY) (s : State) : Res :=
  s.issue (.semSub c p l) c p (fun s => s.room c .syn) (fun s => s.synIssue c (.semSub (semBox c l) l.sem (semAmt (s.core c) l)))

/-- `sem.wait` (R306, R307, R311). -/
def execSemWait (c : CoreId) (p : Fin 8) (l : LayY) (s : State) : Res :=
  s.issue (.semWait c p l) c p (fun s => s.room c .syn) (fun s =>
    let n := semAmt (s.core c) l
    let t := tmo (s.core c) l.rto
    s.synWait c ⟨1, l.sem, semBox c l, n, decide (t ≠ 0), l.pd, false⟩ (.semWait (semBox c l) l.sem n t l.pd))

/-- `sem.take` (R306, R307, R311, R312). -/
def execSemTake (c : CoreId) (p : Fin 8) (l : LayY) (s : State) : Res :=
  s.issue (.semTake c p l) c p (fun s => s.room c .syn) (fun s =>
    let n := semAmt (s.core c) l
    let t := tmo (s.core c) l.rto
    s.synWait c ⟨2, l.sem, semBox c l, n, decide (t ≠ 0), l.pd, false⟩ (.semTake (semBox c l) l.sem n t l.pd))

/-- `sem.read` (R306). -/
def execSemRead (c : CoreId) (p : Fin 8) (l : LayY) (s : State) : Res :=
  s.issue (.semRead c p l) c p (fun s => s.room c .syn) (fun s => s.synIssue c (.semRead (semBox c l) l.sem l.gd))

/-- `bar.arrive` (R322). -/
def execBarArrive (c : CoreId) (p : Fin 8) (l : LayB) (s : State) : Res :=
  s.issue (.barArrive c p l) c p (fun s => s.room c .syn) (fun s => s.synIssue c (.barArrive l.ch))

/-- `bar.wait` (R322). -/
def execBarWait (c : CoreId) (p : Fin 8) (l : LayB) (s : State) : Res :=
  s.issue (.barWait c p l) c p (fun s => s.room c .syn) (fun s =>
    let t := tmo (s.core c) l.rto
    s.synWait c ⟨3, Fin.ofNat 64 l.ch.val, c.core, (vget (s.core c).bars l.ch).tgt, decide (t ≠ 0), l.pd, false⟩ (.barWait l.ch t l.pd))

/-! ### Dispatch (R247 to R258) -/

/-- Whether an earlier take of the core on a counter has not returned (R249). -/
def Core.takeOut (k : Core) (n : Fin 16) : Bool :=
  k.results.any (fun r => decide (r.dsp = some n)) ||
    (k.qSyn.filterMap QItem.cmd?).any (fun x => match x with | .dspTake m _ _ => decide (m = n) | _ => false)

/-- Retires of a counter that a core has issued and that wait in its queue. -/
def Core.retiresOut (k : Core) (n : Fin 16) : Nat :=
  ((k.qSyn.filterMap QItem.cmd?).filter (fun x => match x with | .dspRetire m => decide (m = n) | _ => false)).length

/-- Tickets that the sequencer counts for its core on a counter (R249): those held less those whose retire it has issued. -/
def State.tickets (s : State) (c : CoreId) (n : Fin 16) : Nat := (vget (s.dsp c.die n).held c.core).length - (s.core c).retiresOut n

/-- The DISPATCH fault of a counter (R249, R250). -/
def State.dspFault (s : State) (c : CoreId) (n : Fin 16) : State := s.illegal c .dispatch (s.pcOf c) (BitVec.ofNat 32 n.val)

/-- `dsp.take` (R248, R249). -/
def execDspTake (c : CoreId) (p : Fin 8) (l : LayT) (s : State) : Res :=
  s.issue (.dspTake c p l) c p (fun s => s.room c .syn && !(s.core c).takeOut l.k) (fun s =>
    let n := s.tickets c l.k
    if (l.retire ∧ n = 0) ∨ (!l.retire ∧ n ≥ 4) then s.dspFault c l.k else s.synIssue c (.dspTake l.k l.retire l.gd))

/-- `dsp.set` LIMIT (R250). -/
def execDspSetLimit (c : CoreId) (p : Fin 8) (l : LayT) (s : State) : Res :=
  s.issue (.dspSetLimit c p l) c p (fun s => s.room c .syn) (fun s =>
    let v := (s.core c).getG l.ra
    if v.toNat > 0xFFFFFFFD then s.dspFault c l.k else s.synIssue c (.dspLimit l.k (v.setWidth 32)))

/-- `dsp.set` NEXT (R250). -/
def execDspSetNext (c : CoreId) (p : Fin 8) (l : LayT) (s : State) : Res :=
  s.issue (.dspSetNext c p l) c p (fun s => s.room c .syn) (fun s => s.synIssue c (.dspNext l.k (((s.core c).getG l.ra).setWidth 32)))

/-- `dsp.set` RETIRE (R249 to R251). -/
def execDspSetRetire (c : CoreId) (p : Fin 8) (l : LayT) (s : State) : Res :=
  s.issue (.dspSetRetire c p l) c p (fun s => s.room c .syn && !(s.core c).takeOut l.k) (fun s =>
    if s.tickets c l.k = 0 then s.dspFault c l.k else s.synIssue c (.dspRetire l.k))

/-! ### Agents outside the core (R305, R316, R317, R296, R328, R370, R374) -/

/-- Whether a host function exists and its link is up (R434, R435). -/
def State.fnUp (s : State) (f : Fin 9) : Bool := s.pkg.pcieUp && decide (f.val ≤ s.pkg.numVfs)

/-- Whether a memory request of the host reaches a function (R473). -/
def State.fnTlp (s : State) (f : Fin 9) : Bool := s.fnUp f && s.tlpOk f

/-- Whether a die belongs to a partition whose interface is locked, running or in error: the PF reaches none of its registers (R473). -/
def State.shielded (s : State) (d : Fin 8) : Bool :=
  match s.dieOwner d with
  | some n => decide (vget s.pkg.sec.tdi n ≠ .unlocked)
  | none => false

/-- Whether an agent reaches a register of a die: the PF, the VF of its owner, or a remote part inside the group's partition (R372, R374, R439, R473). -/
def State.reaches (s : State) (a : Agent) (d : Fin 8) : Bool :=
  match a with
  | .host f => if f = 0 then !s.shielded d else decide (((s.dieOwner d).bind s.vfOf) = some f)
  | .remote _ => decide (s.pkg.grp.role ≠ 0) && s.ownsDie s.pkg.grp.part d

/-- Whether an agent's access to a register outside the always-on window arrives at all: BAR0 ignores it below EARLY (R441), and Rail carries it at FULL (R500). -/
def State.arrives (s : State) (a : Agent) : Bool :=
  match a with
  | .host f => s.fnTlp f && decide (2 ≤ s.pkg.level.toNat)
  | .remote _ => s.pkg.railUp && decide (s.pkg.level = 3#2)

/-- An access of a host function outside its bounds counts in FN_STAT (R439). -/
def State.agentMiss (s : State) (a : Agent) : State :=
  match a with
  | .host f => s.modPkg (fun p => { p with fns := vmod p.fns f (fun x => { x with bounds := satAdd x.bounds 1 }) })
  | .remote _ => s

/-- A host write to DSPn_CTL (R258, R526): not performed, and counted, while the die's partition runs a task; not performed with a LIMIT above 0xFFFFFFFD. -/
def State.dspCtlWrite (s : State) (f : Fin 9) (d : Fin 8) (k : Fin 16) (v : Word) : State :=
  let busy : Bool := match s.dieOwner d with | some n => (s.taskOf n).isSome | none => false
  if !s.arrives (.host f) then s
  else if !s.reaches (.host f) d || busy then s.agentMiss (.host f)
  else if fldN v 32 32 > 0xFFFFFFFD ∨ (s.die d).resetting ∨ !s.hasDie d then s
  else s.modDsp d k (fun x => { x with next := fld v 0 32, limit := fld v 32 32 })

/-- A host write to DSPn_CTL: ignored while the die's partition runs a task, and with a LIMIT above 0xFFFFFFFD (R258, R526). -/
def execDspCtlHostWrite (f : Fin 9) (d : Fin 8) (k : Fin 16) (v : Word) (s : State) : Res :=
  .next (s.dspCtlWrite f d k v)

/-! ### Queues (R294 to R302) -/

/-- `q.push` (R296, R297). -/
def execQPush (c : CoreId) (p : Fin 8) (l : LayQ) (s : State) : Res :=
  s.issue (.qPush c p l) c p (fun s => s.room c .syn) (fun s => s.synIssue c (.qPush l.q l.sop l.eop ((s.core c).getG l.ra)))

/-- `q.pop` (R296, R300). -/
def execQPop (c : CoreId) (p : Fin 8) (l : LayQ) (s : State) : Res :=
  s.issue (.qPop c p l) c p (fun s => s.room c .syn) (fun s => s.synIssue c (.qPop l.q l.gd))

/-! ### Ports -/

/-- What a port write does: the die is reached, exists (R525), and is not in reset; BAR0 ignores writes to the window of a Collapsed core (R488). -/
def State.portDo (s : State) (a : Agent) (d : Fin 8) (c : Option (Fin 16)) (f : State → State) : State :=
  let far := match a with | .remote _ => true | .host _ => false
  let asleep := match c with | some i => decide ((s.core ⟨d, i⟩).pstate = .collapsed) | none => false
  if !s.arrives a then s
  else if !s.reaches a d then s.agentMiss a
  else if !s.hasDie d || (s.die d).resetting || (asleep && !far) then s
  else f s

/-- A port write as a command. -/
def State.portWrite (s : State) (a : Agent) (d : Fin 8) (c : Option (Fin 16)) (f : State → State) : Res := .next (s.portDo a d c f)

/-- A BAR0 write of a host function that is not performed for its size or alignment (R439). -/
def State.badWr (s : State) (a : Agent) : State :=
  match a with
  | .host f => s.modPkg (fun p => { p with fns := vmod p.fns f (fun x => { x with badwr := satAdd x.badwr 1 }) })
  | .remote _ => s

/-- What a write to SEMPOSTn does. A narrow or misaligned one counts in BADPOST, and in BADWR of a host function (R316, R317, R439). -/
def State.postWrite (s : State) (c : CoreId) (n : Fin 64) (w : PostAt) : State :=
  s.portDo w.agent c.die (some c.core) (fun s =>
    if w.full then s.semPost c n (w.amt.setWidth 64 ||| (if w.sub then at' 1 32 else 0)) else (s.badWr w.agent).badPost c)

/-- The writes to SEMPOSTn that reach the box in one FCLK cycle: they combine into one update (R311). -/
def State.postCycle (s : State) (c : CoreId) (n : Fin 64) (w : PostAt) (others : List PostAt) : State :=
  if others.isEmpty then s.postWrite c n w
  else ((w :: others).foldl (fun s w => s.postWrite c n w) (s.boxHold c n)).boxClose c n (s.sem c n)

/-- A write to SEMPOSTn with SUB = 0, with the other writes to the port of its FCLK cycle (R311, R316, R317). -/
def execSempostAdd (a : Agent) (c : CoreId) (n : Fin 64) (full : PostForm) (amt : BitVec 32) (s : State) : Res :=
  .next (s.postCycle c n ⟨a, full.full, false, amt⟩ full.others)

/-- A write to SEMPOSTn with SUB = 1, with the other writes to the port of its FCLK cycle (R311, R316, R317). -/
def execSempostSub (a : Agent) (c : CoreId) (n : Fin 64) (full : PostForm) (amt : BitVec 32) (s : State) : Res :=
  .next (s.postCycle c n ⟨a, full.full, true, amt⟩ full.others)

/-- A write to QPUSHq; a narrow or misaligned one counts in BADPUSH (R296, R297). -/
def execQueuePushPortWrite (a : Agent) (c : CoreId) (q : Fin 8) (full : Bool) (v : Word) (s : State) : Res :=
  s.portWrite a c.die (some c.core) (fun s =>
    if full then s.queuePush c q (portWord v) else (s.badWr a).modQueue c q (fun x => { x with badpush := satAdd x.badpush 1 }))

/-- A write to a release register (R328); a remote part reaches none (R374). -/
def execPoolRelease (a : Agent) (t : PoolAt) (v : Word) (s : State) : Res :=
  let (d, c) : Fin 8 × Option (Fin 16) := match t with | .clm c _ => (c.die, some c.core) | .depot d _ => (d, none)
  let far := match a with | .remote _ => true | .host _ => false
  s.portWrite a d c (fun s =>
    if far then s
    else match t with
      | .clm c i => s.clmPoolRelease c i.val v
      | .depot d i => s.depotPoolRelease d i.val v)

/-! ### Timeouts and the stall detector (R314, R315, R330, R331) -/

/-- The deadline cycle of a timed wait (R315): every update of the cycle has taken effect; a wait whose condition then holds is released with `pd` 1, and only one whose condition fails with 0. -/
def State.deadline (s : State) (c : CoreId) (w : Wait) : State :=
  let b : CoreId := ⟨c.die, w.core⟩
  if w.kind = 3 then s.release c (serGe (vget (s.core c).bars (Fin.ofNat 8 w.sem.val)).gen w.tgt)
  else
    if serGe (s.sem b w.sem) w.tgt then s.serveSem b w.sem
    else s.release c false

/-- The deadline cycle of a core's wait (R314, R315). -/
def execWaitTimeout (c : CoreId) (s : State) : Res :=
  if !s.hasDie c.die then .next s
  else
    match (s.core c).wait with
    | some w => if w.timed ∧ w.arrived then .next (s.deadline c w) else .next s
    | none => .next s

/-- Semaphores on which a closed fence marker or a ROWSEM test is held (R331). -/
def Core.heldSems (k : Core) : List (Fin 64) :=
  engines.filterMap (fun e => match k.marker e with
    | some (n, .sem m t) => if k.fenceHolds e n (.sem m t) then none else some m
    | _ => none) ++
    k.jx.bag.toList.filterMap (fun b => if k.rowsIn b then none else some b.rowsem)

/-- A mask of slots. -/
def Core.slotMask (k : Core) (f : Slot → Bool) : Nat := (fins 16).foldl (fun n i => n + (f (vget k.slots i)).toNat * 2 ^ i.val) 0

/-- The payload of a STALL record (R331, R513). -/
def Core.stallPayload (k : Core) : List Byte :=
  let (n, kd, sm, co) : Nat × Nat × Nat × Nat := match k.wait with
    | some w => (w.tgt.toNat, w.kind.toNat, w.sem.val, w.core.val)
    | none => (0, 0, 0, 0)
  leBytes 4 n ++ leBytes 1 kd ++ leBytes 1 sm ++ leBytes 1 co ++ leBytes 1 0 ++
    leBytes 8 ((fins 64).foldl (fun m i => m + (k.heldSems.contains i).toNat * 2 ^ i.val) 0) ++
    leBytes 2 (k.slotMask (fun x => decide (x.st = .paging))) ++ leBytes 2 (k.slotMask Slot.poolWait)

/-- A core has done nothing of R330 for STALL_LIMIT cycles: it raises STALL (R330, R331). -/
def execStall (c : CoreId) (s : State) : Res :=
  if !s.hasDie c.die then .next s
  else
    let k := s.core c
    if k.isStalled then .next (s.coreFault c ⟨0x0600, k.pc, 0, 0, k.stallPayload⟩)
    else .next s

/-! ### Power states of a core (R332 to R334, R487, R488) -/

/-- A core that has waited WAIT_LEND with LEND_EN = 1 enters Gated (R333). -/
def execCoreGate (c : CoreId) (s : State) : Res :=
  if !s.hasDie c.die then .next s
  else
    let k := s.core c
    if k.waiting ∧ bit k.waitCfg 48 ∧ fldN k.waitCfg 32 16 ≤ k.waited ∧ k.pstate = .run then .next (s.modCore c (fun k => { k with pstate := .gated }))
    else .next s

/-- A Gated core wakes: its wait was released, a marker opens or a command reached a CCLK unit (R334). -/
def execCoreWake (c : CoreId) (s : State) : Res :=
  if !s.hasDie c.die then .next s
  else
    let k := s.core c
    if k.pstate = .gated ∧ k.wakes then .next (s.wakeCore c) else .next s

/-- What a Collapsed core keeps: its CLM (R487), and the registers of its block, which keep their values from one task to the next (R535). -/
def Core.collapse (k : Core) : Core :=
  { Core.reset with
    tsrCount := k.tsrCount, flagsSum := k.flagsSum, slots := k.slots, lead := k.lead, sems := k.sems, semQ := k.semQ, badPost := k.badPost
    bars := k.bars, queues := k.queues, pools := k.pools, fring := k.fring
    waitCfg := k.waitCfg, routeCsr := k.routeCsr, routeB8 := k.routeB8, routeB16 := k.routeB16, routeBmp := k.routeBmp, routeDot := k.routeDot
    own := k.own, pstate := .collapsed }

/-- A core without a section that has been idle for 100 µs enters Collapsed (R487); while the VIN domain is in reset it is Off. -/
def execCoreCollapse (c : CoreId) (s : State) : Res :=
  if !s.hasDie c.die then .next s
  else
    let k := s.core c
    if k.sect.isNone ∧ k.pstate = .run ∧ !k.resetting ∧ !s.pkg.pins.held then .next (s.modCore c Core.collapse) else .next s

/-- A Collapsed core wakes for an access or a placement (R487, R488). -/
def execCoreUncollapse (c : CoreId) (s : State) : Res :=
  if !s.hasDie c.die then .next s
  else
    let k := s.core c
    if k.pstate = .collapsed then .next (s.wakeCore c) else .next s

end Sys2Proof.Machine
end

