-- ==== Sys2Proof/Machine/StrMove.lean ====
section
/-! DEFINITION. How a stream slot moves its transfers: planning, outstanding transfers, pools, translation, remote messages, delivery, posts and completion (R264 to R291, R327, R376, R395). -/

namespace Sys2Proof.Machine

/-! ### Slots -/

/-- A stream slot of a core. -/
def State.slot (s : State) (c : CoreId) (n : Fin 16) : Slot := vget (s.core c).slots n

/-- Change a stream slot. -/
def State.modSlot (s : State) (c : CoreId) (n : Fin 16) (f : Slot → Slot) : State :=
  s.modCore c (fun k => { k with slots := vmod k.slots n f })

/-- A slot at its Reset column, with its regulator as it stands (R282, R293). -/
def Slot.cleared (x : Slot) : Slot := { Slot.reset with rate := x.rate, burst := x.burst, bucket := x.bucket }

/-- Put a transfer among those that wait to be issued again, in ascending order. -/
def xferIns (x : Xfer) : List Xfer → List Xfer
  | [] => [x]
  | y :: ys => if x.no < y.no then x :: y :: ys else y :: xferIns x ys

/-- The number of the oldest transfer that is not delivered (R278). -/
def Slot.oldest (x : Slot) : Nat := ((x.out ++ x.redo).map Xfer.no).foldl Nat.min x.next

/-- The ARRAY code of R293. -/
def ReqArr.code : ReqArr → BitVec 3
  | .elems => 0 | .ptrs => 1 | .idxs => 2 | .bitmap => 3 | .scales => 4

/-- The saved position of a slot with nothing outstanding (R288, R290, R293). -/
def Slot.save (x : Slot) : Slot :=
  let t := (x.redo.head?.map Xfer.no).getD x.next
  let left := x.redo.map Xfer.no
  let x := { x with resumeNo := t, saved := ((List.range (x.next - t - 1)).map (fun i => t + 1 + i)).filter (fun i => !left.contains i) }
  match ((x.redo.head?.bind (fun y => y.reqs.head?)).orElse (fun _ => x.merge.head?)).orElse (fun _ => x.plan.head?) with
  | some r =>
    { x with i0 := BitVec.ofNat 20 r.i0, i1 := BitVec.ofNat 32 r.i1, i2 := BitVec.ofNat 20 r.i2, i3 := BitVec.ofNat 20 r.i3,
             i4 := BitVec.ofNat 20 r.i4, array := r.arr.code }
  | none => { x with i0 := 0, i1 := BitVec.ofNat 32 x.gather.next, i2 := 0, i3 := 0, i4 := 0, array := 0 }

/-! ### Planning (R264, R265, R271 to R276) -/

/-- Plan the next gathered row whose index has arrived: an index at or beyond DST's EXT1 fails the stream, one out of TBL's range is skipped or fails it (R274 to R276). -/
def Slot.planRow (x : Slot) (m : MoveCmd) : Nat → Slot
  | 0 => x
  | fuel + 1 =>
    if !x.plan.isEmpty || x.failing.isSome then x
    else
      match x.gather.idx with
      | [] => x
      | (j, ix) :: rest =>
        let total := match m.queue, x.gather.off0, x.gather.offN with
          | none, some a, some b => b - a
          | _, _, _ => 0
        let g := { x.gather with idx := rest, next := j + 1, rows := j + 1, ended := x.gather.ended || (m.queue.isNone && decide (j + 1 = total)) }
        let stop (cause : BitVec 5) : Slot := if x.merge.isEmpty && x.redo.isEmpty then { x with failing := some (cause, 0) } else x
        if j ≠ x.gather.next then x
        else if j ≥ Leg.ext1 m.dst.prim then stop 8
        else if ix ≥ Leg.ext1 m.src.prim then
          (if m.strict then stop 7
           else ({ x with irange := satAdd x.irange 1, first := if x.first = 0xFFFFFFFF then BitVec.ofNat 32 j else x.first,
                          gather := g, runs := x.runs ++ [(j, 0, 0)] } : Slot).planRow m fuel)
        else
          let rs := (rowRuns m.src m.dst j ix).flatMap Run.reqs
          { x with plan := rs, gather := g, runs := x.runs ++ [(j, rs.length, 0)] }

/-- Plan rows of a gather as far as indices have arrived. -/
def Slot.planRows (x : Slot) (m : MoveCmd) : Slot := if x.st = .running then x.planRow m (x.gather.idx.length + 1) else x

/-- Whether bytes lie in the memory of this part. -/
def State.isNear (s : State) (a : Nat) : Bool :=
  match s.devAddr a with
  | .loc x => (match s.region x with | .host _ => false | _ => true)
  | _ => false

/-- What the copy of a sparse view needs from its head: the first and the last pointer, and the values of a bitmap (R265). -/
def State.headFacts (s : State) (v : View) : Nat × Nat × Nat :=
  if Leg.sparse v.prim = 4 then (0, 0, s.bmpCount v) else (s.ptrAt v 0, s.ptrAt v v.rows, 0)

/-- The byte ranges that the engine reads before it copies a sparse view from memory of the part (R265). -/
def headReads (v : View) : List (Nat × Nat) :=
  if Leg.sparse v.prim = 4 then [(v.aux0Addr.toNat, v.rows * v.bmpRow)]
  else [(v.aux0Addr.toNat, v.ptrB), ((v.aux0Addr + (v.rows * v.ptrB : Nat)).toNat, v.ptrB)]

/-- What a command has to move when it begins. -/
structure Plan where
  runs : List Run
  ended : Bool
  failing : Option (BitVec 5 × Nat)
deriving DecidableEq, Repr

/-- The plan of a command as it begins (R264, R265, R272, R273). -/
def State.planOf (s : State) (c : CoreId) (m : MoveCmd) : State × Plan :=
  let bases := s.strBases c m
  let sp := Leg.sparse m.src.prim
  match m.kind, m.idx with
  | .gather, some v => (s, ⟨offsetRuns v, false, none⟩)
  | .gather, none => (s, ⟨[], decide (m.count = 0), none⟩)
  | _, _ =>
    if sp = 0 then (s, ⟨elemRuns m.src m.dst bases ++ scaleRuns m.src m.dst bases, true, none⟩)
    else if sp = 5 then (s, ⟨sparseHead m.src m.dst bases ++ sparseScale m.src m.dst bases, true, none⟩)
    else
      let v := s.localView m.src
      let head := sparseHead m.src m.dst bases
      if !s.isNear (addr64 m.src.aux0Addr) then (s, ⟨head, false, none⟩)
      else
        let rs := headReads v
        match rs.find? (fun r => !s.inBounds (s.strPart c) r.1 r.2) with
        | some r => (s, ⟨head, false, some (3, r.1)⟩)
        | none =>
          let (s, e) := (rs.foldl (fun s r => s.wakeFor r.1) s).eccRead rs
          match e.poison with
          | some a => (s, ⟨head, false, some (5, a)⟩)
          | none => let (p0, pn, n) := s.headFacts v; (s, ⟨head ++ sparseTail m.src m.dst bases p0 pn n, true, none⟩)

/-- The rest of a copy whose sparse source lies outside the part, read from the head that has arrived (R265). -/
def State.planRest (s : State) (c : CoreId) (n : Fin 16) (m : MoveCmd) : State :=
  let x := s.slot c n
  if m.kind ≠ .gather ∧ !x.gather.ended ∧ x.st = .running ∧ x.failing.isNone ∧ x.plan.isEmpty ∧ x.merge.isEmpty ∧ x.redo.isEmpty ∧ x.out.isEmpty then
    let bases := s.strBases c m
    let d : View := { m.dst with prim := setFld m.dst.prim 0 64 (addr64 ((Leg.base m.dst.prim : Int) + bases.headD 0)) }
    let (p0, pn, k) := s.headFacts (s.localView d)
    s.modSlot c n (fun x => { x with plan := (sparseTail m.src m.dst bases p0 pn k).flatMap Run.reqs, gather := { x.gather with ended := true } })
  else s

/-! ### Posts and completion (R267 to R269, R288) -/

/-- Whether the next progress unit may be posted: complete with every earlier one, and, while the slot pauses or fails, wholly before its oldest undelivered transfer (R268, R288). -/
def Slot.unitReady (x : Slot) (m : MoveCmd) : Bool :=
  let lo := x.posts * m.pgran
  let hi := Nat.min (lo + m.pgran) x.gather.rows
  let paused := decide (x.st ≠ .running) || x.failing.isSome
  decide (lo < x.gather.rows) && (decide (lo + m.pgran ≤ x.gather.rows) || (x.gather.ended && x.gather.idx.isEmpty)) &&
    x.runs.all (fun r => decide (r.1 < lo ∨ hi ≤ r.1) || (decide (r.2.1 = 0) && (!paused || decide (r.2.2 ≤ x.oldest))))

/-- Post the progress units that are complete, in order (R268, R269). -/
def State.unitPosts (s : State) (c : CoreId) (n : Fin 16) (m : MoveCmd) : Nat → State
  | 0 => s
  | fuel + 1 =>
    let x := s.slot c n
    if m.prog.isSome && x.unitReady m then
      let s := (s.strMembers c m).foldl (fun s d => s.post d m.prog) s
      (s.modSlot c n (fun x => { x with posts := x.posts + 1, runs := x.runs.filter (fun r => decide ((x.posts + 1) * m.pgran ≤ r.1)) })).unitPosts c n m fuel
    else s

/-- Whether every byte of the command has been delivered. -/
def Slot.whole (x : Slot) : Bool :=
  x.gather.ended && x.gather.idx.isEmpty && x.plan.isEmpty && x.merge.isEmpty && x.redo.isEmpty && x.out.isEmpty

/-- What follows from the state of a slot at once: the plan of rows whose index is known, progress posts, completion with its posts, and the end of an abort (R267 to R269, R289). -/
def State.settle (s : State) (c : CoreId) (n : Fin 16) : State :=
  match (s.slot c n).cmd with
  | none => if (s.slot c n).st = .aborting ∧ (s.slot c n).out.isEmpty then s.modSlot c n Slot.cleared else s
  | some (_, _, m) =>
    let s := s.modSlot c n (fun x => x.planRows m)
    let s := s.unitPosts c n m ((s.slot c n).runs.length + 1)
    let s := s.planRest c n m
    let x := s.slot c n
    if x.st = .running ∧ x.failing.isNone ∧ x.whole then
      let s := (s.strMembers c m).foldl (fun s d => s.post d m.msem) s
      (s.modSlot c n (fun x => { x with st := .idle, cmd := none, runs := [], gather := GatherSt.reset, poolWait := false })).post c m.done
    else s

/-- Complete the ATS Invalidate Requests whose transfers have all ended (R377). -/
def State.invalSweep (s : State) : State :=
  if s.pkg.invals.isEmpty then s
  else
    let left := s.pkg.invals.map (fun i => (i.1, i.2.1, i.2.2.filter (fun u => (s.slot u.1 u.2.1).out.any (fun x => decide (x.no = u.2.2)))))
    (left.filter (fun i => i.2.2.isEmpty)).foldl (fun s i => s.send (.invalidateComplete i.1 i.2.1))
      (s.modPkg (fun p => { p with invals := left.filter (fun i => !i.2.2.isEmpty) }))

/-! ### Failures of transfers (R287, R288, R290) -/

/-- A transfer whose answer no longer counts: what it still waits for is forgotten. -/
def State.forget (s : State) (c : CoreId) (n : Fin 16) (t : Nat) : State :=
  s.modPkg (fun p =>
    { p with
      pends := p.pends.map (fun q => match q.who with
        | .writes d k ts => if d = c ∧ k = n then { q with who := .writes d k (ts.filter (fun u => u ≠ t)) } else q
        | .read d k u => if d = c ∧ k = n ∧ u = t then { q with who := .writes d k [] } else q
        | _ => q)
      opens := p.opens.map (fun o => if o.c = c ∧ o.n = n then { o with ts := o.ts.filter (fun u => u ≠ t) } else o) })

/-- A failure of an abandoned stream of a core that has faulted: it adds 1 to SUPPRESSED, once (R514). -/
def State.lateFail (s : State) (c : CoreId) (n : Fin 16) : State :=
  if (s.slot c n).lateFault && (s.core c).fring.faulted then
    (s.modCore c (fun k => { k with fring := { k.fring with suppressed := satAdd k.fring.suppressed 1 } })).modSlot c n (fun x => { x with lateFault := false })
  else s

/-- An outstanding transfer fails with a cause: the stream issues no further transfer (R288). -/
def State.xferFail (s : State) (c : CoreId) (n : Fin 16) (t : Nat) (cause : BitVec 5) (a : Nat) : State :=
  match (s.slot c n).out.find? (fun x => x.no = t) with
  | none => s
  | some x =>
    let s := (s.forget c n t).lateFail c n
    ((s.modSlot c n (fun k =>
      let k := { k with out := k.out.filter (fun y => y.no ≠ t) }
      if k.cmd.isNone then k
      else { k with redo := xferIns { x with ats := false, owed := 0 } k.redo, failing := k.failing.orElse (fun _ => some (cause, a)) })).settle c n).invalSweep

/-- An outstanding transfer host-faults: the slot pauses (R290). -/
def State.xferHostFault (s : State) (c : CoreId) (n : Fin 16) (t : Nat) : State :=
  match (s.slot c n).out.find? (fun x => x.no = t) with
  | none => s
  | some x =>
    let h := s.fn (s.fnOf (s.strPart c))
    let s := if h.ats && h.pri then s else s.lateFail c n
    ((s.modSlot c n (fun k =>
      let k := { k with out := k.out.filter (fun y => y.no ≠ t) }
      if k.cmd.isNone then k
      else { k with redo := xferIns { x with ats := false, owed := 0, hostFault := true } k.redo,
                    st := if k.st = .running ∧ k.failing.isNone then .paging else k.st })).settle c n).invalSweep

/-! ### Delivery (R267, R277, R379) -/

/-- A byte with the bits outside `[lo, hi)` taken from another. -/
def mixByte (free b : Byte) (lo hi : Nat) : Byte :=
  let mask : Byte := BitVec.ofNat 8 ((2 ^ hi - 1) - (2 ^ lo - 1))
  (b &&& mask) ||| (free &&& ~~~mask)

/-- Write the bytes of a request to memory of the part, leaving bits outside the view unchanged (R56, R264). The whole bytes are one write, so a unit that they cover is written whole (R379). -/
def State.putBits (s : State) (a lo bits : Nat) (bs : List Byte) : State :=
  match bs with
  | [b] => if lo = 0 ∧ bits = 8 then s.memWrite a [b] else s.memBits a lo (bits - lo) (b.toNat / 2 ^ lo)
  | _ =>
    let h := if lo = 0 then 0 else 1
    let e := if bits = 8 then 0 else 1
    let s := if h = 0 then s else s.memBits a lo (8 - lo) ((bs.headD 0).toNat / 2 ^ lo)
    let s := s.memWrite (a + h) ((bs.drop h).take (bs.length - h - e))
    if e = 0 then s else s.memBits (a + bs.length - 1) 0 bits (bs.getLastD 0).toNat

/-- Bytes for a destination outside the part: the bits that the view does not cover go out as they stand there, so that the write leaves them unchanged (R56). DEDUCED (log 25): what stands there is no part of State, so it is free. -/
def State.coverBits (s : State) (a lo bits : Nat) (bs : List Byte) : State × List Byte :=
  if lo = 0 ∧ bits = 8 then (s, bs)
  else
    let (f, s) := s.spend
    let n := bs.length
    (s, bs.zipIdx.map (fun p => mixByte (Config.standing f (a + p.2)) p.1 (if p.2 = 0 then lo else 0) (if p.2 + 1 = n then bits else 8)))

/-- Write the bytes of a request to one destination; a remote one has been sent already. -/
def State.putReq (s : State) (c : CoreId) (trans : List (Nat × Nat)) (r : Req) (d : Nat) (bs : List Byte) : State :=
  match s.devAddr d with
  | .loc a =>
    (match s.region a with
     | .host ha => let (s, bs) := s.coverBits d r.lo r.bits bs; s.hostReq (s.fnOf (s.strPart c)) trans ha bs.length (some bs)
     | _ => (s.wakeFor a).putBits a r.lo r.bits bs)
  | _ => s

/-- Insert indices that have arrived in ascending order. -/
def idxIns (p : Nat × Nat) : List (Nat × Nat) → List (Nat × Nat)
  | [] => [p]
  | q :: qs => if p.1 < q.1 then p :: q :: qs else q :: idxIns p qs

/-- The bytes of an index read as they arrive (R272): off[0], off[EXT1] or indices from an entry. -/
def Slot.takeIndex (x : Slot) (m : MoveCmd) (k : Nat) (bs : List Byte) : Slot :=
  match m.idx with
  | none => x
  | some v =>
    if k < 2 then
      let g := if k = 0 then { x.gather with off0 := some (ofLE bs) } else { x.gather with offN := some (ofLE bs) }
      match g.off0, g.offN with
      | some a, some b =>
        { x with gather := { g with ended := decide (b ≤ a) }, plan := x.plan ++ (if b ≤ a then [] else (indexRun v a (b - a)).reqs) }
      | _, _ => { x with gather := g }
    else
      let w := v.idxB
      { x with gather := { x.gather with
          idx := (List.range (bs.length / w)).foldl (fun l i => idxIns (k - 2 + i, ofLE ((bs.drop (i * w)).take w)) l) x.gather.idx } }

/-- A delivered request in the books of its slot: the bytes delivered, its progress run, its index (R268, R272, R293). -/
def Slot.credit (x : Slot) (r : Req) (bs : List Byte) : Slot :=
  match r.index, x.cmd with
  | some k, some (_, _, m) => x.takeIndex m k bs
  | some _, none => x
  | none, _ =>
    { x with bytes := x.bytes + BitVec.ofNat 48 r.len, runs := x.runs.map (fun e => if e.1 = r.run then (e.1, e.2.1 - 1, e.2.2) else e) }

/-- A transfer is delivered: `data` are the bytes that it read, from the lowest requested one (R277). -/
def State.deliver (s : State) (c : CoreId) (n : Fin 16) (t : Nat) (data : List Byte) : State :=
  match (s.slot c n).out.find? (fun x => x.no = t) with
  | none => s
  | some x =>
    let s := x.reqs.foldl (fun s r =>
      let bs := (data.drop (r.src - x.lo)).take r.len
      let s := r.dsts.foldl (fun s d => s.putReq c x.trans r d bs) s
      s.modSlot c n (fun k => k.credit r bs)) s
    ((s.modSlot c n (fun k => { k with out := k.out.filter (fun y => y.no ≠ t) })).settle c n).invalSweep

/-- Read the source of a transfer from memory of the part; an uncorrectable error in a requested byte is poison (R379). -/
def State.readNear (s : State) (x : Xfer) : State × Option (List Byte) :=
  match s.devAddr x.lo with
  | .loc a =>
    let (s, _) := (s.wakeFor a).eccRead [(a, x.span)]
    let (s, e) := s.eccRead (x.reqs.map (fun r => (a + (r.src - x.lo), r.len)))
    if e.poison.isSome then (s, none) else (s, some (s.mem.read a x.span))
  | _ => (s, some [])

/-! ### Remote messages (R395) -/

/-- A slot's open WRITE message. -/
def State.openOf (s : State) (c : CoreId) (n : Fin 16) : Option OpenMsg := s.pkg.opens.find? (fun o => decide (o.c = c ∧ o.n = n))

/-- Close a slot's open message and send it; an unroutable one fails its transfers with REMOTE_LOSS (R395). -/
def State.closeMsg (s : State) (c : CoreId) (n : Fin 16) : State :=
  match s.openOf c n with
  | none => s
  | some o =>
    let s := s.modPkg (fun p => { p with opens := p.opens.filter (fun q => !decide (q.c = c ∧ q.n = n)) })
    match s.request o.part 3 o.addr o.bytes.length o.bytes (.writes c n o.ts) with
    | (s, true) => s
    | (s, false) => o.ts.foldl (fun s t => s.xferFail c n t 6 (2 ^ 63 + 2 ^ 48 * o.part.toNat + o.addr)) s

/-- Count a message that carries a transfer. -/
def State.oweMsg (s : State) (c : CoreId) (n : Fin 16) (t : Nat) : State :=
  s.modSlot c n (fun k => { k with out := k.out.map (fun y => if y.no = t then { y with owed := y.owed + 1 } else y) })

/-- Join bytes of a transfer to the slot's message: it grows while they are contiguous, up to 4,096 bytes (R395). -/
def State.joinMsg (s : State) (c : CoreId) (n : Fin 16) (part : BitVec 12) (t : Nat) : Nat → Nat → List Byte → State
  | 0, _, _ => s
  | fuel + 1, a, bs =>
    if bs.isEmpty then s
    else
      match s.openOf c n with
      | none =>
        let s := s.modPkg (fun p => { p with opens := p.opens ++ [⟨c, n, part, a, bs.take 4096, [t]⟩] })
        let s := s.oweMsg c n t
        if bs.length ≥ 4096 then (s.closeMsg c n).joinMsg c n part t fuel (a + 4096) (bs.drop 4096) else s
      | some o =>
        if o.part = part ∧ o.addr + o.bytes.length = a then
          let room := 4096 - o.bytes.length
          let s := if o.ts.contains t then s else s.oweMsg c n t
          let s := s.modPkg (fun p => { p with opens := p.opens.map (fun q => if q.c = c ∧ q.n = n then
            { q with bytes := q.bytes ++ bs.take room, ts := if q.ts.contains t then q.ts else q.ts ++ [t] } else q) })
          if bs.length ≥ room then (s.closeMsg c n).joinMsg c n part t fuel (a + room) (bs.drop room) else s
        else (s.closeMsg c n).joinMsg c n part t fuel a bs

/-- The acknowledgement of a message that carried transfers: one that no other message carries is delivered (R395). -/
def State.ackWrites (s : State) (c : CoreId) (n : Fin 16) (ts : List Nat) : State :=
  ts.foldl (fun s t =>
    let s := s.modSlot c n (fun k => { k with out := k.out.map (fun y => if y.no = t then { y with owed := y.owed - 1 } else y) })
    match (s.slot c n).out.find? (fun x => x.no = t) with
    | some x => if x.owed = 0 then s.deliver c n t [] else s
    | none => s) s

/-! ### Issue (R277 to R283, R327) -/

/-- Bytes that a transfer places on the fabric (R279, R281). -/
def Xfer.charge (x : Xfer) (lite : Bool) : Nat :=
  let a := x.lo
  let e := a + x.span - 1
  if lite && decide (x.span < 64) && decide (a / 64 = e / 64) then 16 + 8 * (e / 8 - a / 8 + 1) else 64 * (e / 64 - a / 64 + 1)

/-- Transfers that a core has outstanding (R277). -/
def Core.outstanding (k : Core) : Nat := k.slots.toList.foldl (fun n x => n + x.out.length) 0

/-- Transfers that a die's memory tracker holds (R277). -/
def State.tracked (s : State) (d : Fin 8) : Nat := (vget s.cores d).toList.foldl (fun n k => n + k.outstanding) 0

/-- Local addresses that the requests of a transfer write, with their lengths. -/
def State.nearWrites (s : State) (x : Xfer) : List (Nat × Nat) :=
  x.reqs.flatMap (fun r => r.dsts.filterMap (fun d => match s.devAddr d with | .loc a => some (a, r.len) | _ => none))

/-- The pool contexts of the owners that a transfer writes to. -/
def State.poolRefs (s : State) (x : Xfer) : List PoolAt :=
  ((s.nearWrites x).flatMap (fun w => match s.region w.1 with
    | .clm c _ => (fins 4).map (fun i => PoolAt.clm c i)
    | .depot d _ => (fins 8).map (fun i => PoolAt.depot d i)
    | _ => [])).eraseDups

/-- A pool context. -/
def State.poolAt (s : State) (p : PoolAt) : Option Pool :=
  match p with
  | .clm c i => vget (s.core c).pools i
  | .depot d i => vget (s.die d).pools i

/-- Change a pool context. -/
def State.modPool (s : State) (p : PoolAt) (f : Pool → Pool) : State :=
  match p with
  | .clm c i => s.modCore c (fun k => { k with pools := vmod k.pools i (fun p => p.map f) })
  | .depot d i => s.modDie d (fun k => { k with pools := vmod k.pools i (fun p => p.map f) })

/-- Pool bytes of a transfer: the destination bytes inside the pool's range (R327). -/
def poolBytes (p : Pool) (ws : List (Nat × Nat)) : Nat := ws.foldl (fun n w => n + (Nat.min (w.1 + w.2) p.hi - Nat.max w.1 p.lo)) 0

/-- The reservation that a slot holds in a pool. -/
def Pool.resvOf (p : Pool) (c : CoreId) (n : Fin 16) : Option Nat := p.resv.findIdx? (fun r => decide (r.core = c ∧ r.slot = n))

/-- Charge a reservation (R327): reserved room first, then shared room; none when neither holds the bytes. -/
def Pool.charge (p : Pool) (i b : Nat) : Option Pool :=
  match p.resv[i]? with
  | none => some p
  | some r =>
    if r.hr + b ≤ r.min then some { p with resv := p.resv.set i { r with hr := r.hr + b } }
    else if b ≤ p.free then some { p with free := p.free - b, resv := p.resv.set i { r with hs := r.hs + b } }
    else none

/-- Set or clear a WAITING bit. -/
def Pool.setWaiting (p : Pool) (i : Nat) (b : Bool) : Pool := { p with waiting := setBit p.waiting i b }

/-- The pools that a transfer charges: context, reservation and bytes (R327). -/
def State.poolDues (s : State) (c : CoreId) (n : Fin 16) (x : Xfer) : List (PoolAt × Nat × Nat) :=
  let ws := s.nearWrites x
  (s.poolRefs x).filterMap (fun ref => (s.poolAt ref).bind (fun p => (p.resvOf c n).bind (fun i =>
    let b := poolBytes p ws
    if b = 0 then none else some (ref, i, b))))

/-- Charge every pool of a transfer in one cycle, or none of them while one has no room (R327). -/
def State.chargePools (s : State) (c : CoreId) (n : Fin 16) (x : Xfer) : State × Bool :=
  let dues := s.poolDues c n x
  let full (d : PoolAt × Nat × Nat) : Bool := ((s.poolAt d.1).bind (fun p => p.charge d.2.1 d.2.2)).isNone
  if dues.any full then
    ((dues.foldl (fun t d => if full d then t.modPool d.1 (fun p => p.setWaiting d.2.1 true) else t) s).modSlot c n (fun k => { k with poolWait := true }), false)
  else
    ((dues.foldl (fun s d => s.modPool d.1 (fun p => ((p.charge d.2.1 d.2.2).getD p).setWaiting d.2.1 false)) s).modSlot c n
      (fun k => { k with poolWait := false }), true)

/-- The failure of a transfer that its addresses show: BOUNDS, or TEXT_WRITE, with the address (R287, R370). A register is no place of a stream. -/
def State.xferBad (s : State) (c : CoreId) (x : Xfer) : Option (BitVec 5 × Nat) :=
  let part := s.strPart c
  let bad (a len : Nat) (w : Bool) : Option (BitVec 5 × Nat) :=
    match s.devAddr a with
    | .bad => some (3, a)
    | .rem _ _ => none
    | .loc y =>
      if !s.inBounds part y len then some (3, a)
      else
        match s.region y with
        | .dieReg _ _ => some (3, a)
        | .clm d o => if w ∧ o < s.textRegion d then some (4, a) else none
        | _ => none
  (bad x.lo x.span false).orElse (fun _ => (x.reqs.flatMap (fun r => r.dsts.map (fun d => (d, r.len)))).findSome? (fun p => bad p.1 p.2 true))

/-- Send a transfer that may go: translation first, then its request on the host link or on Rail; one within the part is under way at once (R376, R395). -/
def State.launch (s : State) (c : CoreId) (n : Fin 16) (x : Xfer) : State :=
  let f := s.fnOf (s.strPart c)
  let s := s.modSlot c n (fun k => { k with out := k.out.filter (fun y => y.no ≠ x.no) ++ [{ x with ats := false }] })
  let hs := s.hostRanges x
  let ps := if (s.fn f).ats then pagesOf hs else []
  let missing := ps.filter (fun p => (s.atcFind f p.1).isNone)
  if !missing.isEmpty then
    missing.foldl (fun s p => s.send (.atsRequest f (p.1 * 4096) p.2))
      (s.modSlot c n (fun k => { k with out := k.out.map (fun y => if y.no = x.no then { y with ats := true } else y) }))
  else
    let s := ps.foldl (fun s p => s.atcUse f p.1) s
    let tr := ps.filterMap (fun p => (s.atcFind f p.1).map (fun e => (p.1, e.map p.1)))
    let us := (ps.filterMap (fun p => (s.atcFind f p.1).map (fun e => (e.page, e.size)))).eraseDups
    let s := s.modSlot c n (fun k => { k with out := k.out.map (fun y => if y.no = x.no then { y with trans := tr, used := us } else y) })
    let denied := ps.any (fun p => match s.atcFind f p.1 with | some e => if p.2 then !e.wr else !e.rd | none => true)
    if denied then s.xferHostFault c n x.no
    else
      match s.devAddr x.lo with
      | .rem part a =>
        let (s, ok) := s.request part 4 a x.span [] (.read c n x.no)
        if ok then s.oweMsg c n x.no else s.xferFail c n x.no 6 x.lo
      | _ =>
        let s := hs.foldl (fun s h => if h.2.2 then s else s.hostReq f tr h.1 h.2.1 none) s
        let far := x.reqs.flatMap (fun r => r.dsts.filterMap (fun d => match s.devAddr d with | .rem p a => some (r, p, a) | _ => none))
        if far.isEmpty then s
        else
          match s.readNear x with
          | (s, none) => s.xferFail c n x.no 5 x.lo
          | (s, some data) =>
            far.foldl (fun s (r, p, a) =>
              let d := 2 ^ 63 + 2 ^ 48 * p.toNat + a
              let (s, bs) := s.coverBits d r.lo r.bits ((data.drop (r.src - x.lo)).take r.len)
              s.joinMsg c n p x.no 3 a bs) s

/-- Take a word of a queue source when no index is at hand (R273, R301). -/
def State.feed (s : State) (c : CoreId) (n : Fin 16) (m : MoveCmd) : State :=
  let s := s.modSlot c n (fun x => x.planRows m)
  let x := s.slot c n
  match m.queue with
  | none => s
  | some q =>
    if !x.plan.isEmpty || x.failing.isSome || !x.gather.idx.isEmpty || x.gather.ended then s
    else
      match s.queueTake c q with
      | (s, none) => s
      | (s, some (_, .unc)) => (s.queueUnc c.die).modSlot c n (fun x => { x with failing := some (5, 0) })
      | (s, some (w, _)) =>
        let j := x.gather.next
        let ix := if Leg.idxw m.src.prim then fldN w 0 32 else fldN w 0 16
        s.modSlot c n (fun x =>
          ({ x with gather := { x.gather with idx := [(j, ix)], ended := bit w 62 || decide (j + 1 ≥ m.count.toNat) } } : Slot).planRows m)

/-- Whether a request is small and may join a merge (R280). -/
def Req.small (r : Req) : Bool := decide (r.len < 64) && r.index.isNone

/-- Let small requests join the slot's merge while they lie in its segment and it holds fewer than 16 (R280). -/
def State.absorb (s : State) (c : CoreId) (n : Fin 16) (m : MoveCmd) : Nat → State
  | 0 => s
  | fuel + 1 =>
    let s := s.feed c n m
    let x := s.slot c n
    match x.plan with
    | [] => s
    | r :: rest =>
      let fits := match x.merge with
        | [] => true
        | h :: _ => decide (h.src / 256 = r.src / 256)
      if m.merge && r.small && fits && decide (x.merge.length < 16) && !x.closed then
        (s.modSlot c n (fun x => { x with merge := x.merge ++ [r], plan := rest })).absorb c n m fuel
      else s

/-- Note the number of a transfer in the progress runs that it serves. -/
def Slot.noteRuns (x : Slot) (t : Xfer) : Slot :=
  { x with runs := x.runs.map (fun e => if t.reqs.any (fun r => r.index.isNone && decide (r.run = e.1)) then (e.1, e.2.1, t.no + 1) else e) }

/-- Whether the function of a core has room for the non-posted requests that a transfer makes as it is launched, among its 1,024 (R434). -/
def State.npFree (s : State) (c : CoreId) (x : Xfer) : Bool :=
  let f := s.fnOf (s.strPart c)
  let n := s.npNeed f x
  decide (n = 0) || decide (s.nonPosted f + n ≤ 1024)

/-- Issue one transfer when the trackers, the window, the regulator and the pools allow (R277, R278, R283, R327); `again` says that it was issued before. -/
def State.tryIssue (s : State) (c : CoreId) (n : Fin 16) (m : MoveCmd) (t : Xfer) (again : Bool) (take : Slot → Slot) : State :=
  let x := s.slot c n
  let cost := 256 * t.charge m.lite
  if !(decide (t.no < x.oldest + 512) && decide ((s.core c).outstanding < 512) && decide (s.tracked c.die < 4096) && s.npFree c t) then s
  else
    match s.xferBad c t with
    | some f => (s.modSlot c n (fun x =>
        let x := take x
        { x with redo := xferIns t x.redo, next := if again then x.next else t.no + 1, failing := some f })).settle c n
    | none =>
      if x.rate ≠ 0 ∧ x.bucket < cost then s
      else
        let (s, ok) := if again then (s, true) else s.chargePools c n t
        if !ok then s
        else
          let s := s.modSlot c n (fun x =>
            let x := take x
            ({ x with next := if again then x.next else t.no + 1, bucket := if x.rate = 0 then x.bucket else x.bucket - cost } : Slot).noteRuns t)
          (s.launch c n t).settle c n

/-- One attempt of a slot to issue: a transfer that waits to be issued again, a merge that has closed, or the next request (R278, R280, R290). -/
def State.strIssue (s : State) (c : CoreId) (n : Fin 16) (m : MoveCmd) : State :=
  match (s.slot c n).redo with
  | t :: _ => s.tryIssue c n m { t with hostFault := false } true (fun x => { x with redo := x.redo.drop 1 })
  | [] =>
    let s := (s.absorb c n m 40).settle c n
    let x := s.slot c n
    if x.failing.isSome ∨ x.st ≠ .running then s
    else
      match x.merge, x.plan with
      | [], [] => s
      | [], r :: _ => s.tryIssue c n m (.new x.next [r]) false (fun x => { x with plan := x.plan.drop 1 })
      | rs, p =>
        if rs.length < 16 ∧ p.isEmpty ∧ !x.closed then s
        else s.tryIssue c n m (.new x.next rs) false (fun x => { x with merge := [], closed := false })

end Sys2Proof.Machine
end

