-- ==== Sys2Proof/Machine/Stream.lean ====
section
/-! DEFINITION. The stream instructions, the beginning of a stream command, and the events of a slot: transfers, merges, pauses, page requests, stops and translations (R259 to R293, R348, R376, R377, R395). -/

namespace Sys2Proof.Machine

/-! ### Instructions (R348) -/

/-- Issue a moving command: refused by its checks, or put into the stream engine's queue. -/
def State.moveExec (s : State) (i : Instr) (c : CoreId) (kind : StrKind) (l : LayS) (x : Option LayX) : State :=
  let k := s.core c
  let m := k.moveOf kind l x
  match s.moveBad c l.slot m (((i.words.bind Prod.snd).getD 0).setWidth 32) with
  | some (cause, detail) => s.illegal c cause k.pc detail
  | none => (s.enqStr c (.move l.slot m)).advance c (iwords i)

/-- `str.load` (R259, R348). -/
def execStrLoad (c : CoreId) (p : Fin 8) (l : LayS) (x : Option LayX) (s : State) : Res :=
  s.issue (.strLoad c p l x) c p (fun s => s.room c .str) (fun s => s.moveExec (.strLoad c p l x) c .load l x)

/-- `str.store` (R259, R348). -/
def execStrStore (c : CoreId) (p : Fin 8) (l : LayS) (x : Option LayX) (s : State) : Res :=
  s.issue (.strStore c p l x) c p (fun s => s.room c .str) (fun s => s.moveExec (.strStore c p l x) c .store l x)

/-- `str.gather` (R271, R348). -/
def execStrGather (c : CoreId) (p : Fin 8) (l : LayS) (x : Option LayX) (s : State) : Res :=
  s.issue (.strGather c p l x) c p (fun s => s.room c .str) (fun s => s.moveExec (.strGather c p l x) c .gather l x)

/-- `str.mcast` (R241, R266, R348). -/
def execStrMcast (c : CoreId) (p : Fin 8) (l : LayS) (x : LayX) (s : State) : Res :=
  s.issue (.strMcast c p l x) c p (fun s => s.room c .str) (fun s => s.moveExec (.strMcast c p l x) c .mcast l (some x))

/-- `str.rate`: the setting is captured from `ra` (R282). -/
def execStrRate (c : CoreId) (p : Fin 8) (l : LayS) (s : State) : Res :=
  s.issue (.strRate c p l) c p (fun s => s.room c .str) (fun s => (s.enqStr c (.rate l.slot (fld ((s.core c).getG l.src) 0 28))).advance c 1)

/-- Causes from which a slot resumes (R287). -/
def resumable (cause : BitVec 5) : Bool := decide (cause = 1 ∨ cause = 2 ∨ cause = 6)

/-- `str.resume`: refused while the slot is not STOPPED with a resumable cause (R289). -/
def execStrResume (c : CoreId) (p : Fin 8) (l : LayS) (s : State) : Res :=
  s.issue (.strResume c p l) c p (fun s => s.room c .str) (fun s =>
    let x := s.slot c l.slot
    if x.st = .stopped ∧ resumable x.cause then (s.enqStr c (.resume l.slot)).advance c 1
    else s.illegal c .stream (s.pcOf c) (BitVec.ofNat 32 l.slot.val))

/-- `str.abort` (R289). -/
def execStrAbort (c : CoreId) (p : Fin 8) (l : LayS) (s : State) : Res :=
  s.issue (.strAbort c p l) c p (fun s => s.room c .str) (fun s => (s.enqStr c (.abort l.slot)).advance c 1)

/-! ### Beginning a command of a slot (R22, R260) -/

/-- The slot that a command names. -/
def StrCmd.slot : StrCmd → Fin 16
  | .move n _ => n | .rate n _ => n | .resume n => n | .abort n => n

/-- The entries of a queue before its first fence marker. -/
def beforeFence {α : Type} : List (QItem α) → List (Nat × BitVec 32 × α)
  | [] => []
  | .fence _ _ :: _ => []
  | .cmd q pc x :: rest => (q, pc, x) :: beforeFence rest

/-- A queue without the command of an issue number. -/
def dropSeq {α : Type} (q : List (QItem α)) (n : Nat) : List (QItem α) :=
  q.filter (fun i => match i with | .cmd k _ _ => decide (k ≠ n) | .fence _ _ => true)

/-- Whether a command is a moving one. -/
def StrCmd.moves : StrCmd → Bool
  | .move _ _ => true
  | _ => false

/-- The command of a slot that begins or acts next: the oldest one while the slot is idle; while it is not, the oldest one that does not wait for it (R260). -/
def State.strNext (s : State) (c : CoreId) (n : Fin 16) : Option (Nat × BitVec 32 × StrCmd) :=
  let mine := (beforeFence (s.core c).qStr).filter (fun i => decide (i.2.2.slot = n))
  if (s.slot c n).st = .idle then mine.head? else mine.find? (fun i => !i.2.2.moves)

/-- A moving command begins in its idle slot (R260, R293). -/
def State.moveBegin (s : State) (c : CoreId) (n : Fin 16) (seq : Nat) (pc : BitVec 32) (m : MoveCmd) : State :=
  let (s, p) := s.planOf c m
  let reqs := p.runs.map Run.reqs
  let units := (p.runs.zip reqs).filterMap (fun q => if q.1.run = noRun ∨ q.1.index.isSome ∨ m.kind = .gather then none else some (q.1.run, q.2.length, 0))
  (s.modSlot c n (fun x =>
    { x.cleared with
      st := .running
      cmd := some (seq, pc, m)
      plan := reqs.flatten
      runs := units
      failing := p.failing
      gather := { GatherSt.reset with ended := p.ended, rows := units.length } })).settle c n

/-- `str.abort` number `seq` as it acts: the slot issues no further transfer, forgets its position, and is idle once nothing is outstanding (R289, R293); until then the command that it ended has not completed (R285). -/
def Slot.abort (x : Slot) (seq : Nat) : Slot :=
  { x.cleared with st := if x.out.isEmpty then .idle else .aborting, out := x.out,
                   aborted := if x.out.isEmpty then none else (x.cmd.map (fun m => m.1)).orElse (fun _ => x.aborted.orElse (fun _ => some seq)) }

/-- One command of a slot leaves the stream engine's queue (R260, R282, R289). -/
def State.strBegin (s : State) (c : CoreId) (n : Fin 16) : State :=
  match s.strNext c n with
  | none => s
  | some (seq, pc, x) =>
    let s := s.modCore c (fun k => { k with qStr := dropSeq k.qStr seq })
    match x with
    | .move _ m => s.moveBegin c n seq pc m
    | .rate _ v => s.modSlot c n (fun x =>
        let b := fld v 16 12
        { x with rate := fld v 0 16, burst := b, bucket := 65536 * (b.toNat + 1) })
    | .resume _ => s.modSlot c n (fun x => if x.st = .stopped ∧ resumable x.cause then { x with st := .running, failing := none, redo := x.redo.map (fun t => { t with hostFault := false }) } else x)
    | .abort _ => (s.unwait c n).modSlot c n (fun x => x.abort seq)

/-! ### Transfers (R277 to R281) -/

/-- One attempt of a slot to issue a transfer. -/
def State.slotIssue (s : State) (c : CoreId) (n : Fin 16) : State :=
  let x := s.slot c n
  match x.cmd with
  | some (_, _, m) => if x.st = .running ∧ x.failing.isNone then s.strIssue c n m else s
  | none => s

/-- Whether an attempt of a slot took a transfer on its way: a number was given, or one that waited was issued again. -/
def State.served (s t : State) (c : CoreId) (n : Fin 16) : Bool :=
  decide ((s.slot c n).next < (t.slot c n).next) || decide ((t.slot c n).redo.length < (s.slot c n).redo.length)

/-- Whether a slot has a transfer ready that nothing holds back (R261). -/
def State.slotReady (s : State) (c : CoreId) (n : Fin 16) : Bool := s.served (s.slotIssue c n) c n

/-- The slots from the lead up to a slot, in rotating order (R261). -/
def slotsBefore (lead n : Fin 16) : List (Fin 16) := ((fins 16).map (fun i => lead + i)).takeWhile (fun i => decide (i ≠ n))

/-- A slot issues a transfer, when nothing holds it back and no slot before it in rotating order has one ready; the slot behind it then takes the lead (R261). -/
def execTransferIssue (c : CoreId) (n : Fin 16) (s : State) : Res :=
  if !s.hasDie c.die then .next s
  else if (slotsBefore (s.core c).lead n).any (fun i => s.slotReady c i) then .next s
  else
    let t := s.slotIssue c n
    .next (if s.served t c n then t.modCore c (fun k => { k with lead := n + 1 }) else t)

/-- No further small request has come: the merge closes (R280), and its transfer issues when the slot's turn has come (R261). -/
def execMergeCloseTimeout (c : CoreId) (n : Fin 16) (s : State) : Res :=
  if !s.hasDie c.die then .next s
  else
    let x := s.slot c n
    if x.cmd.isSome ∧ x.st = .running ∧ x.failing.isNone ∧ x.redo.isEmpty ∧ !x.merge.isEmpty then
      execTransferIssue c n (s.modSlot c n (fun x => { x with closed := true }))
    else .next s

/-- Whether the source of a transfer lies in the host window. -/
def State.fromHost (s : State) (x : Xfer) : Bool :=
  match s.devAddr x.lo with
  | .loc a => (match s.region a with | .host _ => true | _ => false)
  | _ => false

/-- A transfer is delivered. A host-window read brings `data`, or ends as `h` says: an error completion fails the stream with HOST_FAULT, a poisoned one with POISON (R376, R379). -/
def execTransferDeliver (c : CoreId) (n : Fin 16) (t : Nat) (data : List Byte) (h : HostEnd) (s : State) : Res :=
  if !s.hasDie c.die then .next s
  else
    match (s.slot c n).out.find? (fun x => x.no = t) with
    | none => .next s
    | some x =>
      if x.ats ∨ x.owed ≠ 0 then .next s
      else if s.fromHost x then
        match h with
        | .good => if data.length = x.span then .next (s.deliver c n t data) else .next s
        | .poisoned => .next (s.xferFail c n t 5 x.lo)
        | .failed => .next (s.xferFail c n t 2 x.lo)
      else
        match s.readNear x with
        | (s, none) => .next (s.xferFail c n t 5 x.lo)
        | (s, some bs) => .next (s.deliver c n t bs)

/-! ### Pauses, stops and page requests (R288 to R292) -/

/-- The 4 KiB pages of the transfers that host-faulted, each once (R290). -/
def State.faultPages (s : State) (x : Slot) : List Nat :=
  (((x.redo.filter Xfer.hostFault).flatMap (fun t => (pagesOf (s.hostRanges t)).map Prod.fst))).eraseDups

/-- The address of the transfer at the resume point: its source, or its destination where it writes to the host. -/
def State.resumeAddr (s : State) (x : Slot) : Nat :=
  match x.redo.head? with
  | none => 0
  | some t => if s.fromHost t then t.lo else ((t.reqs.head?.bind (fun r => r.dsts.head?)).getD t.lo)

/-- A paging slot with nothing outstanding saves its position; without page requests the stream fails with HOST_FAULT (R290). -/
def execSlotPagingSave (c : CoreId) (n : Fin 16) (s : State) : Res :=
  if !s.hasDie c.die then .next s
  else
    let x := s.slot c n
    if x.st = .paging ∧ x.out.isEmpty ∧ x.failing.isNone ∧ x.pages.isEmpty ∧ x.prg.isNone then
      let f := s.fn (s.fnOf (s.strPart c))
      if f.ats ∧ f.pri then .next (s.modSlot c n (fun x => { x.save with pages := s.faultPages x }))
      else .next (s.modSlot c n (fun x => { x.save with failing := some (2, s.resumeAddr x) }))
    else .next s

/-- The lowest PRG index of a function that is not in use, of its pool of 512 (R290). -/
def HostFn.freePrg (f : HostFn) : Option Nat := (List.range 512).find? (fun i => !f.prgs.any (fun p => decide (p.1 = i)))

/-- A paused slot sends its Page Request Group, when the pool and the function's allocation have room (R290, R436). -/
def execPageRequestSend (c : CoreId) (n : Fin 16) (s : State) : Res :=
  if !s.hasDie c.die then .next s
  else
    let x := s.slot c n
    let f := s.fnOf (s.strPart c)
    let used := ((s.fn f).prgs.map Prod.snd).foldl (· + ·) 0
    match (s.fn f).freePrg with
    | none => .next s
    | some g =>
      if x.st = .paging ∧ x.failing.isNone ∧ !x.pages.isEmpty ∧ x.prg.isNone ∧ used + x.pages.length ≤ Nat.min (s.fn f).prAlloc 512 then
        let w := match x.cmd with | some (_, _, m) => decide (m.kind = .store) | none => false
        let last := x.pages.length - 1
        let s := s.modFn f (fun h => { h with prgs := h.prgs ++ [(g, x.pages.length)] })
        let s := s.modSlot c n (fun x => { x with prg := some (f.val, g) })
        .next (x.pages.zipIdx.foldl (fun s p => s.send (.pageRequest f g (p.1 * 4096) w (decide (p.2 = last)))) s)
      else .next s

/-- Every stream slot of the package. -/
def allSlots : List (CoreId × Fin 16) := allCores.flatMap (fun c => (fins 16).map (fun n => (c, n)))

/-- A PRG Response: the slot that waits for it resumes, or its stream fails with HOST_DENIED; a response that no slot waits for only frees its index (R289, R290). -/
def execPrgResponse (f : Fin 9) (prg : Nat) (ok : Bool) (s : State) : Res :=
  let s := s.modFn f (fun h => { h with prgs := h.prgs.filter (fun p => decide (p.1 ≠ prg)) })
  match allSlots.find? (fun u => decide ((s.slot u.1 u.2).prg = some (f.val, prg) ∧ (s.slot u.1 u.2).st = .paging)) with
  | none => .next s
  | some (c, n) =>
    if ok then
      let ps := (s.slot c n).pages
      let s := s.modPkg (fun p => { p with atc := p.atc.filter (fun e =>
        !(decide (e.fn = f) && ps.any (fun g => decide (e.page ≤ g * 4096 ∧ g * 4096 < e.page + e.size)))) })
      .next (s.modSlot c n (fun x => { x with st := .running, prg := none, pages := [], redo := x.redo.map (fun t => { t with hostFault := false }) }))
    else .next (s.modSlot c n (fun x => { x with prg := none, pages := [], failing := some (1, s.resumeAddr x) }))

/-- A failing stream with nothing outstanding enters STOPPED with its cause and position; then it adds to ESEM, or the core faults (R288, R513). -/
def execStreamStop (c : CoreId) (n : Fin 16) (s : State) : Res :=
  if !s.hasDie c.die then .next s
  else
    let x := s.slot c n
    match x.cmd, x.failing with
    | some (_, pc, m), some (cause, a) =>
      if (x.st = .running ∨ x.st = .paging) ∧ x.out.isEmpty then
        let s := (s.unwait c n).modSlot c n (fun x => { x.save with st := .stopped, cause := cause, failing := none, pages := [], prg := none, poolWait := false })
        match m.esem with
        | some e => .next (s.semAdd c e 1)
        | none =>
          let y := s.slot c n
          .next (s.coreFault c ⟨BitVec.ofNat 16 (0x500 + cause.toNat), pc, 0, a,
            leBytes 1 n.val ++ leBytes 1 cause.toNat ++ leBytes 6 0 ++ leBytes 8 (y.reg 0x08).toNat ++ leBytes 8 (y.reg 0x10).toNat ++
              leBytes 8 (y.reg 0x18).toNat⟩)
      else .next s
    | _, _ => .next s

/-! ### Translations (R376, R377) -/

/-- The transfers that wait for a translation and now hold every one that they need are sent, as far as the function's non-posted requests have room (R434). -/
def State.atsWake (s : State) (f : Fin 9) : State :=
  allSlots.foldl (fun s u =>
    ((s.slot u.1 u.2).out.filter Xfer.ats).foldl (fun s t =>
      if s.fnOf (s.strPart u.1) = f ∧ (s.missing f t).isEmpty ∧ s.npFree u.1 t then
        (s.launch u.1 u.2 t).settle u.1 u.2
      else s) s) s

/-- The transfers that hold their translations and waited for room among the non-posted requests are sent as soon as there is room (R434). -/
def State.npWake (s : State) : State := (fins 9).foldl (fun s f => if (s.fn f).ats then s.atsWake f else s) s

/-- An ATS Translation Completion fills the ATC of 4,096 entries, in which the least recently used one gives way (R376, R377). -/
def execAtsTranslationComplete (f : Fin 9) (addr : AtsRange) (size : Nat) (rd wr : Bool) (s : State) : Res :=
  if !(s.fn f).ats then .next s
  else
    let e : AtcEntry := ⟨f, addr.page, size, addr.dst, rd, wr⟩
    .next ((s.modPkg (fun p => { p with
      atsAsked := p.atsAsked.filter (fun q => !decide (q.1 = f ∧ addr.page ≤ q.2 * 4096 ∧ q.2 * 4096 < addr.page + size))
      atc := (e :: p.atc.filter (fun x => !decide (x.fn = f ∧ x.page = addr.page ∧ x.size = size))).take 4096 })).atsWake f)

/-- An ATS Invalidate Request removes the entries that it overlaps; it is completed once every transfer that used one has ended, wherever in the entry its bytes lie (R377). While 32 requests of the function are open, a further one stays on the link (R434). -/
def execAtsInvalidate (f : Fin 9) (addr size tag : Nat) (s : State) : Res :=
  let hit (a len : Nat) : Bool := decide (a < addr + size ∧ addr < a + len)
  let users := allSlots.flatMap (fun u =>
    ((s.slot u.1 u.2).out.filter (fun t => !t.ats && decide (s.fnOf (s.strPart u.1) = f) && t.used.any (fun e => hit e.1 e.2))).map
      (fun t => (u.1, u.2, t.no)))
  if (s.pkg.invals.filter (fun v => decide (v.1 = f))).length ≥ 32 then .next s
  else .next ((s.modPkg (fun p => { p with
    atc := p.atc.filter (fun e => !(decide (e.fn = f) && hit e.page e.size))
    invals := p.invals ++ [(f, tag, users)] })).invalSweep)

/-- A slot has had no transfer ready for 8 FCLK cycles: its open message closes (R395). -/
def execMessageCloseTimeout (c : CoreId) (n : Fin 16) (s : State) : Res :=
  if !s.hasDie c.die then .next s else .next (s.closeMsg c n)

end Sys2Proof.Machine
end

