-- ==== Sys2Proof/Machine/Vector.lean ====
section
/-! DEFINITION. The vector unit: its instructions with their checks at issue, its operations, and the completion of a command (R63, R73 to R87, R354, R355). -/

namespace Sys2Proof.Machine

/-! ### Reads -/

/-- The runs of a view in stream order, numbered from 0 (R264). -/
def View.runs (v : View) : List ((Nat × Nat × Nat × Nat) × Nat) := v.runIdx.zipIdx

/-- The element code at position `i0` of a run. -/
def State.codeAt (s : State) (v : View) (r : Nat × Nat × Nat × Nat) (i0 : Nat) : Nat :=
  elemCode v.fmt (fun k => s.byteAt (v.rowAddr r.1 r.2.1 r.2.2.1 r.2.2.2 + k)) i0

/-- An element's exact value with its block scale (R64, R66). -/
def State.scaledAt (s : State) (v : View) (r : (Nat × Nat × Nat × Nat) × Nat) (i0 : Nat) : Val :=
  (v.fmt.decode (s.codeAt v r.1 i0)).e8m0 (s.scaleAt v (i0 / v.blk) r.2)

/-- An element as the vector unit takes it: its FP32 value, and whether the decode counts a saturation (R59, R75, R83). -/
def State.vecAt (s : State) (v : View) (r : (Nat × Nat × Nat × Nat) × Nat) (i0 : Nat) : Val × Nat :=
  let x := convert .fp32 .rne false (s.scaledAt v r i0)
  (f32Val (BitVec.ofNat 32 x.code), x.sat.toNat + (v.fmt.badTern (s.codeAt v r.1 i0)).toNat)

/-- A row of a view with the number of its saturations. -/
def State.vecRow (s : State) (v : View) (r : (Nat × Nat × Nat × Nat) × Nat) : List Val × Nat :=
  let xs := (List.range (Leg.ext0 v.prim)).map (fun i => s.vecAt v r i)
  (xs.map Prod.fst, xs.foldl (fun n x => n + x.2) 0)

/-! ### Operations on FP32 values (R354) -/

/-- One IEEE 754 rounding to FP32. -/
def ieee (rm : RMode) (x : Val) : Val := f32Val (f32Of rm x)

/-- The square root of a non-negative value, with one rounding. -/
def vecSqrt (rm : RMode) (x : Val) : Val :=
  match x with
  | .fin false m e =>
    if m = 0 then x
    else
      let e := e - 64
      let (n, e) : Nat × Int := if e % 2 = 0 then (m <<< 64, e) else (m <<< 65, e - 1)
      let r := isqrt (Nat.log2 n + 1) n
      ieee rm (.fin false (2 * r + (decide (r * r ≠ n)).toNat) (e / 2 - 1))
  | .inf false => .inf false
  | .fin true 0 _ => x
  | _ => .nan

/-- A pairwise tree over a run in position order, at most `fuel` levels; an odd value passes to the next level. -/
def pairTree (f : Val → Val → Val) : Nat → List Val → Val
  | _, [] => .fin false 0 0
  | _, [x] => x
  | 0, x :: _ => x
  | fuel + 1, xs => pairTree f fuel ((chunksOf 2 xs.length xs).map (fun p => match p with
      | [a, b] => f a b
      | a :: _ => a
      | [] => .fin false 0 0))

/-- The fixed order of `v.reduce`: a pairwise tree of each run of 256 positions, the runs added in ascending order. -/
def sumFixed (f : Val → Val → Val) (xs : List Val) : Val :=
  match (chunksOf 256 xs.length xs).map (pairTree f 9) with
  | [] => .fin false 0 0
  | t :: ts => ts.foldl f t

/-- `v.reduce` of one row: sum, max or largest magnitude; NaN when any element is NaN. -/
def vecReduce (opt : BitVec 6) (xs : List Val) : Val :=
  if opt = 0 then sumFixed (fun a b => ieee .rne (a.add b)) xs
  else
    let ys := if opt = 1 then xs else xs.map Val.abs
    match ys with
    | [] => .fin false 0 0
    | y :: ys => ys.foldl maxVal y

/-- `v.norm2` of one row: squares, sums and root each rounded to nearest, or upward with UP. The spec gives the sum no order of its own: DEDUCED, that of `v.reduce`. -/
def vecNorm (up : Bool) (xs : List Val) : Val :=
  let rm := if up then RMode.up else RMode.rne
  vecSqrt rm (sumFixed (fun a b => ieee rm (a.add b)) (xs.map (fun x => ieee rm (x.mul x))))

/-- One element of an elementwise operation. -/
def vecElem (op : VOp) (x y z : Val) : Val :=
  match op with
  | .add => ieee .rne (x.add y)
  | .mul => ieee .rne (x.mul y)
  | .fma => ieee .rne ((x.mul y).add z)
  | .max => maxVal x y
  | .exp => f32Val (expFn (f32Of .rne x))
  | .rsqrt => f32Val (rsqrtFn (f32Of .rne x))
  | _ => x

/-! ### The result of a command -/

/-- The rows of values that a command converts into D, with the saturations of its reads. -/
def State.vecRows (s : State) (v : VecCmd) : List (List Val) × Nat :=
  let rowsX := v.x.runs
  match v.op with
  | .reduce | .norm2 =>
    let rs := rowsX.map (fun r => s.vecRow v.x r)
    (rs.map (fun r => [if v.op = .reduce then vecReduce v.opt r.1 else vecNorm (v.opt.getLsbD 0) r.1]), rs.foldl (fun n r => n + r.2) 0)
  | .cvt =>
    (rowsX.map (fun r => (List.range (Leg.ext0 v.x.prim)).map (fun i => s.scaledAt v.x r i)),
      rowsX.foldl (fun n r => n + badCount v.x.fmt ((List.range (Leg.ext0 v.x.prim)).map (fun i => some (s.codeAt v.x r.1 i)))) 0)
  | .st => (v.d.runs.map (fun _ => List.replicate (Leg.ext0 v.d.prim) (f32Val v.sval)), 0)
  | _ =>
    let two := decide (v.op = .add ∨ v.op = .mul ∨ v.op = .fma ∨ v.op = .max)
    let rs := rowsX.map (fun r =>
      let (xs, n) := s.vecRow v.x r
      let (ys, k) := if !two then (xs, 0) else if v.scal then (xs.map (fun _ => f32Val v.sval), 0) else s.vecRow v.y r
      let (zs, j) := if v.op = .fma then s.vecRow v.z r else (xs, 0)
      ((xs.zip (ys.zip zs)).map (fun p => vecElem v.op p.1 p.2.1 p.2.2), n + k + j))
    (rs.map Prod.fst, rs.foldl (fun n r => n + r.2) 0)

/-- Whether a `v.cvt` copies each element unchanged: source and target of one format (R63). -/
def VecCmd.copies (v : VecCmd) : Bool := decide (v.op = .cvt ∧ v.x.fmt = v.d.fmt)

/-- The scale bytes of a run of D when a `v.cvt` copies (R63). DESIGN CHOICE (log 54): each block of D takes the scale of the block of X that holds its first element, and 0x7F where X has no scales. -/
def State.copyScales (s : State) (v : VecCmd) (run : Nat) : List Nat :=
  if Leg.scale v.d.prim = 0 then [] else (List.range v.d.scaleDims.1).map (fun b => s.scaleAt v.x (b * v.d.blk / v.x.blk) run)

/-- A run that a `v.cvt` copies: scale bytes and element codes. A TERN 0b10 is read as 0 (R59). -/
def State.copyRun (s : State) (v : VecCmd) (r : (Nat × Nat × Nat × Nat) × Nat) : List Nat × List Nat :=
  (s.copyScales v r.2, (List.range (Leg.ext0 v.d.prim)).map (fun i =>
    let code := s.codeAt v.x r.1 i
    if v.x.fmt.badTern code then 0 else code))

/-- Whether a copied run holds a non-finite value (R82). -/
def copyNonfinite (d : View) (run : List Nat × List Nat) : Bool :=
  run.2.zipIdx.any (fun p => !((d.fmt.decode p.1).e8m0 (run.1.getD (p.2 / d.blk) 0x7F)).isFin)

/-- The elements and scale bytes of every run of D, with the saturations of the output conversion and whether a written value is non-finite (R82). -/
def State.vecOut (s : State) (v : VecCmd) (rows : List (List Val)) : List (List Nat × List Nat) × Nat × Bool :=
  let w := Leg.ext0 v.d.prim
  if v.copies then
    let runs := v.x.runs.map (s.copyRun v)
    (runs, 0, runs.any (copyNonfinite v.d))
  else
    let draws := if v.rmode = 2 then lfsrDraws (w * rows.length) (seedOf v.seed) else []
    let draw (i : Nat) : Nat := if v.op = .st then draws.getD 0 0 else draws.getD i 0
    let cs := rows.zipIdx.map (fun p => convRow v.d v.rmode v.ovf (p.1.zipIdx.map (fun q => (q.1, draw (w * p.2 + q.2)))))
    let convs := cs.flatMap Prod.snd
    let sats := (convs.filter Conv.sat).length
    (cs.map (fun p => (p.1, p.2.map Conv.code)), if v.op = .st then min sats 1 else sats,
      rows.any (fun r => r.any (fun x => !x.isFin)) || convs.any Conv.madeInf)

/-- The sources that a command reads. -/
def VecCmd.sources (v : VecCmd) : List View :=
  match v.op with
  | .add | .mul | .max => if v.scal then [v.x] else [v.x, v.y]
  | .fma => if v.scal then [v.x, v.z] else [v.x, v.y, v.z]
  | .st => []
  | _ => [v.x]

/-- The status word of R355. -/
def vecStatus (sats : Nat) (nf : Bool) : Word := put (satN 32 sats) 0 32 ||| at' nf.toNat 32

/-- The place of the element that `v.ld` reads: its run with the run's number, and its position there (R354). -/
def VecCmd.ldPos (v : VecCmd) : ((Nat × Nat × Nat × Nat) × Nat) × Nat :=
  let i1 := fldN v.index 32 32
  (((i1, 0, 0, 0), i1), fldN v.index 0 32)

/-- The FP32 bits of element (i0, i1) of X (R354). -/
def State.vecLd (s : State) (v : VecCmd) : BitVec 32 :=
  let (r, i0) := v.ldPos
  if v.x.fmt = .fp32 then BitVec.ofNat 32 (s.codeAt v.x r.1 i0) else f32Of .rne (s.vecAt v.x r i0).1

/-- The bytes that a `v.ld` reads: its element, and the scale of its block. -/
def VecCmd.ldRanges (v : VecCmd) : List (Int × Nat) :=
  let (r, i0) := v.ldPos
  (v.x.rowAddr r.1.1 0 0 0 + (i0 * v.x.bits / 8 : Nat), ceilDiv (i0 * v.x.bits % 8 + v.x.bits) 8) ::
    if Leg.scale v.x.prim = 0 then [] else [(v.x.scaleAddr + (r.2 * v.x.scaleDims.1 + i0 / v.x.blk : Nat), 1)]

/-- The status word of a command that asks for one (R355). -/
def State.vecStat (s : State) (c : CoreId) (v : VecCmd) (sats : Nat) (nf : Bool) : State :=
  match v.stw with
  | some o => s.memWrite (clmAddr c + o.toNat) (leBytes 8 (vecStatus sats nf).toNat)
  | none => s

/-- Run a command: read, compute, write D and the status word, then DONE or the result of `v.ld` (R354, R355). -/
def State.runVec (s : State) (c : CoreId) (pc : BitVec 32) (v : VecCmd) : State :=
  let (s, e) := s.eccRead (natRanges (if v.op = .ld then v.ldRanges else v.sources.flatMap View.knownRanges))
  match e.poison with
  | some p => s.uncEngine c 3 pc p
  | none =>
    if v.op = .ld then
      let x := s.vecLd v
      ((s.modCore c (fun k => k.setG v.gd (x.setWidth 64))).vecStat c v (s.vecAt v.x v.ldPos.1 v.ldPos.2).2 (!(f32Val x).isFin)).post c v.done
    else
      let (rows, reads) := s.vecRows v
      let (out, sats, nf) := s.vecOut v rows
      let s := (v.d.runs.zip out).foldl (fun s p =>
        let ((r, i), scl, codes) := p
        let s := s.writeElems (v.d.rowAddr r.1 r.2.1 r.2.2.1 r.2.2.2).toNat v.d.bits codes
        if Leg.scale v.d.prim = 0 then s else s.memWrite (v.d.scaleAddr.toNat + i * v.d.scaleDims.1) (scl.map (fun x => BitVec.ofNat 8 x))) s
      (s.vecStat c v (reads + sats) nf).post c v.done

/-! ### Checks at issue and the instructions -/

/-- Whether two views share NDIM and extents, or D holds one value per row of X. -/
def sameShape (reduced : Bool) (d v : View) : Bool :=
  decide (Leg.ndim d.prim = Leg.ndim v.prim) && (List.range 5).all (fun i =>
    if i = 0 ∧ reduced then decide (Leg.ext0 d.prim = 1) else decide (d.ext' i = v.ext' i))

/-- The checks of a VEC command at issue (R35, R74, R170, R354, R355); `w` names the register of the status word's offset. -/
def vecBad (c : CoreId) (v : VecCmd) (w : Fin 32) : Option (Ill × BitVec 32) :=
  let reduced := decide (v.op = .reduce ∨ v.op = .norm2)
  let vs := if v.op = .ld then [v.x] else v.d :: v.sources
  let i0 := fldN v.index 0 32
  let i1 := fldN v.index 32 32
  match firstInvalid vs with
  | some r => some (.legend, regWord r)
  | none => firstBad
    (vs.map (fun x => (decide (Leg.sparse x.prim ≠ 0 ∨ Leg.nmpat x.prim ≠ 0), Ill.format, regWord x.reg)) ++
      [(decide (v.op ≠ .ld) && !ovfOk v.ovf v.d.fmt, .format, regWord v.d.reg)] ++
      vs.map (fun x => (Leg.trn x.prim || !viewInClm c x, Ill.shape, regWord x.reg)) ++
      (if v.op = .ld then [] else v.sources.map (fun x => (!sameShape reduced v.d x, Ill.shape, regWord (if reduced then v.d.reg else x.reg)))) ++
      [(decide (v.op = .norm2 ∧ v.d.fmt ≠ .fp32), .shape, regWord v.d.reg),
        (decide (v.op = .ld) && decide (Leg.ext0 v.x.prim ≤ i0 ∨ v.x.rows ≤ i1), .shape, regWord v.x.reg),
        (match v.stw with
          | some o => decide (o.toNat % 8 ≠ 0 ∨ clmSize < o.toNat + 8)
          | none => false, .shape, regWord w)])

/-- A VEC command as captured at issue. -/
def Core.vecOf (k : Core) (op : VOp) (l : LayV) : VecCmd :=
  let reg := decide (op = .cvt ∧ l.opt = 1)
  let ctl := k.getG l.dz
  { op := op, d := k.view l.dd, x := k.view l.dx, y := k.view l.dy, z := k.view l.dz, scal := l.scal,
    sval := k.lowG (if op = .st then l.dx else l.dy),
    rmode := if reg then fldN ctl 0 2 else l.rmode.toNat, ovf := if reg then bit ctl 2 else l.ovf, seed := k.lowG l.rs,
    stw := if l.stw then some (k.lowG l.rw) else none, done := semOpt l.den l.done, opt := l.opt, gd := l.dd, index := k.getG l.dy }

/-- The issue of a VEC instruction; a reserved RMODE from the control register is ENCODING (R340). -/
def State.issueV (s : State) (i : Instr) (c : CoreId) (p : Fin 8) (op : VOp) (l : LayV) : Res :=
  s.issue i c p (fun s => s.room c .vec) (fun s =>
    let k := s.core c
    let v := k.vecOf op l
    let bad := if v.rmode = 3 then some (Ill.encoding, k.lowG l.dz) else vecBad c v l.rw
    match bad with
    | some (cause, detail) => s.illegal c cause (s.pcOf c) detail
    | none => (s.enqVec c v).advance c 1)

/-- `v.add` (R354). -/
def execVAdd (c : CoreId) (p : Fin 8) (l : LayV) (s : State) : Res := s.issueV (.vAdd c p l) c p .add l
/-- `v.mul` (R354). -/
def execVMul (c : CoreId) (p : Fin 8) (l : LayV) (s : State) : Res := s.issueV (.vMul c p l) c p .mul l
/-- `v.fma` (R354). -/
def execVFma (c : CoreId) (p : Fin 8) (l : LayV) (s : State) : Res := s.issueV (.vFma c p l) c p .fma l
/-- `v.max` (R354). -/
def execVMax (c : CoreId) (p : Fin 8) (l : LayV) (s : State) : Res := s.issueV (.vMax c p l) c p .max l
/-- `v.exp` (R354). -/
def execVExp (c : CoreId) (p : Fin 8) (l : LayV) (s : State) : Res := s.issueV (.vExp c p l) c p .exp l
/-- `v.rsqrt` (R354). -/
def execVRsqrt (c : CoreId) (p : Fin 8) (l : LayV) (s : State) : Res := s.issueV (.vRsqrt c p l) c p .rsqrt l
/-- `v.cvt` (R63, R73, R354). -/
def execVCvt (c : CoreId) (p : Fin 8) (l : LayV) (s : State) : Res := s.issueV (.vCvt c p l) c p .cvt l
/-- `v.reduce` (R354). -/
def execVReduce (c : CoreId) (p : Fin 8) (l : LayV) (s : State) : Res := s.issueV (.vReduce c p l) c p .reduce l
/-- `v.norm2` (R213, R354). -/
def execVNorm2 (c : CoreId) (p : Fin 8) (l : LayV) (s : State) : Res := s.issueV (.vNorm2 c p l) c p .norm2 l
/-- `v.ld` (R339, R354). -/
def execVLd (c : CoreId) (p : Fin 8) (l : LayV) (s : State) : Res := s.issueV (.vLd c p l) c p .ld l
/-- `v.st` (R354). -/
def execVSt (c : CoreId) (p : Fin 8) (l : LayV) (s : State) : Res := s.issueV (.vSt c p l) c p .st l

/-- The command in the vector unit completes (R355). -/
def execVecComplete (c : CoreId) (s : State) : Res :=
  if !s.hasDie c.die then .next s
  else
    match (s.core c).vec with
    | none => .next s
    | some (_, pc, v) => .next ((s.modCore c (fun k => { k with vec := none })).runVec c pc v)

end Sys2Proof.Machine
end

