-- ==== Sys2Proof/Machine/Begin.lean ====
section
/-! DEFINITION. How an engine takes the commands of its queue: the next command begins, and fence markers open (R20, R22, R217, R260, R284 to R286). -/

namespace Sys2Proof.Machine

/-! ### Fence markers (R285) -/

/-- A marker that an engine has reached opens (R285). -/
def execFenceOpen (c : CoreId) (e : Engine) (s : State) : Res :=
  if !s.hasDie c.die then .next s
  else .next (s.modCore c (fun k =>
    { k.openFence e (k.fenceHolds e) with met := match k.marker e with | some (n, f) => if k.fenceHolds e n f then k.met.erase (e, n) else k.met | none => k.met }))

/-! ### The next command begins -/

/-- Whether a `skt.pass` of an issue number stands behind a marker of the sketch queue (R217, R285). -/
def Core.passHeld (k : Core) (n : Nat) : Bool :=
  k.qSkt.any (fun i => match i with
    | .fence m _ => decide (m < n)
    | .cmd _ _ _ => false)

/-- The next command of a grid array begins (R129, R217). -/
def State.gaBegin (s : State) (c : CoreId) (a : Fin 2) : State :=
  let k := s.core c
  match vget k.qGa a with
  | .cmd n pc x :: rest =>
    let skt := match x with | .skt _ _ _ _ _ _ _ _ => true | _ => false
    if !(vget k.ga a).ready x || (skt && k.passHeld n) then s
    else
      let s := s.modCore c (fun k => { k with qGa := vset k.qGa a rest, qSkt := if skt then dropSeq k.qSkt n else k.qSkt })
      s.beginArr c a n pc x
  | _ => s

/-- The next command of the junction engine begins (R190, R192). -/
def State.jxBegin (s : State) (c : CoreId) : State :=
  match (s.core c).qJx with
  | .cmd n pc x :: rest => if (s.core c).jx.ready x then (s.modCore c (fun k => { k with qJx := rest })).beginJct c n pc x else s
  | _ => s

/-- The next command of the vector unit begins. -/
def State.vecBegin (s : State) (c : CoreId) : State :=
  match (s.core c).qVec with
  | .cmd n pc x :: rest => if (s.core c).vec.isNone then s.modCore c (fun k => { k with qVec := rest, vec := some (n, pc, x) }) else s
  | _ => s

/-- The next command of the select unit begins: it does not wait for an earlier `skt.pass` (R217). -/
def State.sktBegin (s : State) (c : CoreId) : State :=
  match (beforeFence (s.core c).qSkt).find? (fun i => !i.2.2.isPass) with
  | some (n, pc, x) => if (s.core c).skt.isNone then s.modCore c (fun k => { k with qSkt := dropSeq k.qSkt n, skt := some (n, pc, x) }) else s
  | none => s

/-- The command at the head of the signal-box queue is served, unless it must wait there. -/
def State.synBegin (s : State) (c : CoreId) : State :=
  match (s.core c).qSyn with
  | .cmd n pc x :: rest =>
    match (s.modCore c (fun k => { k with qSyn := rest })).synServe c n pc x with
    | (t, true) => t
    | (_, false) => s
  | _ => s

/-- The next command of an engine begins (R22); the units that run on CCLK begin nothing while it is stopped (R332). -/
def execEngineCommandBegin (c : CoreId) (u : Unit') (s : State) : Res :=
  if !s.hasDie c.die then .next s
  else
    let clk := decide ((s.core c).pstate = .run)
    match u with
    | .slot n => .next (s.strBegin c n)
    | .ga a => .next (if clk then s.gaBegin c a else s)
    | .jx => .next (if clk then s.jxBegin c else s)
    | .vec => .next (if clk then s.vecBegin c else s)
    | .skt => .next (if clk then s.sktBegin c else s)
    | .syn => .next (s.synBegin c)
    | .syns others => .next (s.synCycle c.die (c.core :: others))

end Sys2Proof.Machine
end

