-- ==== Sys2Proof/Machine/SeqMem.lean ====
section
/-! DEFINITION. `ld` and `st` of the sequencer: address, checks and the three spaces (R25, R344, R374, R375). -/

namespace Sys2Proof.Machine

/-- The address ra + IMM (R344). -/
def memAddr (k : Core) (l : LayL) : Word := k.getG l.ra + l.imm.signExtend 64

/-- Bytes of an access. -/
def memSize (l : LayL) : Nat := 2 ^ l.size.toNat

/-- The loaded bytes extended to 64 bits as SX states (R344). -/
def extend (size : Nat) (sx : Bool) (v : Nat) : Word :=
  let w := BitVec.ofNat 64 (v % 2 ^ (8 * size))
  if sx && decide (v / 2 ^ (8 * size - 1) % 2 = 1) then w ||| (BitVec.allOnes 64 <<< (8 * size)) else w

/-- Whether a store of this core to a remote part has not been acknowledged (R308, R318). -/
def State.storesOut (s : State) (c : CoreId) : Bool :=
  s.pkg.pends.any (fun p => match p.who with | .st d _ => decide (d = c) | _ => false)

/-- The block offset that a local address names in a die register block, with its core. -/
def State.blockOf (s : State) (a : Nat) : Option (CoreId × Nat) :=
  match s.region a with
  | .dieReg d x => some (⟨d, Fin.ofNat 16 (x / 0x100000)⟩, x % 0x100000)
  | _ => none

/-- Whether a local address, taken as one of any part, is that of a post port. -/
def isPostAddr (a : Nat) : Bool := decide (dieRegBase ≤ a ∧ a < 0x0A0009000000) && isPostPort (a % 0x100000)

/-- Whether a `st` may perform at once: one to a post port waits for earlier remote stores (R318). -/
def State.stMay (s : State) (c : CoreId) (l : LayL) : Bool :=
  let a := (memAddr (s.core c) l).toNat
  let post :=
    if l.space = 1 then isPostPort a
    else if l.space = 2 then
      match s.devAddr a with
      | .loc x => isPostAddr x
      | .rem _ x => isPostAddr x
      | .bad => false
    else false
  !(post && s.storesOut c)

/-- A load from memory through ECC: a poisoned byte raises UNC_LD and leaves `rd` alone (R344, R379). -/
def State.ldMem (s : State) (c : CoreId) (l : LayL) (a : Nat) : State :=
  let n := memSize l
  let (s, e) := s.eccRead [(a, n)]
  match e.poison with
  | some p => s.uncFault c 0x0801 (s.pcOf c) 0 p
  | none => (s.modCore c (fun k => k.setG l.r (extend n l.sx (s.mem.readN a n)))).advance c 1

/-- A load from a register block: the bytes of the aligned register (R344, R525). -/
def State.ldReg (s : State) (c : CoreId) (l : LayL) (b : CoreId) (o : Nat) : State :=
  let n := memSize l
  let part := ((s.core c).sect.map (fun x => x.part)).getD 0
  let v := (s.blockRead (s.fnOf part) b (o / 8 * 8)).toNat / 2 ^ (8 * (o % 8))
  (s.modCore c (fun k => k.setG l.r (extend n l.sx v))).advance c 1

/-- The host-window address that an access of the sequencer in the device space names, where its checks let it go there. -/
def State.hostTarget (s : State) (c : CoreId) (l : LayL) : Option Nat :=
  let a := (memAddr (s.core c) l).toNat
  let part := ((s.core c).sect.map (fun x => x.part)).getD 0
  if l.space ≤ 1 ∨ a % memSize l ≠ 0 then none
  else
    match s.devAddr a with
    | .loc x => if s.inBounds part x (memSize l) then (match s.region x with | .host h => some h | _ => none) else none
    | _ => none

/-- The function that the sequencer's host accesses use. -/
def State.seqFn (s : State) (c : CoreId) : Fin 9 := s.fnOf (((s.core c).sect.map (fun x => x.part)).getD 0)

/-- The page for which an access of the sequencer still needs a translation: ATS is enabled on its function, and the ATC misses (R376). -/
def State.transMiss (s : State) (c : CoreId) (l : LayL) : Option Nat :=
  match s.hostTarget c l with
  | some h => if (s.fn (s.seqFn c)).ats ∧ (s.atcFind (s.seqFn c) (h / 4096)).isNone then some (h / 4096) else none
  | none => none

/-- An access of the sequencer waits for its translation: the request goes out once, when the function's non-posted requests have room, and the instruction stalls (R376, R434). -/
def State.transWait (s : State) (c : CoreId) (i : Instr) (w : Bool) (page : Nat) : State :=
  let f := s.seqFn c
  let s := s.stallOn c i
  if s.pkg.atsAsked.contains (f, page) ∨ 1024 ≤ s.nonPosted f then s
  else (s.modPkg (fun p => { p with atsAsked := p.atsAsked ++ [(f, page)] })).send (.atsRequest f (page * 4096) w)

/-- A host access of the sequencer: Untranslated, or Translated through the ATC; none where the translation grants no access of its kind (R376, R377). -/
def State.seqHost (s : State) (c : CoreId) (h n : Nat) (w : Option (List Byte)) : Option State :=
  let f := s.seqFn c
  if !(s.fn f).ats then some (s.hostReq f [] h n w)
  else
    match s.atcFind f (h / 4096) with
    | some e => if if w.isSome then e.wr else e.rd then some ((s.atcUse f (h / 4096)).hostReq f [(h / 4096, e.map (h / 4096))] h n w) else none
    | none => none

/-- `ld` (R344): `h` and `v` are what the host answers to a host-window read; a poisoned completion raises UNC_LD (R379), and an error completion, or a translation that grants no read, raises BOUNDS (DESIGN CHOICE). -/
def State.ldExec (s : State) (c : CoreId) (l : LayL) (h : HostEnd) (v : Word) : State :=
  let k := s.core c
  let w := memAddr k l
  let a := w.toNat
  let n := memSize l
  let part := (k.sect.map (fun x => x.part)).getD 0
  let bounds := s.illegal c .bounds k.pc (w.setWidth 32) a
  if a % n ≠ 0 then s.illegal c .align k.pc (w.setWidth 32) a
  else if l.space = 0 then (if a + n > clmSize then bounds else s.ldMem c l (clmAddr c + a))
  else if l.space = 1 then (if a + n > 0x100000 then bounds else s.ldReg c l c a)
  else
    match s.devAddr a with
    | .bad => bounds
    | .rem p x =>
      let (s, ok) := s.request p 4 x n [] (.ld c l.r n l.sx k.pc)
      if ok then s.advance c 1 else s.railLoss c k.pc p none a
    | .loc x =>
      if !s.inBounds part x n then bounds
      else
        match s.region x with
        | .dieReg d o => s.ldReg c l ⟨d, Fin.ofNat 16 (o / 0x100000)⟩ (o % 0x100000)
        | .host ha =>
          (match s.seqHost c ha n none with
           | none => bounds
           | some s =>
             match h with
             | .good => (s.modCore c (fun k => k.setG l.r (extend n l.sx v.toNat))).advance c 1
             | .poisoned => s.uncFault c 0x0801 k.pc 0 x
             | .failed => s.illegal c .bounds k.pc (w.setWidth 32) a)
        | _ => (s.wakeFor x).ldMem c l x

/-- `st` (R25, R344). -/
def State.stExec (s : State) (c : CoreId) (l : LayL) : State :=
  let k := s.core c
  let w := memAddr k l
  let a := w.toNat
  let n := memSize l
  let v := k.getG l.r
  let bs := leBytes n v.toNat
  let part := (k.sect.map (fun x => x.part)).getD 0
  let bounds := s.illegal c .bounds k.pc (w.setWidth 32) a
  let block (b : CoreId) (o : Nat) : State :=
    if isDspCtl o then bounds
    else (if n = 8 then s.blockWrite b o v else s.blockWriteNarrow b o).advance c 1
  if a % n ≠ 0 then s.illegal c .align k.pc (w.setWidth 32) a
  else if l.space = 0 then
    (if a + n > clmSize then bounds
     else if a < s.textRegion c then s.illegal c .textWrite k.pc (w.setWidth 32)
     else (s.memWrite (clmAddr c + a) bs).advance c 1)
  else if l.space = 1 then (if a + n > 0x100000 then bounds else block c a)
  else
    match s.devAddr a with
    | .bad => bounds
    | .rem p x =>
      let (s, ok) := s.request p 3 x n bs (.st c k.pc)
      if ok then s.advance c 1 else s.railLoss c k.pc p none a
    | .loc x =>
      if !s.inBounds part x n then bounds
      else
        match s.region x with
        | .dieReg d o => block ⟨d, Fin.ofNat 16 (o / 0x100000)⟩ (o % 0x100000)
        | .host ha => (match s.seqHost c ha n (some bs) with | none => bounds | some s => s.advance c 1)
        | .clm d o => if o < s.textRegion d then s.illegal c .textWrite k.pc (BitVec.ofNat 32 o) else ((s.wakeFor x).memWrite x bs).advance c 1
        | _ => (s.memWrite x bs).advance c 1

/-- `ld` once nothing else is in its way: it waits for a translation that it lacks (R376). -/
def State.ldGo (s : State) (c : CoreId) (i : Instr) (l : LayL) (h : HostEnd) (v : Word) : State :=
  match s.transMiss c l with
  | some page => s.transWait c i false page
  | none => s.ldExec c l h v

/-- `st` once nothing else is in its way (R376). -/
def State.stGo (s : State) (c : CoreId) (i : Instr) (l : LayL) : State :=
  match s.transMiss c l with
  | some page => s.transWait c i true page
  | none => s.stExec c l

end Sys2Proof.Machine
end

