-- ==== Sys2Proof/Machine/Task.lean ====
section
/-! DEFINITION. The end of a task: halt reports, aborts, the balance check, the completion record and the zeroing of the task's regions (R47 to R50, R251, R253, R313, R319, R324, R520). -/

namespace Sys2Proof.Machine

/-! ### Halt reports -/

/-- Change every counter of a die. -/
def State.modCounters (s : State) (d : Fin 8) (f : Dispatch → Dispatch) : State := s.modDie d (fun x => { x with dsp := x.dsp.map f })

/-- A core reports itself halted (R47, R253): an unreleased wait is discarded (R313), and its barrier inputs read as arrived (R324). -/
def State.haltReport (s : State) (c : CoreId) : State :=
  let s := s.modCore c (fun k => { k with run := .halted, wait := none, stalled := none, fring := { k.fring with halted := true } })
  match s.coreTask c with
  | some t => s.barCheckAll t
  | none => s

/-- Whether a load of a core from a remote part is still owed. -/
def State.loadsOut (s : State) (c : CoreId) : Bool := s.pkg.pends.any (fun p => match p.who with | .ld d _ _ _ _ => decide (d = c) | _ => false)

/-- Whether no command of a core is left (R47). -/
def State.allDone (s : State) (c : CoreId) : Bool :=
  let k := s.core c
  engines.all (fun e => !k.busyBefore e k.seq) && k.results.isEmpty && !s.loadsOut c && !s.storesOut c

/-- A core that executed `halt` has completed its commands (R47); its tickets are removed without a requeue (R251). -/
def execHaltComplete (c : CoreId) (s : State) : Res :=
  if !s.hasDie c.die then .next s
  else if (s.core c).run = .halting ∧ s.allDone c then .next ((s.haltReport c).modCounters c.die (fun x => x.drop c.core))
  else .next s

/-- Whether a faulted or aborted core has nothing left that can reach a memory or a signal box (R48, R253). -/
def State.quiet (s : State) (c : CoreId) : Bool :=
  let k := s.core c
  k.slots.toList.all (fun x => x.out.isEmpty) && k.ga.toList.all (fun g => g.todo.isEmpty && g.jobs.isEmpty) && k.jx.todo.isEmpty && k.jx.jobs.isEmpty && !s.storesOut c

/-- A faulted or aborted core reports itself halted; its tickets join the requeue lists (R253). -/
def execCoreHaltReport (c : CoreId) (s : State) : Res :=
  if !s.hasDie c.die then .next s
  else if (s.core c).run = .faulting ∧ s.quiet c then .next ((s.haltReport c).modCounters c.die (fun x => x.requeueCore c.core))
  else .next s

/-! ### Aborts (R50) -/

/-- Whether every core of a task has halted. -/
def State.taskHalted (s : State) (t : Task) : Bool := t.cores.all (fun c => decide ((s.core c).run = .halted))

/-- A core of an aborted task stops as at a fault, without a record (R48, R50). -/
def Core.aborted (k : Core) : Core := if k.run = .running ∨ k.run = .halting then k.abandon else k

/-- Change the running task of a partition. -/
def State.modTask (s : State) (n : Fin 8) (f : Task → Task) : State :=
  s.modPkg (fun p => { p with tasks := p.tasks.map (fun t => if t.part = n then f t else t) })

/-- The LOAD that holds a partition (R556). -/
def State.loadOf (s : State) (n : Fin 8) : Option LoadJob := s.pkg.loads.find? (fun j => decide (j.part = n))

/-- Whether a partition runs a task or a LOAD holds it. -/
def State.busyPart (s : State) (n : Fin 8) : Bool := (s.taskOf n).isSome || (s.loadOf n).isSome

/-- An abort that meets an image being checked or placed: the LOAD acts on it at its next stage (R50). -/
def State.abortLoad (s : State) (n : Fin 8) (discard : Bool) : State :=
  s.modPkg (fun p => { p with loads := p.loads.map (fun j => if j.part = n then { j with aborted := true, discard := j.discard || discard } else j) })

/-- Abort the task of a partition; one whose cores have all halted ends as it would have (R50, R448). `discard` drops its task-end record (R435). -/
def State.abortTask (s : State) (n : Fin 8) (discard : Bool := false) : State :=
  let s := s.abortLoad n discard
  match s.taskOf n with
  | none => s
  | some t =>
    let s := if discard then s.modTask n (fun t => { t with discard := true }) else s
    if s.taskHalted t then s
    else t.cores.foldl (fun s c => (s.unwaitAll c).modCore c Core.aborted) (s.modTask n (fun t => { t with aborted := true }))

/-! ### The end of a task (R49) -/

/-- The declared semaphores of a core whose value differs from the entry value, as a mask (R319): the comparison is exact. -/
def Core.unbalanced (k : Core) : Nat :=
  match k.sect with
  | none => 0
  | some x => (fins 64).foldl (fun m i =>
      m + (x.semMask.getLsbD i.val && decide (vget k.sems i ≠ x.entrySems.getD i.val 0)).toNat * 2 ^ i.val) 0

/-- The balance check of one core (R319): the mismatch is recorded in its ring and reported. -/
def State.balance (s : State) (c : CoreId) : State :=
  let m := (s.core c).unbalanced
  if m = 0 then s
  else
    let s := s.writeRec c ⟨0x0700, 0xFFFFFFFF, 0, 0, leBytes 8 m⟩
    match (s.core c).sect with
    | some x => s.coreRecEvent x.part
    | none => s

/-- End of the regions of a section, which begin at CLM offset 0 (R42). -/
def Core.regionEnd (k : Core) : Nat := alignUp (fldN k.tsrRing 0 23 + 1024 * 2 ^ fldN k.tsrRing 23 4) 4096

/-- Remote loads of a core that nobody waits for any more. -/
def PendReq.forgetCore (c : CoreId) (p : PendReq) : PendReq :=
  match p.who with
  | .ld d _ _ _ _ => if d = c then { p with who := .writes d 0 [] } else p
  | _ => p

/-- A core leaves its task: its regions read zero, its pool contexts are gone and it holds no section (R49, R326). The fault ring stays (R510). -/
def State.leaveTask (s : State) (c : CoreId) : State :=
  let e := (s.core c).regionEnd
  let s := s.memZero (clmAddr c) (clmAddr c + e)
  let s := s.modPkg (fun p => { p with pends := p.pends.map (PendReq.forgetCore c) })
  s.modCore c (fun k => { k with run := .idle, sect := none, wait := none, stalled := none, pools := Vector.replicate 4 none })

/-- Counters of a physical die that a task names (R39). -/
def State.taskCounters (s : State) (t : Task) (d : Fin 8) : BitVec 16 :=
  match t.cores.find? (fun c => c.die = d) with
  | some c => ((s.core c).sect.map (fun x => x.counterMask)).getD 0
  | none => 0

/-- A die leaves a task: the lists of its counters are emptied (R247), its depot contexts cleared (R326) and its depot region zeroed (R49). -/
def State.leaveDie (s : State) (d : Fin 8) (mask : BitVec 16) (bytes : Nat) : State :=
  let s := s.modDie d (fun x =>
    { x with
      dsp := Vector.ofFn (fun i => let y := vget x.dsp i; if mask.getLsbD i.val then { y with held := Vector.replicate 16 [], requeue := [] } else y)
      pools := Vector.replicate 8 none })
  s.memZero (depotAddr d) (depotAddr d + bytes)

/-- Zero the Tier N and Tier F ranges of a partition (R49, R470). -/
def State.zeroTiers (s : State) (n : Fin 8) : State :=
  let w := s.partMem n
  let s := s.memZero (gib * fldN w 0 10) (gib * fldN w 10 10)
  s.memZero (tierFBase + gib * fldN w 20 12) (tierFBase + gib * fldN w 32 12)

/-- The mailbox registers of a die at task entry and at task end (R417). -/
def State.mailClear (s : State) (d : Option (Fin 8)) : State :=
  match d with
  | some d => s.modDie d (fun k => { k with mbox0 := 0, mbox1 := 0, sent := 0 })
  | none => s

/-- End the task of a partition (R49): the balance check, the completion record, and zero in every region of the task. -/
def State.endTask (s : State) (t : Task) : State :=
  let s := t.cores.foldl (fun s c => s.balance c) s
  let unb := t.cores.any (fun c => decide ((s.core c).unbalanced ≠ 0))
  let faulted := (t.cores.filter (fun c => (s.core c).fring.faulted)).length
  let flags := t.cores.foldl (fun (w : BitVec 13) c => w ||| (s.core c).flagsSum) 0
  let s := if t.discard then s
    else s.complete t.fn
      { CqEntry.blank 0xFFFF 1 with aborted := t.aborted, unbalanced := unb, task := t.num, faulted := BitVec.ofNat 16 faulted,
                                    flagsSum := flags.setWidth 32, part := some t.part }
  let s := if t.part = s.pkg.grp.part ∧ (faulted ≠ 0 ∨ unb) then s.modGrp (fun g => { g with taskFault := true }) else s
  let s := s.mailClear t.dies.head?
  let masks := t.dies.map (fun d => s.taskCounters t d)
  let s := ((t.dies.zip masks).zip t.depot).foldl (fun s x => s.leaveDie x.1.1 x.1.2 x.2) s
  let s := t.cores.foldl (fun s c => s.leaveTask c) s
  let s := s.zeroTiers t.part
  s.modPkg (fun p => { p with tasks := p.tasks.filter (fun x => !decide (x.part = t.part)),
                              legTab := p.legTab.filter (fun e => decide (e.1 ≠ t.num)) })

/-- The task of a partition ends at once, as every core of it halts with a reset of the part (R50). -/
def State.finishTask (s : State) (n : Fin 8) : State :=
  match s.taskOf n with
  | some t => (t.cores.foldl (fun s c => s.modCore c (fun k => { k with run := .halted })) s).endTask t
  | none => s

/-- The task of a partition ends once every core of it has halted (R49). -/
def execTaskEnd (n : Fin 8) (s : State) : Res :=
  match s.taskOf n with
  | none => .next s
  | some t => if s.taskHalted t then .next (s.endTask t) else .next s

end Sys2Proof.Machine
end

