-- ==== Sys2Proof/Machine/SecOps.lean ====
section
/-! DEFINITION. What several families share of the security engine: measurements, memory keys, interface errors, partitions and the reset of a host function (R371, R435, R463, R469 to R473). -/

namespace Sys2Proof.Machine

/-- Change the security state. -/
def State.modSec (s : State) (g : Sec → Sec) : State := s.modPkg (fun p => { p with sec := g p.sec })

/-- Write PM_n (R463, R527). -/
def State.setPm (s : State) (n : Fin 8) (v : List Byte) : State := (s.modSec (fun x => { x with pm := vset x.pm n v })).bumpSeq

/-- Extend PM_n by a value (R463). -/
def State.extendPm (s : State) (n : Fin 8) (v : List Byte) : State := s.setPm n (sha384 (vget s.pkg.sec.pm n ++ v))

/-- The state of the interface of a partition (R472). -/
def State.tdi (s : State) (n : Fin 8) : TdiSt := vget s.pkg.sec.tdi n

/-- Set the state of an interface. -/
def State.setTdi (s : State) (n : Fin 8) (t : TdiSt) : State := s.modSec (fun x => { x with tdi := vset x.tdi n t })

/-- Whether partition `n` is protected from the PF (R473). -/
def State.guarded (s : State) (n : Fin 8) : Bool := decide (s.tdi n ≠ .unlocked)

/-- The memory key pair of a partition is destroyed (R469, R470): what its lines held is unreadable from then on. -/
def State.destroyMemKeys (s : State) (n : Fin 8) : State :=
  if s.pkg.sec.keys.getLsbD n.val then
    let (x, s) := s.spend
    let w := s.partMem n
    let s := s.modSec (fun k => { k with keys := setBit k.keys n.val false, dying := setBit k.dying n.val false })
    { s with mem := (s.mem.scramble (gib * fldN w 0 10) (gib * fldN w 10 10) (Config.freeByte x)).scramble
               (tierFBase + gib * fldN w 20 12) (tierFBase + gib * fldN w 32 12) (Config.freeByte x) }
  else s

/-- Whether no access of a partition is outstanding: no transfer and no store of a core that holds one of its sections (R470). -/
def State.noAccess (s : State) (n : Fin 8) : Bool :=
  match s.taskOf n with
  | some t => t.cores.all (fun c => (s.core c).slots.toList.all (fun x => x.out.isEmpty) && !s.storesOut c)
  | none => true

/-- The memory keys of a partition are destroyed, and with that its interface is in ERROR (R469, R472). -/
def State.tdiFail (s : State) (n : Fin 8) : State := ((s.destroyMemKeys n).modSec (fun k => { k with dying := setBit k.dying n.val false })).setTdi n .error

/-- A locked or running interface enters ERROR (R472, TDI_ERROR): the task is aborted, and the memory keys are destroyed first, once no access of the partition is outstanding (R469, R470). -/
def State.tdiError (s : State) (n : Fin 8) : State :=
  if s.tdi n = .locked ∨ s.tdi n = .run then
    let s := s.abortTask n
    if s.noAccess n then s.tdiFail n else s.modSec (fun k => { k with dying := setBit k.dying n.val true })
  else s

/-- Whether a partition's ranges or dies overlap those of another enabled one (R371). -/
def partOverlap (v w : Word) : Bool :=
  let meet (a b c d : Nat) : Bool := decide (a < d) && decide (c < b) && decide (a < b) && decide (c < d)
  partEn v && partEn w &&
    (decide (partDies v &&& partDies w ≠ 0) || meet (fldN v 0 10) (fldN v 10 10) (fldN w 0 10) (fldN w 10 10) ||
      meet (fldN v 20 12) (fldN v 32 12) (fldN w 20 12) (fldN w 32 12))

/-- Create the partition that PARTn_MEM names: EN, new memory keys, PM_n zero, zero in every line of its ranges (R463, R470). -/
def State.createPart (s : State) (n : Fin 8) (w : Word) : State :=
  let s := s.modPkg (fun p => { p with partMem := vset p.partMem n w })
  let s := s.modSec (fun k => { k with keys := setBit k.keys n.val true })
  (s.setPm n (zeros 48)).zeroTiers n

/-- What of `[a, b)` lies outside `[c, d)`. -/
def outside (a b c d : Nat) : List (Nat × Nat) := [(a, Nat.min b c), (Nat.max a d, b)]

/-- Lines that leave the ranges of a partition, or enter them, while its keys live change their key pair: what they held is unreadable from then on (R381, R470). -/
def State.rekeyLines (s : State) (v w : Word) : State :=
  let both (b x y : Nat) : List (Nat × Nat) :=
    let r (u : Word) : Nat × Nat := (b + gib * fldN u x (y - x), b + gib * fldN u y (y - x))
    outside (r v).1 (r v).2 (r w).1 (r w).2 ++ outside (r w).1 (r w).2 (r v).1 (r v).2
  let ls := (both 0 0 10 ++ both tierFBase 20 32).filter (fun l => decide (l.1 < l.2))
  if ls.isEmpty then s
  else
    let (x, s) := s.spend
    { s with mem := ls.foldl (fun m l => m.scramble l.1 l.2 (Config.freeByte x)) s.mem }

/-- Clear PARTn_MEM.EN; the memory keys go with it (R469). -/
def State.closePart (s : State) (n : Fin 8) : State :=
  let s := s.destroyMemKeys n
  s.modPkg (fun p => { p with partMem := vmod p.partMem n (fun w => setBit w 52 false) })

/-! ### Signatures (R462, R466, R467) -/

/-- Whether a signature block has the layout of R466: its magic, its version, and 0 in its reserved bytes (R9). -/
def sigForm (b : List Byte) : Bool :=
  decide (ofLE (b.take 4) = 0x31474953) && decide (b.getD 4 0 = 1) && ((b.drop 6).take 2 ++ (b.drop 0x1CFC).take 4).all (fun x => decide (x = 0))

/-- KEY of a signature block. -/
def sigKey (b : List Byte) : Byte := b.getD 5 0

/-- ECPUB of a signature block. -/
def sigEcPub (b : List Byte) : List Byte := (b.drop 0x008).take 97

/-- MLPUB of a signature block. -/
def sigMlPub (b : List Byte) : List Byte := (b.drop 0x069).take 2592

/-- Whether both signatures of a block verify over a message (R466). -/
def sigVerifies (b m : List Byte) : Bool :=
  Config.ecVerify (sigEcPub b) m ((b.drop 0xA89).take 96) && Config.mlVerify (sigMlPub b) m ((b.drop 0xAE9).take 4627)

/-- Whether the public keys of a block have the given hashes. -/
def sigHashes (b ec ml : List Byte) : Bool := decide (sha384 (sigEcPub b) = ec ∧ sha384 (sigMlPub b) = ml)

/-- The bytes of the owner record that its digest and its HMAC cover; the flag follows the keys. -/
def Owner.bytes (o : Owner) : List Byte := o.ec ++ o.ml ++ leBytes 1 o.only.toNat

/-- The HMAC of an owner record under the key that the security engine has derived from the UDS (R468). -/
def State.ownerMac (s : State) (o : Owner) : List Byte := hmac384 s.pkg.sec.ownerKey o.bytes

/-- The owner record: one whose HMAC fails is absent (R468). -/
def State.owner (s : State) : Option Owner := s.pkg.sec.owner.filter (fun o => decide (o.mac = s.ownerMac o))

/-- Whether a signature block admits an image of a digest (R467). -/
def State.imageSigned (s : State) (b m : List Byte) : Bool :=
  sigForm b && sigVerifies b m &&
    (if sigKey b = 0 then sigHashes b s.pkg.fuses.imgEc s.pkg.fuses.imgMl && !((s.owner.map Owner.only).getD false)
     else if sigKey b = 1 then (match s.owner with | some o => decide (sigEcPub b = o.ec ∧ sigMlPub b = o.ml) | none => false)
     else false)

/-! ### Host functions -/

/-- Discard the translations of a function (R377). -/
def State.atcDrop (s : State) (f : Fin 9) : State := s.modPkg (fun p => { p with atc := p.atc.filter (fun e => decide (e.fn ≠ f)), atsAsked := p.atsAsked.filter (fun q => decide (q.1 ≠ f)) })

/-- A function's IDE stream leaves the secure state or loses its keys (R469, R472). -/
def State.ideDrop (s : State) (f : Fin 9) : State :=
  let s := s.modFn f (fun h => { h with ide := .none })
  match partOfVf f with
  | some n => s.tdiError n
  | none => s

/-- The commands of a function that are in flight complete without a completion entry (R435): those fetched, a LOAD, and a join. -/
def State.muteCmds (s : State) (f : Fin 9) : State :=
  s.modPkg (fun p =>
    { p with
      loads := p.loads.map (fun j => if j.fn = f then { j with sub := { j.sub with mute := true } } else j)
      grp := { p.grp with joins := p.grp.joins.map (fun j => if j.fn = f then { j with mute := true } else j) } })

/-- What the reset of a function does to the function itself: rings, page, translations and IDE keys (R377, R435, R469); its commands in flight stay. -/
def State.fnReset (s : State) (f : Fin 9) : State :=
  (((s.modFn f (fun h => { HostFn.reset with fetched := h.fetched.map (fun x => { x with mute := true }) })).muteCmds f).atcDrop f).ideDrop f

/-- The reset of the VF of a partition (R435): its task ends as at an abort, with no record. -/
def State.vfReset (s : State) (n : Fin 8) : State := (s.abortTask n true).fnReset ⟨n.val + 1, by omega⟩

/-- The reset of the PF and of every VF (R435). -/
def State.pfReset (s : State) : State :=
  let s := (fins 8).foldl (fun s n => s.vfReset n) s
  (s.fnReset 0).modPkg (fun p => { p with numVfs := 0 })

end Sys2Proof.Machine
end

