-- ==== Sys2Proof/Machine/HostLink.lean ====
section
/-! DEFINITION. The rings, the interrupts and BAR2 of the host link, and function resets (R434 to R451, R519). -/

namespace Sys2Proof.Machine

/-! ### Rings (R443, R446) -/

/-- Entries of a ring, of a size code that is not reserved. -/
def ringLen (size : BitVec 4) : Nat := 2 ^ size.toNat

/-- Whether a size code is not reserved. -/
def ringSizeOk (size : BitVec 4) : Bool := decide (4 ≤ size.toNat ∧ size.toNat ≤ 12)

/-- A write to SQ_TAIL (R446). -/
def HostFn.sqTailWrite (h : HostFn) (v : Word) : HostFn :=
  if h.sqEn ∧ fldN v 0 12 < ringLen h.sqSize then { h with sqTail := fld v 0 12 } else { h with ringErr := true, sqEn := false }

/-- Entries of the completion ring that were written and are not consumed. -/
def HostFn.cqUsed (h : HostFn) : Nat := (h.cqTail.toNat + ringLen h.cqSize - h.cqHead.toNat) % ringLen h.cqSize

/-- A write to CQ_HEAD (R446). -/
def HostFn.cqHeadWrite (h : HostFn) (v : Word) : HostFn :=
  let i := fldN v 0 12
  let n := ringLen h.cqSize
  if i < n ∧ (i + n - h.cqHead.toNat) % n ≤ h.cqUsed then { h with cqHead := fld v 0 12 } else { h with ringErr := true }

/-- A write to RING_CFG (R443): a SIZE field takes effect only while its ring is disabled, a reserved SIZE lets no EN set, and an EN that sets resets its ring. -/
def HostFn.ringCfgWrite (h : HostFn) (v : Word) : HostFn :=
  let sqSize := if h.sqEn then h.sqSize else fld v 0 4
  let cqSize := if h.cqEn then h.cqSize else fld v 8 4
  let sqEn := bit v 4 && ringSizeOk sqSize
  let cqEn := bit v 12 && ringSizeOk cqSize
  let h := { h with sqSize := sqSize, cqSize := cqSize }
  let h := if sqEn && !h.sqEn then { h with sqHead := 0, sqTail := 0 } else h
  let h := if cqEn && !h.cqEn then { h with cqHead := 0, cqTail := 0, phase := true } else h
  { h with sqEn := sqEn, cqEn := cqEn }

/-- Vectors that a function has (R450). -/
def vectorCount (f : Fin 9) : Nat := if f = 0 then 128 else 16

/-- Whether a vector is fixed on a function (R450). -/
def fixedVector (f : Fin 9) (v : Nat) : Bool := if f = 0 then decide (1 ≤ v ∧ v ≤ 5) else decide (v = 1)

/-- A write to CQ_IRQ (R443): a fixed vector, or one that the function does not have, refuses it. -/
def HostFn.cqIrqWrite (h : HostFn) (f : Fin 9) (v : Word) : HostFn :=
  if fixedVector f (fldN v 0 7) ∨ fldN v 0 7 ≥ vectorCount f then { h with ringErr := true }
  else { h with vector := fld v 0 7, ithresh := fld v 8 8, itime := fld v 16 16 }

/-- A write to the page of a function: it arrives while the function exists and its link is up (R441). -/
def State.pageWrite (s : State) (f : Fin 9) (g : HostFn → HostFn) : State := if s.fnTlp f then s.modFn f g else s

/-- SQ_TAIL (R446). -/
def execSqTailDoorbell (f : Fin 9) (v : Word) (s : State) : Res := .next (s.pageWrite f (fun h => h.sqTailWrite v))

/-- CQ_HEAD (R446). -/
def execCqHeadDoorbell (f : Fin 9) (v : Word) (s : State) : Res := .next (s.pageWrite f (fun h => h.cqHeadWrite v))

/-- RING_CFG (R443). -/
def execRingCfgWrite (f : Fin 9) (v : Word) (s : State) : Res := .next (s.pageWrite f (fun h => h.ringCfgWrite v))

/-! ### Fetching a submission (R444 to R446) -/

/-- The submission that 64 bytes hold (R444). -/
def Submission.ofBytes (bs : List Byte) : Submission :=
  let n (o k : Nat) : Nat := ofLE ((bs.drop o).take k)
  ⟨BitVec.ofNat 8 (n 0 1), BitVec.ofNat 16 (n 2 2), BitVec.ofNat 8 (n 4 1), BitVec.ofNat 64 (n 8 8), BitVec.ofNat 64 (n 16 8), BitVec.ofNat 64 (n 24 8), false⟩

/-- Whether the reserved bytes of an entry are 0 (R444). -/
def entryClean (bs : List Byte) : Bool :=
  ([1, 5, 6, 7] ++ (List.range 32).map (fun i => 0x20 + i)).all (fun i => decide (bs.getD i 0 = 0))

/-- Whether a word holds nothing outside the given fields (first bit, width). -/
def onlyBits (w : Word) (fs : List (Nat × Nat)) : Bool := decide (fs.foldl (fun w f => setFld w f.1 f.2 0) w = 0)

/-- Whether the arguments of a command hold no reserved bit and no value out of range (R445); the staging range, and a job's counts and place, are judged with the command. -/
def Submission.argsOk (x : Submission) : Bool :=
  match x.op.toNat with
  | 0x01 => decide (x.arg0.toNat % 4096 = 0 ∧ x.arg2.toNat % 64 = 0)
  | 0x02 => onlyBits x.arg0 [(0, 16)] && decide (x.arg1 = 0 ∧ x.arg2 = 0)
  | 0x10 =>
    let role := fldN x.arg0 12 2
    onlyBits x.arg0 [(0, 12), (12, 2), (14, 3), (28, 12), (40, 1), (41, 12)] && decide (x.arg1 = 0 ∧ x.arg2 = 0) && decide (role ≤ 2) &&
      (if bit x.arg0 40 then decide (role = 2) else decide (fldN x.arg0 41 12 = 0))
  | 0x11 => onlyBits x.arg0 [(0, 12), (12, 1), (13, 1)] && decide (x.arg1 = 0 ∧ x.arg2 = 0) && !(bit x.arg0 12 && bit x.arg0 13)
  | 0x12 => onlyBits x.arg1 [(0, 16), (16, 32)] && decide (x.arg2 = 0)
  | _ => true

/-- The partition that a submission of a function names: a VF names its own (R444). -/
def Submission.partition (x : Submission) (f : Fin 9) : Fin 8 := (partOfVf f).getD (Fin.ofNat 8 x.part.toNat)

/-- Whether PARTITION is in range: 0 to 7 from the PF, 0 from a VF (R444). -/
def Submission.partOk (x : Submission) (f : Fin 9) : Bool := if f = 0 then decide (x.part.toNat < 8) else decide (x.part = 0)

/-- Opcodes of R445. -/
def knownOp (op : Byte) : Bool := [0x01, 0x02, 0x10, 0x11, 0x12].contains op.toNat

/-- Whether the PKC may fetch an entry of a function (R446). -/
def State.fetchReady (s : State) (f : Fin 9) : Bool :=
  let h := s.fn f
  s.fnTlp f && decide (2 ≤ s.pkg.level.toNat) && h.sqEn && decide (h.sqHead ≠ h.sqTail)

/-- The function whose entry is fetched next: the first that has one, in rotating order (R446). -/
def State.fetchNext (s : State) : Option (Fin 9) := ((fins 9).map (fun i => s.pkg.fetchTurn + i)).find? (fun f => s.fetchReady f)

/-- The PKC fetches the entry at SQ_HEAD of the function whose turn it is (R446): `e` holds its bytes; a reserved opcode or a reserved bit completes at once. -/
def execSubmissionFetch (f : Fin 9) (e : List Byte) (s : State) : Res :=
  let h := s.fn f
  if s.fetchNext ≠ some f then .next s
  else
    let s := s.modPkg (fun p => { p with fetchTurn := f + 1 })
    let s := s.send (.hostRead f (h.sqBase.toNat * 4096 + 64 * h.sqHead.toNat) 64)
    let s := s.modFn f (fun h => { h with sqHead := BitVec.ofNat 12 ((h.sqHead.toNat + 1) % ringLen h.sqSize) })
    let x := Submission.ofBytes e
    if !knownOp x.op then .next (s.completeCmd f x.cid 0x0100)
    else if !(entryClean e && x.partOk f && x.argsOk) then .next (s.completeCmd f x.cid 0x0101)
    else .next (s.modFn f (fun h => { h with fetched := h.fetched ++ [x] }))

/-- Begin the oldest fetched submission of a function, named by opcode and CID: a function's commands begin in ring order (R446). -/
def State.takeSub (s : State) (f : Fin 9) (op : Nat) (cid : BitVec 16) : Option (Submission × State) :=
  let hit (x : Submission) : Bool := decide (x.op.toNat = op ∧ x.cid = cid)
  ((s.fn f).fetched.head?.filter hit).map (fun x => (x, s.modFn f (fun h => { h with fetched := h.fetched.tail })))

/-- Complete a command, unless a reset of its function has taken its completion entry (R435). -/
def State.finish (s : State) (f : Fin 9) (x : Submission) (status : BitVec 16) (detail : BitVec 32 := 0) (task : BitVec 16 := 0) : State :=
  if x.mute then s else s.completeCmd f x.cid status detail task

/-! ### Completions and interrupts (R447, R448, R450, R451) -/

/-- The 32 bytes of a completion entry (R447): EPOCH of kinds 2 and 3, and TIME, are those of this moment. -/
def State.cqBytes (s : State) (e : CqEntry) (phase : Bool) : List Byte :=
  leBytes 2 e.cid.toNat ++ leBytes 1 e.kind.toNat ++ leBytes 1 (phase.toNat + 2 * e.aborted.toNat + 4 * e.unbalanced.toNat) ++
    leBytes 2 e.status.toNat ++ leBytes 2 e.task.toNat ++ leBytes 4 e.detail.toNat ++ leBytes 2 e.faulted.toNat ++ leBytes 2 0 ++
    leBytes 4 e.flagsSum.toNat ++ leBytes 4 (if e.kind = 2#8 ∨ e.kind = 3#8 then s.pkg.epoch.toNat else 0) ++ leBytes 8 s.pkg.aclk.toNat

/-- Send the completion vector: the entries written so far are covered (R451). -/
def State.cqVector (s : State) (f : Fin 9) : State := (s.modFn f (fun h => { h with since := 0 })).msix f (s.fn f).vector.toNat

/-- The completion vector is due once ITHRESH entries are written that it does not cover, or one with ITIME = 0 (R451). -/
def State.cqDue (s : State) (f : Fin 9) : State :=
  let h := s.fn f
  if h.since ≠ 0 ∧ (h.since ≥ h.ithresh.toNat ∨ h.itime = 0) then s.cqVector f else s

/-- The PKC writes the oldest held entry of a function when its ring has room (R448); the vector follows when ITHRESH entries, or ITIME = 0 cycles, are reached (R451). -/
def execCompletionWrite (f : Fin 9) (s : State) : Res :=
  let h := s.fn f
  match h.held with
  | [] => .next s
  | e :: rest =>
    if !s.fnTlp f || !h.cqEn || decide (h.cqUsed + 1 ≥ ringLen h.cqSize) then .next s
    else
      let t := (h.cqTail.toNat + 1) % ringLen h.cqSize
      let s := s.send (.hostWrite f (h.cqBase.toNat * 4096 + 32 * h.cqTail.toNat) (s.cqBytes e h.phase))
      let s := s.modFn f (fun h =>
        { h with held := rest, cqTail := BitVec.ofNat 12 t, phase := if t = 0 then !h.phase else h.phase, since := h.since + 1 })
      let s := if e.kind = 3#8 ∧ f = 0 then s.pfEvent 3 4 else s
      .next (s.cqDue f)

/-- CQ_IRQ (R443): a threshold that the entries written have reached already is due at once (R451). -/
def execCqIrqWrite (f : Fin 9) (v : Word) (s : State) : Res := if s.fnTlp f then .next ((s.modFn f (fun h => h.cqIrqWrite f v)).cqDue f) else .next s

/-- ITIME cycles have passed since the first uncovered entry (R451). -/
def execCqInterruptTimeout (f : Fin 9) (s : State) : Res := if (s.fn f).since = 0 then .next s else .next (s.cqVector f)

/-- Clear the mask of a vector: a pending message is sent (R451). -/
def State.unmask (s : State) (f : Fin 9) (v : Nat) : State :=
  let h := s.fn f
  let s := s.modFn f (fun h => { h with msixMask := setBit h.msixMask v false, msixPend := setBit h.msixPend v false })
  if h.msixPend.getLsbD v then s.send (.msix f v) else s

/-- The host unmasks a vector (R451). -/
def execMsixUnmask (f : Fin 9) (v : Fin 128) (s : State) : Res :=
  if s.fnTlp f ∧ v.val < vectorCount f then .next (s.unmask f v.val) else .next s

/-! ### BAR2 (R442, R372, R473, R519) -/

/-- The device address of an aperture offset: the bits of AP_BASE below the aperture size are ignored (R442). -/
def HostFn.apAddr (h : HostFn) (off : Nat) : Nat := (gib * h.apBase.toNat) / 2 ^ h.bar2 * 2 ^ h.bar2 + off

/-- The enabled partition whose register names a byte of a tier. -/
def State.tierOwner (s : State) (a : Nat) : Option (Fin 8) :=
  (fins 8).find? (fun n =>
    let w := s.partMem n
    partEn w && (match s.region a with
      | .tierN x => decide (gib * fldN w 0 10 ≤ x ∧ x < gib * fldN w 10 10)
      | .tierF x => decide (gib * fldN w 20 12 ≤ x ∧ x < gib * fldN w 32 12)
      | .depot d _ => (partDies w).getLsbD d.val
      | .clm c _ => (partDies w).getLsbD c.die.val
      | _ => false))

/-- Whether the PF may reach a byte of memory (R372, R470, R473): it lies in a populated memory, its owner is not protected, and its key is live. -/
def State.pfByte (s : State) (a : Nat) : Bool :=
  match s.region a with
  | .tierN _ | .tierF _ => (match s.tierOwner a with | some n => !s.guarded n && s.pkg.sec.keys.getLsbD n.val | none => s.pkg.sec.pkcKeys)
  | .depot _ _ | .clm _ _ => (match s.tierOwner a with | some n => !s.guarded n | none => true)
  | _ => false

/-- Whether two regions are one memory. -/
def Region.same : Region → Region → Bool
  | .tierN _, .tierN _ => true
  | .tierF _, .tierF _ => true
  | .depot d _, .depot e _ => decide (d = e)
  | .clm c _, .clm e _ => decide (c = e)
  | _, _ => false

/-- Whether a BAR2 access of a function may be performed (R370, R372, R442). -/
def State.bar2Ok (s : State) (f : Fin 9) (off len : Nat) : Bool :=
  let h := s.fn f
  let a := h.apAddr off
  let mem := Region.same (s.region a) (s.region (a + len - 1))
  decide (off + len ≤ 2 ^ h.bar2) && decide (0 < len) && mem && decide (2 ≤ s.pkg.level.toNat) &&
    (match partOfVf f with
     | some n => s.inBounds n a len
     | none => s.pfByte a && s.pfByte (a + len - 1))

/-- Units that a byte range overlaps. -/
def unitsOf (a len : Nat) : List Nat := ((List.range len).map (fun i => unitOf (a + i))).eraseDups

/-- An error that AER logs (R434). PRESUMED (PCIe): bit 12 of the Uncorrectable Error Status is Poisoned TLP Received, bit 20 Unsupported Request Error. -/
def State.aerError (s : State) (f : Fin 9) (b : Nat) : State := s.modFn f (fun h => { h with aer := setBit h.aer b true })

/-- A request completes with Unsupported Request (R359, R439, R473). -/
def State.unsupported (s : State) (f : Fin 9) : State := (s.aerError f 20).send (.unsupported f)

/-- A write marked poisoned: every unit that it touches holds the poison syndrome, and UNC_HOST is written (R519). -/
def State.poisonWrite (s : State) (f : Fin 9) (a len : Nat) : State :=
  let s := { s with ecc := (unitsOf a len).foldl (fun m u => markIns u .poison m) s.ecc }
  (s.aerError f 12).pkcReport ⟨0x0807, 0, BitVec.ofNat 32 f.val, a, leBytes 1 5⟩

/-- A write through BAR2 (R442, R519). -/
def execHostBar2Write (f : Fin 9) (off : Nat) (data : List Byte) (ep : Bool) (s : State) : Res :=
  if !s.fnUp f then .next s
  else if !s.tlpOk f then .next (s.aerError f 20)
  else if !s.bar2Ok f off data.length then .next (s.agentMiss (.host f))
  else
    let a := (s.fn f).apAddr off
    let s := s.wakeFor a
    .next (if ep then s.poisonWrite f a data.length else s.memWrite a data)

/-- A read through BAR2 (R442): poisoned data complete with EP set (R519). -/
def execHostBar2Read (f : Fin 9) (off len : Nat) (s : State) : Res :=
  if !s.fnUp f then .next s
  else if !s.tlpOk f then .next (s.unsupported f)
  else if !s.bar2Ok f off len then .next ((s.agentMiss (.host f)).unsupported f)
  else
    let a := (s.fn f).apAddr off
    let (s, e) := (s.wakeFor a).eccRead [(a, len)]
    .next (s.send (.readData f (s.mem.read a len) e.poison.isSome))

/-! ### Function level resets (R435) -/

/-- A Function Level Reset of the VF of partition `n`. -/
def execFlrVf (n : Fin 8) (s : State) : Res := if n.val < s.pkg.numVfs then .next (s.vfReset n) else .next s

/-- A Function Level Reset of the PF. -/
def execFlrPf (s : State) : Res := if s.pkg.pcieUp then .next s.pfReset else .next s

end Sys2Proof.Machine
end

