-- ==== Sys2Proof/Machine/Loader.lean ====
section
/-! DEFINITION. The loader firmware: the checks of an image in their order, its placement, and the LOAD and ABORT commands (R37 to R46, R50, R242 to R246, R326, R556, R557). -/

namespace Sys2Proof.Machine

/-! ### Reading an image (R37 to R41, R242, R243) -/

/-- An image in its staging area. -/
structure Img where
  mem : Memory
  base : Nat
  len : Nat

/-- The `k`-byte number at offset `o` of an image. -/
def Img.n (x : Img) (o k : Nat) : Nat := x.mem.readN (x.base + o) k

/-- The bytes of a range of an image. -/
def Img.bytes (x : Img) (o k : Nat) : List Byte := x.mem.read (x.base + o) k

def Img.isaGen (x : Img) : Nat := x.n 0x0A 1
def Img.features (x : Img) : Nat := x.n 0x10 8
def Img.imageBytes (x : Img) : Nat := x.n 0x18 8
def Img.resOff (x : Img) : Nat := x.n 0x20 4
def Img.resBytes (x : Img) : Nat := x.n 0x24 4
def Img.secOff (x : Img) : Nat := x.n 0x28 4
def Img.secCount (x : Img) : Nat := x.n 0x2C 2
def Img.dieCount (x : Img) : Nat := x.n 0x2E 2
def Img.legOff (x : Img) : Nat := x.n 0x30 4
def Img.legCount (x : Img) : Nat := x.n 0x34 2
def Img.semiCount (x : Img) : Nat := x.n 0x36 2
def Img.semiOff (x : Img) : Nat := x.n 0x38 4
def Img.argBytes (x : Img) : Nat := x.n 0x3C 4
def Img.tierN (x : Img) : Nat := x.n 0x40 8
def Img.tierF (x : Img) : Nat := x.n 0x48 8
def Img.sigOff (x : Img) : Nat := x.n 0x50 4
def Img.sigBytes (x : Img) : Nat := x.n 0x54 4

/-- Offset of section entry `i` (R40). -/
def Img.secAt (x : Img) (i : Nat) : Nat := x.secOff + 64 * i
/-- A field of section entry `i`. -/
def Img.sec (x : Img) (i o k : Nat) : Nat := x.n (x.secAt i + o) k
def Img.secDie (x : Img) (i : Nat) : Nat := x.sec i 0x00 1
def Img.secRow (x : Img) (i : Nat) : Nat := x.sec i 0x01 1
def Img.secCol (x : Img) (i : Nat) : Nat := x.sec i 0x02 1
def Img.textOff (x : Img) (i : Nat) : Nat := x.sec i 0x04 4
def Img.textBytes (x : Img) (i : Nat) : Nat := x.sec i 0x08 4
def Img.entry (x : Img) (i : Nat) : Nat := x.sec i 0x0C 4
def Img.dataOff (x : Img) (i : Nat) : Nat := x.sec i 0x10 4
def Img.dataBytes (x : Img) (i : Nat) : Nat := x.sec i 0x14 4
def Img.clmBytes (x : Img) (i : Nat) : Nat := x.sec i 0x18 4
def Img.exwBytes (x : Img) (i : Nat) : Nat := x.sec i 0x1C 4
def Img.tsrBytes (x : Img) (i : Nat) : Nat := x.sec i 0x20 4
def Img.queueMask (x : Img) (i : Nat) : Nat := x.sec i 0x24 1
def Img.slotMask (x : Img) (i : Nat) : Nat := x.sec i 0x26 2
def Img.semMask (x : Img) (i : Nat) : Nat := x.sec i 0x28 8

/-- Offset of the entry of logical die `d` (R39). -/
def Img.dieAt (x : Img) (d : Nat) : Nat := x.resOff + 16 * d
def Img.depotBytes (x : Img) (d : Nat) : Nat := x.n (x.dieAt d) 4
def Img.counterMask (x : Img) (d : Nat) : Nat := x.n (x.dieAt d + 0x04) 2
def Img.barrierMask (x : Img) (d : Nat) : Nat := x.n (x.dieAt d + 0x06) 1

/-- Offset of the counts of pools and reservations. -/
def Img.countsAt (x : Img) : Nat := x.dieAt x.dieCount
def Img.poolCount (x : Img) : Nat := x.n x.countsAt 2
def Img.resvCount (x : Img) : Nat := x.n (x.countsAt + 2) 2
/-- Offset of pool entry `i`. -/
def Img.poolAt (x : Img) (i : Nat) : Nat := x.countsAt + 16 + 16 * i
def Img.poolId (x : Img) (i : Nat) : Nat := x.n (x.poolAt i) 2
def Img.poolKind (x : Img) (i : Nat) : Nat := x.n (x.poolAt i + 0x02) 1
def Img.poolOwner (x : Img) (i : Nat) : Nat := x.n (x.poolAt i + 0x04) 2
def Img.poolOff (x : Img) (i : Nat) : Nat := x.n (x.poolAt i + 0x08) 4
def Img.poolBytes (x : Img) (i : Nat) : Nat := x.n (x.poolAt i + 0x0C) 4
/-- Offset of reservation entry `i`. -/
def Img.resvAt (x : Img) (i : Nat) : Nat := x.poolAt x.poolCount + 16 * i
def Img.resvPool (x : Img) (i : Nat) : Nat := x.n (x.resvAt i) 2
def Img.resvSec (x : Img) (i : Nat) : Nat := x.n (x.resvAt i + 0x02) 2
def Img.resvSlot (x : Img) (i : Nat) : Nat := x.n (x.resvAt i + 0x04) 1
def Img.resvMin (x : Img) (i : Nat) : Nat := x.n (x.resvAt i + 0x08) 4

/-- Offset of the mapping table (R242). -/
def Img.mapTab (x : Img) : Nat := x.resvAt x.resvCount
/-- Whether the image has a mapping table. -/
def Img.hasMap (x : Img) : Bool := decide (x.mapTab < x.resOff + x.resBytes)
def Img.mapCount (x : Img) : Nat := if x.hasMap then x.n x.mapTab 2 else 0
/-- Offset of mapping entry `i`. -/
def Img.mapAt (x : Img) (i : Nat) : Nat := x.mapTab + 16 + 80 * i
/-- A field of mapping entry `i` (R243). -/
def Img.map (x : Img) (i o k : Nat) : Nat := x.n (x.mapAt i + o) k
def Img.mapFlags (x : Img) (i : Nat) : Nat := x.map i 0x02 1
def Img.mapDyn (x : Img) (i : Nat) : Bool := (x.mapFlags i).testBit 1
def Img.mapCarry (x : Img) (i : Nat) : Nat := x.mapFlags i / 8 % 4
def Img.mapBlk (x : Img) (i : Nat) : Nat := if (x.mapFlags i).testBit 2 then 16 else 32

/-- Offset of semaphore entry `j` (R41). -/
def Img.semiAt (x : Img) (j : Nat) : Nat := x.semiOff + 8 * j
def Img.semiSec (x : Img) (j : Nat) : Nat := x.n (x.semiAt j) 2
def Img.semiSem (x : Img) (j : Nat) : Nat := x.n (x.semiAt j + 2) 1
def Img.semiVal (x : Img) (j : Nat) : Nat := x.n (x.semiAt j + 4) 4

/-- Legend table entry `i`. -/
def Img.leg (x : Img) (i : Nat) : Leg := BitVec.ofNat 256 (x.n (x.legOff + 32 * i) 32)

/-- Section numbers. -/
def Img.secs (x : Img) : List Nat := List.range x.secCount

/-- Core number of a section's core in its die (R14). -/
def Img.secCore (x : Img) (i : Nat) : Nat := 4 * x.secRow i + x.secCol i

/-- The section at a core of a logical die. -/
def Img.secFor (x : Img) (die core : Nat) : Option Nat :=
  x.secs.find? (fun i => decide (x.secDie i = die ∧ x.secRow i < 4 ∧ x.secCol i < 4 ∧ x.secCore i = core))

/-! ### Checks -/

/-- A refusal: its code of R46 and its detail word. -/
abbrev Bad := Option (Nat × Nat)

/-- Pass, or refuse with a code and a detail word. -/
def need (ok : Bool) (code detail : Nat) : Bad := if ok then none else some (code, detail)

/-- The first refusal of a list of checks, in order. -/
def firstRefusal (cs : List (Unit → Bad)) : Bad := cs.findSome? (fun c => c ())

/-- A check over every number below `n`, in order. -/
def each (n : Nat) (f : Nat → Bad) : Bad := (List.range n).findSome? f

/-- Step 2. -/
def Img.step2 (x : Img) : Bad :=
  (need (decide (x.n 0 8 = 0x01474D49444D4C54)) 0x0003 0).orElse (fun _ =>
    (need (decide (x.n 0x08 2 = 1)) 0x0004 0x08).orElse (fun _ => need (decide (x.n 0x0C 4 = 128)) 0x0004 0x0C))

/-- The tables of an image: offset and length. -/
def Img.tables (x : Img) : List (Nat × Nat) :=
  [(0, 128), (x.resOff, x.resBytes), (x.secOff, 64 * x.secCount), (x.legOff, 32 * x.legCount), (x.semiOff, 8 * x.semiCount)]

/-- Whether two ranges overlap. -/
def overlap (a b : Nat × Nat) : Bool := decide (a.2 ≠ 0 ∧ b.2 ≠ 0 ∧ a.1 < b.1 + b.2 ∧ b.1 < a.1 + a.2)

/-- Whether a status ring size is one of R40. -/
def tsrOk (n : Nat) : Bool := (List.range 9).any (fun k => decide (n = 1024 * 2 ^ k))

/-- Step 3 (R37 to R42, R242, R466); the detail word is the offset of the field or table at fault. -/
def Img.step3 (x : Img) : Bad :=
  let ib := x.imageBytes
  firstRefusal [
    fun _ => need (decide (ib % 8 = 0 ∧ 128 ≤ ib ∧ ib + 48 ≤ x.len)) 5 0x18,
    fun _ => need (decide (x.sigOff % 8 = 0 ∧ ib + 48 ≤ x.sigOff)) 5 0x50,
    fun _ => need (decide (x.sigBytes = 7424)) 5 0x54,
    fun _ => need (decide (x.sigOff + x.sigBytes = x.len)) 5 0x50,
    fun _ => need (decide (1 ≤ x.secCount ∧ x.secCount ≤ 128)) 5 0x2C,
    fun _ => need (decide (1 ≤ x.dieCount ∧ x.dieCount ≤ 8)) 5 0x2E,
    fun _ => need (decide (x.legCount ≤ 4096)) 5 0x34,
    fun _ => need (decide (x.semiCount ≤ 8192)) 5 0x36,
    fun _ => need (decide (x.argBytes ≤ 65536 ∧ x.argBytes % 64 = 0)) 5 0x3C,
    fun _ => x.tables.findSome? (fun t => need (decide (t.1 + t.2 ≤ ib)) 5 t.1),
    fun _ => x.tables.zipIdx.findSome? (fun t => need ((x.tables.take t.2).all (fun u => !overlap u t.1)) 5 t.1.1),
    fun _ => need (decide (16 * x.dieCount + 16 ≤ x.resBytes)) 5 x.resOff,
    fun _ => need (decide (x.mapTab ≤ x.resOff + x.resBytes)) 5 x.countsAt,
    fun _ => if x.hasMap then
        need (decide (x.mapTab + 16 ≤ x.resOff + x.resBytes ∧ x.mapCount ≤ 256 ∧ x.mapAt x.mapCount = x.resOff + x.resBytes)) 5 x.mapTab
      else none,
    fun _ => each x.secCount (fun i =>
      need (decide (x.textOff i % 8 = 0 ∧ x.textBytes i % 8 = 0 ∧ 8 ≤ x.textBytes i ∧ x.textOff i + x.textBytes i ≤ ib ∧
        x.dataOff i + x.dataBytes i ≤ ib ∧ x.exwBytes i % 64 = 0) && tsrOk (x.tsrBytes i)) 5 (x.secAt i)),
    fun _ => each x.dieCount (fun d => need (decide (x.depotBytes d % 4096 = 0)) 5 (x.dieAt d))]

/-- Reserved fields of the header and the tables: offset and length, in order (R43 step 8). -/
def Img.reserved (x : Img) : List (Nat × Nat) :=
  [(0x0B, 1), (0x58, 40)] ++ (List.range x.dieCount).map (fun d => (x.dieAt d + 0x07, 9)) ++ [(x.countsAt + 4, 12)] ++
    (List.range x.poolCount).flatMap (fun i => [(x.poolAt i + 0x03, 1), (x.poolAt i + 0x06, 2)]) ++
    (List.range x.resvCount).flatMap (fun i => [(x.resvAt i + 0x05, 3), (x.resvAt i + 0x0C, 4)]) ++
    (if x.hasMap then [(x.mapTab + 2, 14)] else []) ++ (List.range x.mapCount).map (fun i => (x.mapAt i + 0x42, 14)) ++
    x.secs.flatMap (fun i => [(x.secAt i + 0x03, 1), (x.secAt i + 0x25, 1), (x.secAt i + 0x30, 16)]) ++
    (List.range x.semiCount).map (fun j => (x.semiAt j + 3, 1))

/-- Step 8 (R38, R43, R235, R243). -/
def Img.step8 (x : Img) : Bad :=
  firstRefusal [
    fun _ => x.reserved.findSome? (fun r => need (decide (x.n r.1 r.2 = 0)) 0x000B r.1),
    fun _ => each x.mapCount (fun i => (need (decide (x.mapFlags i / 32 = 0)) 0x000B (x.mapAt i + 0x02)).orElse (fun _ =>
      need (decide (x.map i 0x16 2 / 512 = 0)) 0x000B (x.mapAt i + 0x16))),
    fun _ => ((List.range (x.sigOff - (x.imageBytes + 48))).find? (fun k => decide (x.n (x.imageBytes + 48 + k) 1 ≠ 0))).map
      (fun k => (0x000B, x.imageBytes + 48 + k))]

/-! ### The text (steps 9 to 13) -/

/-- The instructions that a text spells from offset `pc`, each with its offset; `fuel` bounds them. A reserved encoding ends the list with its offset. -/
def decodeText (c : CoreId) : Nat → Nat → List Word → List (Nat × Instr) × Option Nat
  | 0, _, _ => ([], none)
  | _, _, [] => ([], none)
  | fuel + 1, pc, w :: ws =>
    match decodeG1 c w ws.head? with
    | none => ([], some pc)
    | some i =>
      let n := nextOf w
      let r := decodeText c fuel (pc + 8 * (1 + n)) (ws.drop n)
      ((pc, i) :: r.1, r.2)

/-- The instructions of section `i`. -/
def Img.code (x : Img) (i : Nat) : List (Nat × Instr) × Option Nat :=
  let n := x.textBytes i / 8
  decodeText ⟨0, Fin.ofNat 16 (x.secCore i)⟩ n 0 ((List.range n).map (fun k => BitVec.ofNat 64 (x.n (x.textOff i + 8 * k) 8)))

/-- Step 9. -/
def Img.step9 (x : Img) : Bad := each x.secCount (fun i => (x.code i).2.map (fun pc => (0x000C, x.textOff i + pc)))

/-- A check over every instruction of every section; the detail word is the image offset of the instruction. -/
def Img.everyInstr (x : Img) (code : Nat) (ok : Nat → Nat → Instr → Bool) : Bad :=
  each x.secCount (fun i => (x.code i).1.findSome? (fun p => need (ok i p.1 p.2) code (x.textOff i + p.1)))

/-- Whether a semaphore operand that is enabled is in a mask. -/
def semIn (mask : Nat) (en : Bool) (n : Fin 64) : Bool := !en || mask.testBit n.val

/-- Semaphores, enables, slot, queue, counter and channel that an instruction names on its own core or die (R26, R309); `.die` forms and the member posts of `str.mcast` are judged apart. -/
def ownHandles (sem slot queue counter barrier : Nat) (core : Nat) (i : Instr) : Bool :=
  let str (l : LayS) : Bool := slot.testBit l.slot.val && semIn sem l.den l.done && semIn sem l.een l.esem
  let prog (x : Option LayX) : Bool := match x with | some x => semIn sem x.pen x.prog | none => true
  let mm (l : LayP) : Bool := semIn sem l.den l.done && semIn sem l.fen l.free
  let box (l : LayY) : Bool := (l.die && decide (l.core.val ≠ core)) || sem.testBit l.sem.val
  match i with
  | .fenceKSem _ _ l => sem.testBit l.sem.val
  | .strLoad _ _ l x | .strStore _ _ l x => str l && prog x
  | .strGather _ _ l x => str l && prog x && (!l.idxq || queue.testBit l.idx.val)
  | .strMcast _ _ l _ => str l
  | .strRate _ _ l | .strResume _ _ l | .strAbort _ _ l => slot.testBit l.slot.val
  | .arrMm _ _ l => mm l
  | .jctSpmm _ _ l _ | .jctSpdot _ _ l _ => mm l
  | .jctBag _ _ l d => mm l && sem.testBit d.rowsem.val
  | .arrDrainPlain _ _ l | .arrDrainExw _ _ l | .arrDrainExwAdd _ _ l | .arrSave _ _ l | .arrLoad _ _ l | .jctDrain _ _ l => semIn sem l.den l.done
  | .vAdd _ _ l | .vMul _ _ l | .vFma _ _ l | .vMax _ _ l | .vExp _ _ l | .vRsqrt _ _ l | .vCvt _ _ l | .vReduce _ _ l | .vNorm2 _ _ l
  | .vSt _ _ l => semIn sem l.den l.done
  | .semAdd _ _ l | .semSub _ _ l | .semWait _ _ l | .semTake _ _ l | .semRead _ _ l => box l
  | .barArrive _ _ l | .barWait _ _ l => barrier.testBit l.ch.val
  | .dspTake _ _ l | .dspSetLimit _ _ l | .dspSetNext _ _ l | .dspSetRetire _ _ l => counter.testBit l.k.val
  | .qPush _ _ l | .qPop _ _ l => queue.testBit l.q.val
  | .sktPass _ _ l | .sktSelect _ _ l | .sktAudit _ _ l => semIn sem l.den l.done
  | _ => true

/-- Member cores of a `str.mcast`, as logical die and core (R239, R240). -/
def Img.members (x : Img) (i : Nat) (m : LayX) : List (Nat × Nat) :=
  if m.gkind then ((fins 8).filter (fun d => m.grp.getLsbD d.val)).flatMap (fun d => (List.range 16).map (fun k => (d.val, k)))
  else ((coreGroup ⟨0, Fin.ofNat 16 (x.secCore i)⟩ m.grp.toNat).getD []).map (fun c => (x.secDie i, c.core.val))

/-- Whether every handle of an instruction of section `i` is declared (R43 step 10, R269, R309). -/
def Img.handlesOk (x : Img) (i : Nat) (ins : Instr) : Bool :=
  let d := x.secDie i
  let inDie (f : Nat → Nat) : Nat := if d < x.dieCount then f d else 0
  let far (l : LayY) : Bool := !l.die || decide (l.core.val = x.secCore i) ||
    (match x.secFor d l.core.val with | some j => (x.semMask j).testBit l.sem.val | none => false)
  ownHandles (x.semMask i) (x.slotMask i) (x.queueMask i) (inDie x.counterMask) (inDie x.barrierMask) (x.secCore i) ins &&
    (match ins with
     | .semAdd _ _ l | .semSub _ _ l | .semWait _ _ l | .semTake _ _ l | .semRead _ _ l => far l
     | .strMcast _ _ _ m => (x.members i m).all (fun k => match x.secFor k.1 k.2 with
         | some j => semIn (x.semMask j) m.pen m.prog && semIn (x.semMask j) m.men m.msem
         | none => false)
     | _ => true)

/-- Step 10 (R41, R43). -/
def Img.step10 (x : Img) : Bad :=
  (x.everyInstr 0x000D (fun i _ ins => x.handlesOk i ins)).orElse (fun _ =>
    each x.semiCount (fun j =>
      need (decide (x.semiSec j < x.secCount ∧ x.semiSem j < 64) && (x.semMask (x.semiSec j)).testBit (x.semiSem j) &&
        (List.range j).all (fun k => decide (¬(x.semiSec k = x.semiSec j ∧ x.semiSem k = x.semiSem j)))) 0x000D j))

/-- The immediate target of an instruction at `pc`, and whether it is the end of a loop body (R24, R341, R342). -/
def immTarget (pc : Nat) (i : Instr) : Option (Int × Bool) :=
  match i with
  | .jmp _ _ l | .call _ _ l => if l.im then some ((pc : Int) + l.imm.toInt, false) else none
  | .br _ _ _ l => some ((pc : Int) + l.imm.toInt, false)
  | .loop _ _ l => some ((pc + 8 + 8 * fldN l.imm 0 16 : Nat), true)
  | _ => none

/-- Step 11 (R24, R43, R336): a target is the offset of an instruction; a loop body may end where the text ends. -/
def Img.step11 (x : Img) : Bad :=
  each x.secCount (fun i =>
    let code := (x.code i).1
    let starts := code.map Prod.fst
    (need (starts.contains (x.entry i)) 0x000E (x.secAt i + 0x0C)).orElse (fun _ =>
      code.findSome? (fun p =>
        match immTarget p.1 p.2 with
        | some (t, stop) => need (starts.any (fun q => decide ((q : Int) = t)) || (stop && decide (t = (x.textBytes i : Int)))) 0x000E (x.textOff i + p.1)
        | none => none)))

/-- The legend entries from `i` up, each checked with its extension; `fuel` bounds them (R34). -/
def Img.legsOk (x : Img) : Nat → Nat → Bad
  | 0, _ => none
  | fuel + 1, i =>
    if i ≥ x.legCount then none
    else
      let l := x.leg i
      if Leg.extd l then
        (need (decide (i + 1 < x.legCount) && View.valid ⟨0, l, x.leg (i + 1)⟩) 0x000F i).orElse (fun _ => x.legsOk fuel (i + 2))
      else (need (View.valid ⟨0, l, 0⟩) 0x000F i).orElse (fun _ => x.legsOk fuel (i + 1))

/-- Step 12 (R34, R43, R345). -/
def Img.step12 (x : Img) : Bad :=
  (x.legsOk x.legCount 0).orElse (fun _ =>
    each x.secCount (fun i => (x.code i).1.findSome? (fun p =>
      match p.2 with
      | .lgSet _ _ l => if l.tbl then need (decide (l.imm.toNat < x.legCount)) 0x000F l.imm.toNat else none
      | _ => none)))

/-- Step 13. -/
def Img.step13 (x : Img) : Bad := x.everyInstr 0x0010 (fun _ _ ins => ins.accOk)

/-! ### Resources (steps 14 to 18) -/

/-- Step 14: `dies` is the number of dies of the partition. -/
def Img.step14 (x : Img) (dies : Nat) : Bad :=
  (need (decide (x.dieCount ≤ dies)) 0x0011 0x2E).orElse (fun _ =>
    each x.secCount (fun i =>
      need (decide (x.secDie i < x.dieCount ∧ x.secRow i < 4 ∧ x.secCol i < 4) &&
        (List.range i).all (fun j => decide (¬(x.secDie j = x.secDie i ∧ x.secRow j = x.secRow i ∧ x.secCol j = x.secCol i)))) 0x0011 i))

/-- CLM offsets of the argument block, the working region, the ExW region, the status ring and the end of a section (R42). -/
def Img.lay (x : Img) (i : Nat) : Nat × Nat × Nat × Nat × Nat :=
  let a := alignUp (x.textBytes i) 4096
  let w := a + alignUp x.argBytes 4096
  let e := w + alignUp (x.clmBytes i) 4096
  let t := e + alignUp (x.exwBytes i) 4096
  (a, w, e, t, t + alignUp (x.tsrBytes i) 4096)

/-- Step 15. -/
def Img.step15 (x : Img) : Bad :=
  each x.secCount (fun i => need (decide ((x.lay i).2.2.2.2 ≤ 8384512 ∧ x.dataBytes i ≤ x.clmBytes i)) 0x0012 i)

/-- Step 16. -/
def Img.step16 (x : Img) : Bad := each x.dieCount (fun d => need (decide (x.depotBytes d ≤ depotSize)) 0x0013 d)

/-- Populated bytes of a range in GiB. -/
def freeBytes (lo hi size : Nat) : Nat := Nat.min (gib * hi) size - gib * lo

/-- Step 17: the partition's ranges as far as they are populated; detail 0 for Tier N, 1 for Tier F. -/
def State.step17 (s : State) (x : Img) (n : Fin 8) : Bad :=
  let w := s.partMem n
  (need (decide (x.tierN ≤ freeBytes (fldN w 0 10) (fldN w 10 10) s.tierNBytes)) 0x0014 0).orElse (fun _ =>
    need (decide (x.tierF ≤ freeBytes (fldN w 20 12) (fldN w 32 12) s.tierFBytes)) 0x0014 1)

/-- Pools of an owner before pool `i`: the number of its context (R326). -/
def Img.poolCtx (x : Img) (i : Nat) : Nat :=
  ((List.range i).filter (fun j => decide (x.poolKind j = x.poolKind i ∧ x.poolOwner j = x.poolOwner i))).length

/-- Reservations of a pool, in table order. -/
def Img.resvsOf (x : Img) (id : Nat) : List Nat := (List.range x.resvCount).filter (fun r => decide (x.resvPool r = id))

/-- Step 18 (R43, R326, R555): an entry that breaks R555 is named by its index, any other breach by its pool ID. -/
def Img.step18 (x : Img) : Bad :=
  firstRefusal [
    fun _ => each x.poolCount (fun i =>
      need ((List.range i).all (fun j => decide (x.poolId j ≠ x.poolId i)) && decide (x.poolKind i ≤ 1) &&
        decide (x.poolOwner i < if x.poolKind i = 0 then x.secCount else x.dieCount)) 0x0015 i),
    fun _ => each x.resvCount (fun r =>
      need ((List.range x.poolCount).any (fun i => decide (x.poolId i = x.resvPool r)) &&
        decide (x.resvSec r < x.secCount ∧ x.resvSlot r < 16)) 0x0015 r),
    fun _ => each x.poolCount (fun i =>
      let room := if x.poolKind i = 0 then x.clmBytes (x.poolOwner i) else x.depotBytes (x.poolOwner i)
      need (decide (x.poolOff i + x.poolBytes i ≤ room)) 0x0015 (x.poolId i)),
    fun _ => each x.poolCount (fun i =>
      need (decide (((x.resvsOf (x.poolId i)).map x.resvMin).foldl (fun a b => a + b) 0 ≤ x.poolBytes i)) 0x0015 (x.poolId i)),
    fun _ => each x.poolCount (fun i =>
      need (decide (x.poolCtx i < if x.poolKind i = 0 then 4 else 8) && decide ((x.resvsOf (x.poolId i)).length ≤ 16) &&
        (x.resvsOf (x.poolId i)).all (fun r => decide (256 ≤ x.resvMin r))) 0x0015 (x.poolId i))]

/-! ### Mapping checks (step 19, R234 to R236, R245, R246) -/

/-- A MAPPING refusal (R246). -/
def mapBad (ok : Bool) (chk map at'' : Nat) : Bad := need ok 0x0016 (map + 65536 * chk + 16777216 * at'')

/-- The core grid of a SPLIT code; checks 7 and 8 take 1 × 1 with DYNAMIC (R234, R245). -/
def Img.grid (x : Img) (i : Nat) : Nat × Nat :=
  if x.mapDyn i then (1, 1) else match x.map i 0x03 1 with | 0 => (4, 4) | 1 => (16, 1) | _ => (1, 16)

/-- The conditions of CARRY without the record size (R236). -/
def Img.carryOk (x : Img) (i : Nat) : Bool :=
  let k := x.map i 0x0C 4
  let kp := x.map i 0x20 4
  let kd := x.map i 0x2C 4
  let kc := x.map i 0x34 4
  let b := x.mapBlk i
  let exact := (x.mapFlags i).testBit 0
  match x.mapCarry i with
  | 0 => decide (kp = k ∧ kd = k ∧ kc = k)
  | 1 => exact && [kp, kd, kc].all (fun v => decide (v = k ∨ v % (4096 * b) = 0))
  | 2 => decide (kp = k ∧ kd = k ∧ kc % b = 0 ∧ x.map i 0x16 2 / 64 % 8 ≤ 1)
  | _ => !exact

/-- Work items of a DYNAMIC map (R245 check 11). -/
def Img.dynItems (x : Img) (i : Nat) : Nat :=
  let md := x.map i 0x24 4
  let nd := x.map i 0x28 4
  ceilDiv md (x.map i 0x30 2) * ceilDiv nd (x.map i 0x32 2) * ceilDiv (x.map i 0x18 4 / x.map i 0x14 1) md *
    ceilDiv (x.map i 0x1C 4 / x.map i 0x15 1) nd

/-- One check of R245 on mapping entry `i`; `group` is CAP_FEATURES.GROUP. -/
def Img.mapCheck (x : Img) (group : Bool) (chk i : Nat) : Bad :=
  let f (o k : Nat) : Nat := x.map i o k
  let (gr, gc) := x.grid i
  match chk with
  | 2 => mapBad (decide (f 0x03 1 ≤ 2 ∧ f 0x16 2 % 8 ≤ 5 ∧ f 0x16 2 / 8 % 8 ≤ 5 ∧ f 0x16 2 / 64 % 8 ≤ 5) &&
      decide ((f 0x41 1 = 1 ∨ f 0x41 1 = 2) ∧ f 0x40 1 ≤ 15)) 2 i 0
  | 3 => mapBad ([(0x04, 4), (0x08, 4), (0x0C, 4), (0x18, 4), (0x1C, 4), (0x20, 4), (0x24, 4), (0x28, 4), (0x2C, 4), (0x30, 2), (0x32, 2),
      (0x34, 4)].all (fun p => decide (1 ≤ f p.1 p.2))) 3 i 0
  | 4 => mapBad (decide (1 ≤ f 0x10 2 ∧ 1 ≤ f 0x12 2 ∧ f 0x10 2 * f 0x12 2 ≤ 4096) && (group || decide (f 0x10 2 = 1 ∧ f 0x12 2 = 1))) 4 i 0
  | 5 => mapBad (decide (f 0x18 4 ≤ ceilDiv (f 0x04 4) (f 0x10 2) ∧ f 0x1C 4 ≤ ceilDiv (f 0x08 4) (f 0x12 2) ∧ f 0x20 4 ≤ f 0x0C 4)) 5 i 0
  | 6 => mapBad (decide (f 0x14 1 * f 0x15 1 = x.dieCount ∧ f 0x18 4 % f 0x14 1 = 0 ∧ f 0x1C 4 % f 0x15 1 = 0)) 6 i 0
  | 7 => mapBad (decide (f 0x24 4 ≤ f 0x18 4 / f 0x14 1 ∧ f 0x28 4 ≤ f 0x1C 4 / f 0x15 1 ∧ f 0x2C 4 ≤ f 0x20 4 ∧ f 0x24 4 % gr = 0 ∧ f 0x28 4 % gc = 0)) 7 i 0
  | 8 => mapBad (decide (f 0x30 2 ≤ f 0x24 4 / gr ∧ f 0x32 2 ≤ f 0x28 4 / gc ∧ f 0x34 4 ≤ f 0x2C 4)) 8 i 0
  | 9 => each x.dieCount (fun d => mapBad ((List.range 16).all (fun c => (x.secFor d c).isSome)) 9 i d)
  | 10 => (mapBad (x.carryOk i) 10 i 0).orElse (fun _ =>
      if x.mapCarry i = 2 then
        each x.secCount (fun j =>
          mapBad (decide (ceilDiv (f 0x30 2) 128 * ceilDiv (f 0x32 2) 128 * 133184 + f 0x41 1 * f 0x38 4 ≤ x.clmBytes j)) 10 i j)
      else none)
  | 11 => if x.mapDyn i then
      (mapBad (decide (f 0x03 1 = 0 ∧ x.mapCarry i = 0 ∧ x.dynItems i ≤ 0xFFFFFFFD)) 11 i 0).orElse (fun _ =>
        each x.dieCount (fun d => mapBad ((x.counterMask d).testBit (f 0x40 1)) 11 i d))
      else none
  | _ => (each x.secCount (fun j => mapBad (decide (f 0x41 1 * f 0x38 4 ≤ x.clmBytes j)) 12 i j)).orElse (fun _ =>
      each x.dieCount (fun d => mapBad (decide (f 0x41 1 * f 0x3C 4 ≤ x.depotBytes d)) 12 i d))

/-- Whether the group of a `str.mcast` is none that R239 reserves, or a mask that obeys R240. -/
def Img.mcastOk (x : Img) (i : Instr) : Bool :=
  match i with
  | .strMcast _ _ _ m => if m.gkind then decide (m.grp ≠ 0 ∧ m.grp.toNat < 2 ^ x.dieCount) else decide (m.grp.toNat ≤ 10)
  | _ => true

/-- Step 19: the checks in order, each over every entry. -/
def Img.step19 (x : Img) (group : Bool) : Bad :=
  firstRefusal [
    fun _ => mapBad ((List.range x.mapCount).all (fun i => (List.range i).all (fun j => decide (x.map j 0 2 ≠ x.map i 0 2)))) 1 0xFFFF 0,
    fun _ => (List.range 11).findSome? (fun c => each x.mapCount (fun i => x.mapCheck group (c + 2) i)),
    fun _ => each x.secCount (fun j => mapBad ((x.code j).1.all (fun p => x.mcastOk p.2)) 13 0xFFFF j)]

/-! ### Signature, generation and features (steps 4 to 7) -/

/-- The digest that an image carries (R38). -/
def Img.digest (x : Img) : List Byte := x.bytes x.imageBytes 48

/-- Step 7 (R51 to R53): the lowest bit that CAP_FEATURES lacks. DESIGN CHOICE: where an image needs both a bit that is still to come and one that the part never has, this bit decides the refusal; the spec orders the two codes nowhere. -/
def State.step7 (s : State) (x : Img) (f : Fin 9) : Bad :=
  let have' := (s.capFeatures f).toNat
  ((List.range 64).find? (fun b => x.features.testBit b && !have'.testBit b)).map (fun b =>
    let later := s.pkg.level ≠ 3 ∧
      ((b = 0 ∧ bit s.pkg.memCfg 2 ∧ tfCapGib (fldN s.pkg.memCfg 5 3) ≠ 0) ∨
       (b = 1 ∧ (s.pkg.ports.toList.take s.portCount).any (fun p => p.en)))
    (if later then 0x000A else 0x0009, b))

/-- Steps 5 to 19, after the digest has matched. -/
def State.checks (s : State) (x : Img) (n : Fin 8) : Bad :=
  let f := s.fnOf n
  let dies := ((fins 8).filter (fun d => s.ownsDie n d)).length
  firstRefusal [
    fun _ => need (s.imageSigned (x.bytes x.sigOff 7424) x.digest) 0x0007 x.sigOff,
    fun _ => need (decide (x.isaGen ≤ 1)) 0x0008 0x0A,
    fun _ => s.step7 x f,
    fun _ => x.step8,
    fun _ => x.step9,
    fun _ => x.step10,
    fun _ => x.step11,
    fun _ => x.step12,
    fun _ => x.step13,
    fun _ => x.step14 dies,
    fun _ => x.step15,
    fun _ => x.step16,
    fun _ => s.step17 x n,
    fun _ => x.step18,
    fun _ => x.step19 (bit (s.capFeatures f) 8)]

/-! ### Placement (R44, R45, R326) -/

/-- Physical die of a logical die of a partition: the L-th in ascending number (R44). -/
def State.physDie (s : State) (n : Fin 8) (l : Nat) : Fin 8 := ((fins 8).filter (fun d => s.ownsDie n d)).getD l 0

/-- The core of section `i` (R44). -/
def State.secPlace (s : State) (x : Img) (n : Fin 8) (i : Nat) : CoreId := ⟨s.physDie n (x.secDie i), Fin.ofNat 16 (x.secCore i)⟩

/-- The pool context of pool `i` (R326). -/
def State.poolOf (s : State) (x : Img) (n : Fin 8) (i : Nat) : Pool :=
  let o := x.poolOwner i
  let lo := if x.poolKind i = 0 then clmAddr (s.secPlace x n o) + (x.lay o).2.1 + x.poolOff i else depotAddr (s.physDie n o) + x.poolOff i
  let rs := x.resvsOf (x.poolId i)
  { lo := lo, hi := lo + x.poolBytes i, free := x.poolBytes i - (rs.map x.resvMin).foldl (fun a b => a + b) 0, waiting := 0, overrel := 0,
    resv := rs.map (fun r => ⟨x.resvMin r, 0, 0, s.secPlace x n (x.resvSec r), Fin.ofNat 16 (x.resvSlot r)⟩) }

/-- Pools of an owner, in table order. -/
def Img.poolsOf (x : Img) (kind owner : Nat) : List Nat :=
  (List.range x.poolCount).filter (fun i => decide (x.poolKind i = kind ∧ x.poolOwner i = owner))

/-- Initial value of a semaphore of section `i` (R41). -/
def Img.semInit (x : Img) (i m : Nat) : BitVec 32 :=
  match (List.range x.semiCount).find? (fun j => decide (x.semiSec j = i ∧ x.semiSem j = m)) with
  | some j => BitVec.ofNat 32 (x.semiVal j)
  | none => 0

/-- The section record that a core keeps. -/
def Img.section' (x : Img) (n : Fin 8) (task : BitVec 16) (i : Nat) : Section :=
  let (_, w, e, _, _) := x.lay i
  { part := n, task := task, index := BitVec.ofNat 16 i, textLen := x.textBytes i, workOff := w, workLen := x.clmBytes i, exwOff := e,
    exwLen := x.exwBytes i, semMask := BitVec.ofNat 64 (x.semMask i), slotMask := BitVec.ofNat 16 (x.slotMask i),
    queueMask := BitVec.ofNat 8 (x.queueMask i), barMask := BitVec.ofNat 8 (x.barrierMask (x.secDie i)),
    counterMask := BitVec.ofNat 16 (x.counterMask (x.secDie i)),
    entrySems := (List.range 64).map (fun m => if (x.semMask i).testBit m then x.semInit i m else 0) }

/-- Log2 of a status ring in KiB (R27). -/
def ringSize (bytes : Nat) : Nat := ((List.range 9).find? (fun k => decide (bytes = 1024 * 2 ^ k))).getD 0

/-- The entry state of a core (R27, R45, R302, R312, R316, R320, R324, R349, R510, R535): what no rule sets keeps its value. -/
def Core.enter (k : Core) (x : Img) (n : Fin 8) (task : BitVec 16) (i : Nat) (pools : List Pool) : Core :=
  let (a, _, _, t, _) := x.lay i
  { k with
    g := Vector.ofFn (fun r => if r = (1 : Fin 32) then BitVec.ofNat 64 a else if r = (2 : Fin 32) then BitVec.ofNat 64 i else 0)
    p := Vector.replicate 8 false
    d := Vector.ofFn (fun r => if r.val < x.legCount then x.leg r.val else 0)
    pc := BitVec.ofNat 32 (x.entry i)
    ret := []
    loops := []
    results := []
    stalled := none
    wait := none
    run := .running
    sect := some (x.section' n task i)
    cycleQ := 0
    tsrRing := put t 0 23 ||| put (ringSize (x.tsrBytes i)) 23 4
    tsrCount := 0
    flagsSum := 0
    taskInfo := BitVec.ofNat 32 (task.toNat + 65536 * (i % 65536))
    partition := n
    qStr := []
    qGa := Vector.replicate 2 []
    qJx := []
    qVec := []
    qSkt := []
    qSyn := []
    slots := Vector.replicate 16 Slot.reset
    ga := Vector.replicate 2 GridArray.reset
    jx := Junction.reset
    vec := none
    skt := none
    met := []
    boxOpen := 0
    seen := none
    moved := false
    still := 0
    waited := 0
    sems := Vector.ofFn (fun m => if (x.semMask i).testBit m.val then x.semInit i m.val else vget k.sems m)
    semQ := Vector.replicate 64 0
    badPost := 0
    bars := Vector.replicate 8 Bar.reset
    queues := Vector.replicate 8 HwQueue.reset
    pools := Vector.ofFn (fun j => pools[j.val]?)
    fring := FRing.reset
    pstate := .run }

/-- Place section `i`: CLM contents (R44 steps 2 and 3, R510) and entry state. `x` is the image as it was checked, and `y` what the reads of the placement deliver (R557).
DESIGN CHOICE (log 166): the initialised data go to the first bytes of the working region. -/
def State.placeSec (s : State) (x y : Img) (n : Fin 8) (task : BitVec 16) (args : Nat) (i : Nat) : State :=
  let c := s.secPlace x n i
  let (a, w, _, _, stop) := x.lay i
  let b := clmAddr c
  let s := s.memZero (b + w) (b + stop)
  let s := s.memZero (b + fringOff) (b + clmSize)
  let s := s.memWrite b (y.bytes (x.textOff i) (x.textBytes i))
  let s := s.memWrite (b + w) (y.bytes (x.dataOff i) (x.dataBytes i))
  let s := s.memWrite (b + a) (y.bytes (args + x.argBytes * i) x.argBytes)
  let pools := (x.poolsOf 0 i).map (fun j => s.poolOf x n j)
  s.modCore c (fun k => k.enter x n task i pools)

/-- The counters and the depot contexts of logical die `l` (R44 step 5, R247, R326). -/
def State.placeDie (s : State) (x : Img) (n : Fin 8) (l : Nat) : State :=
  let d := s.physDie n l
  let m := x.counterMask l
  let pools := (x.poolsOf 1 l).map (fun j => s.poolOf x n j)
  s.modDie d (fun k =>
    { k with dsp := Vector.ofFn (fun i => if m.testBit i.val then Dispatch.reset else vget k.dsp i), pools := Vector.ofFn (fun j => pools[j.val]?) })

/-- The next task number: 16 bits, never 0. -/
def nextTaskNum (n : BitVec 16) : BitVec 16 := if n + 1 = 0 then 1 else n + 1

/-- Place an admitted image and release its cores (R44). -/
def State.placeImage (s : State) (x y : Img) (f : Fin 9) (n : Fin 8) (args : Nat) : State :=
  let task := s.pkg.nextTask
  let dies := (List.range x.dieCount).map (fun l => s.physDie n l)
  let cores := x.secs.map (fun i => s.secPlace x n i)
  let s := x.secs.foldl (fun s i => s.placeSec x y n task args i) s
  let s := (List.range x.dieCount).foldl (fun s l => s.placeDie x n l) s
  let s := s.mailClear dies.head?
  let s := s.extendPm n x.digest
  let t : Task :=
    { num := task, part := n, fn := f, dies := dies, cores := cores, aborted := false, discard := false,
      depot := (List.range x.dieCount).map x.depotBytes, digest := x.digest,
      mapDigest := if x.hasMap then sha384 (x.bytes x.mapTab (16 + 80 * x.mapCount)) else sha384 [], gen := BitVec.ofNat 8 x.isaGen }
  let s := s.modPkg (fun p =>
    { p with
      tasks := p.tasks ++ [t]
      nextTask := nextTaskNum task
      legTab := p.legTab ++ [(task, (List.range x.legCount).map x.leg)]
      xArrived := if n = p.grp.part then 0 else p.xArrived })
  if n = s.pkg.grp.part then (s.modGrp (fun g => { g with taskFault := false })).refreshDigest else s

/-! ### The commands -/

/-- The loader-refusal record in the PKC ring (R43, R512, R515). -/
def State.loadRecord (s : State) (n : Nat) (base code detail : Nat) : State :=
  let r := s.recBytes ⟨BitVec.ofNat 16 (0x0100 + code), 0xFFFFFFFF, BitVec.ofNat 32 detail, base, leBytes 2 code⟩ 0xFFFF 0 n
  s.modPkg (fun p => { p with pkcCount := p.pkcCount + 1, pkcRecs := (r :: p.pkcRecs).take 256 })

/-- Complete a LOAD with a refusal of R46, with its record in the PKC ring (R43). -/
def State.loadRefuse (s : State) (f : Fin 9) (x : Submission) (n : Nat) (code detail : Nat) : State :=
  (s.loadRecord n x.arg0.toNat code detail).finish f x (BitVec.ofNat 16 code) (BitVec.ofNat 32 detail)

/-- Whether `len` bytes from an address lie in the Tier N of a partition. -/
def State.inTierN (s : State) (n : Fin 8) (a len : Nat) : Bool :=
  match s.region a with
  | .tierN _ => s.inBounds n a (Nat.max len 1)
  | _ => false

/-- A LOAD completes: it holds its partition no longer (R556). -/
def State.loadEnd (s : State) (n : Fin 8) : State := s.modPkg (fun p => { p with loads := p.loads.filter (fun j => !decide (j.part = n)) })

/-- The first stage of a LOAD, up to step 1 of R43: with it the LOAD holds its partition (R556); one whose function has been reset meanwhile counts as aborted (R50). -/
def State.loadBegin (s : State) (f : Fin 9) (x : Submission) : State :=
  let n := x.partition f
  let ended := (fins 9).any (fun g => (s.fn g).held.any (fun e => decide (e.part = some n)))
  if f = 0 ∧ s.guarded n then s.finish f x 0x0102
  else if !partEn (s.partMem n) then s.loadRefuse f x n.val 0x0001 0
  else if !s.inTierN n x.arg0.toNat x.arg1.toNat then s.finish f x 0x0101
  else if s.busyPart n || ended || s.pkg.sec.stopping.getLsbD n.val || s.pkg.sec.unlock.isSome then s.loadRefuse f x n.val 0x0002 0
  else s.modPkg (fun p => { p with loads := p.loads ++ [⟨f, x, n, none, x.mute, x.mute⟩] })

/-- The image that a LOAD names, in a memory. -/
def LoadJob.img (j : LoadJob) (m : Memory) : Img := ⟨m, j.sub.arg0.toNat, j.sub.arg1.toNat⟩

/-- Byte ranges of the image and of its argument blocks (R557). -/
def LoadJob.ranges (j : LoadJob) (x : Img) : List (Nat × Nat) := [(x.base, x.len), (x.base + j.sub.arg2.toNat, x.argBytes * x.secCount)]

/-- The second stage: steps 2 to 19 of R43, on the staging area as it stands (R557). -/
def State.loadCheck (s : State) (j : LoadJob) : State :=
  let n := j.part
  let x := j.img s.mem
  let rs := j.ranges x
  let refuse (s : State) (c d : Nat) : State := (s.loadEnd n).loadRefuse j.fn j.sub n.val c d
  if j.aborted then refuse s 0x0002 0
  else
    match x.step2.orElse (fun _ => x.step3) with
    | some (c, d) => refuse s c d
    | none =>
      if x.argBytes * x.secCount ≠ 0 ∧ !s.inTierN n (x.base + j.sub.arg2.toNat) (x.argBytes * x.secCount) then (s.loadEnd n).finish j.fn j.sub 0x0101
      else
        let (s, e) := s.eccRead rs
        match e.poison with
        | some u => refuse s 0x0017 (u - x.base)
        | none =>
          if sha384 (x.bytes 0 x.imageBytes) ≠ x.digest then refuse s 0x0006 x.imageBytes
          else
            match s.checks x n with
            | some (c, d) => refuse s c d
            | none =>
              let held := s.mem.within x.base (x.base + x.len) (x.base + j.sub.arg2.toNat) (x.base + j.sub.arg2.toNat + x.argBytes * x.secCount)
              s.modPkg (fun p => { p with loads := p.loads.map (fun k => if k.part = n then { k with checked := some held } else k) })

/-- Byte ranges that the placement reads from the staging area (R44 steps 2 and 3). -/
def LoadJob.copied (j : LoadJob) (x : Img) : List (Nat × Nat) :=
  x.secs.flatMap (fun i => [(x.base + x.textOff i, x.textBytes i), (x.base + x.dataOff i, x.dataBytes i)]) ++
    [(x.base + j.sub.arg2.toNat, x.argBytes * x.secCount)]

/-- The staging area without the bytes of its poisoned units: the loader copies none of them (R557). -/
def State.unpoisoned (s : State) (rs : List (Nat × Nat)) : Memory :=
  s.ecc.foldl (fun m u => if u.2 ≠ .corr ∧ unitHit rs u.1 then m.zero u.1 (u.1 + unitLen u.1) else m) s.mem

/-- A task that has been placed and is not released: every core counts as halted without a fault, and the task ends at once, aborted (R49, R50, R557). -/
def State.endPlaced (s : State) (n : Fin 8) (discard : Bool) : State :=
  (s.modTask n (fun t => { t with aborted := true, discard := t.discard || discard })).finishTask n

/-- The last stage: R44. An abort, or poison that arose after step 4, lets the loader complete steps 1 to 7, report ADMITTED and end the task at once (R50, R557). -/
def State.loadPlace (s : State) (j : LoadJob) (held : Memory) : State :=
  let n := j.part
  let x := j.img held
  let rs := j.copied x
  let (s, e) := s.eccRead rs
  let task := s.pkg.nextTask
  let s := ((s.placeImage x (j.img (s.unpoisoned rs)) j.fn n j.sub.arg2.toNat).loadEnd n).finish j.fn j.sub 0 0 task
  let s := match e.poison with
    | some u => s.loadRecord n.val x.base 0x0017 (u - x.base)
    | none => s
  if j.aborted || e.poison.isSome then s.endPlaced n j.discard else s

/-- The LOAD of a function and CID that holds a partition. -/
def State.loadJob (s : State) (f : Fin 9) (cid : BitVec 16) : Option LoadJob := s.pkg.loads.find? (fun j => decide (j.fn = f ∧ j.sub.cid = cid))

/-- LOAD (R43, R444, R445, R473, R556): each command takes the LOAD one stage further: step 1, the other checks, the placement. -/
def execLoad (f : Fin 9) (cid : BitVec 16) (s : State) : Res :=
  match s.loadJob f cid with
  | some j => .next (match j.checked with | none => s.loadCheck j | some m => s.loadPlace j m)
  | none =>
    match s.takeSub f 0x01 cid with
    | none => .next s
    | some (x, s) => .next (s.loadBegin f x)

/-- ABORT (R50, R445, R473): a number that no running task of the partition has completes with NOT_RUNNING. -/
def execAbort (f : Fin 9) (cid : BitVec 16) (s : State) : Res :=
  match s.takeSub f 0x02 cid with
  | none => .next s
  | some (x, s) =>
    let n := x.partition f
    if f = 0 ∧ s.guarded n then .next (s.finish f x 0x0102)
    else
      match s.taskOf n with
      | some t =>
        if t.num = fld x.arg0 0 16 ∧ !s.taskHalted t then .next ((s.abortTask n).finish f x 0)
        else .next (s.finish f x 0x0103)
      | none => .next (s.finish f x 0x0103)

end Sys2Proof.Machine
end

