-- ==== Sys2Proof/Machine/Group.lean ====
section
/-! DEFINITION. The group firmware: roles, members, jobs, epochs, heartbeats, re-maps, surveys and barriers of a group (R411 to R432, R449). -/

namespace Sys2Proof.Machine

/-! ### Members -/

/-- A new entry of a member table. -/
def Member.new (p : BitVec 12) (st : MemSt) : Member := ⟨p, st, 0, true, false, none, false, false⟩

/-- The entry of a part in a table. -/
def memberOf (ms : List Member) (p : BitVec 12) : Option Member := ms.find? (fun m => decide (m.part = p))

/-- A table with one entry added, ascending by part ID; an entry of the same part is replaced. -/
def memberPut (m : Member) : List Member → List Member
  | [] => [m]
  | x :: xs => if m.part.toNat < x.part.toNat then m :: x :: xs else if m.part = x.part then m :: xs else x :: memberPut m xs

/-- Change the entry of a part. -/
def memberMod (ms : List Member) (p : BitVec 12) (f : Member → Member) : List Member := ms.map (fun m => if m.part = p then f m else m)

/-- Whether an entry counts as a worker of the lead: ACTIVE or SPARE. -/
def Member.works (m : Member) : Bool := decide (m.st = .active ∨ m.st = .spare)

/-- Change the entry of a part in both tables of a lead. -/
def State.modMember (s : State) (p : BitVec 12) (f : Member → Member) : State :=
  s.modGrp (fun g => { g with members := memberMod g.members p f, upperTab := memberMod g.upperTab p f })

/-- Both tables of a lead: its group, and the upper table of a top lead (R413, R414). -/
def Group.all (g : Group) : List Member := g.members ++ g.upperTab

/-- Whether a part is a worker of this lead. -/
def State.isWorker (s : State) (p : BitVec 12) : Bool := s.pkg.grp.all.any (fun m => decide (m.part = p) && m.works)

/-- The workers of a lead other than itself, each once. -/
def State.workers (s : State) : List (BitVec 12) :=
  (((s.pkg.grp.all.filter Member.works).map Member.part).filter (fun p => decide (p ≠ s.pkg.partId))).eraseDups

/-- The ACTIVE members of the lead's own group. -/
def State.activeParts (s : State) : List (BitVec 12) := activeOf s.pkg.grp.members

/-- The group tree: the lead first, then the other ACTIVE members in ascending part ID (R415). -/
def treeOf (lead : BitVec 12) (ps : List (BitVec 12)) : List (BitVec 12) := lead :: ps.filter (fun p => decide (p ≠ lead))

/-- Rebuild the tree of a lead, and of the upper tier at its top lead (R414, R415). -/
def State.rebuildTree (s : State) : State :=
  s.modGrp (fun g => { g with tree := treeOf s.pkg.partId (activeOf g.members),
                              upTree := if g.top s.pkg.partId then treeOf s.pkg.partId (activeOf g.upperTab) else g.upTree })

/-- Whether a lead hears a part: a worker of its own, or a group lead below it in the upper tree (R413, R414). -/
def State.hears (s : State) (p : BitVec 12) : Bool := s.isWorker p || (s.pkg.grp.under s.pkg.partId && s.upChildren.contains p)

/-- Every part to which the lead's epoch goes: the ACTIVE members of its group and of the upper table, but itself. -/
def State.epochDests (s : State) : List (BitVec 12) :=
  ((activeOf s.pkg.grp.all).filter (fun p => decide (p ≠ s.pkg.partId))).eraseDups

/-! ### Reduction contexts at an epoch change (R432) -/

/-- Fire every context whose trigger condition holds. -/
def State.fireHeld (s : State) : State :=
  (fins 64).foldl (fun s i =>
    let w := s.rdctx i
    if rdEn w then s.redTriggers (coreOfPkg (rdTCore w)) (Fin.ofNat 64 (rdTSem w)) 64 else s) s

/-- A reduction context as the group tree has it for a part: root, parent and number of children (R415, R432). -/
def treeContext (tree : List (BitVec 12)) (p : BitVec 12) (w : Leg) : Leg :=
  match tree.findIdx? (fun q => decide (q = p)) with
  | some i =>
    let w := setFld (setBit w 51 (decide (i = 0))) 120 7 ((tree.drop (8 * i + 1)).take 8).length
    if i = 0 then w else setFld w 52 12 (tree.getD ((i - 1) / 8) 0).toNat
  | none => w

/-- What the lead has worked out for a part; nothing where it has worked out nothing. -/
def Group.planOf (g : Group) (p : BitVec 12) : EpochMsg := ((g.plan.find? (fun e => decide (e.1 = p))).map Prod.snd).getD ⟨0, [], [], 0, 0, [], [], 0⟩

/-- The epoch message for a part (R423, R427): the epoch, the routes and groups that the lead has worked out for it, its cross-part channels (none for a SPARE, R425), its reduction contexts under the tree, the members of the tree, and the job. A group lead below a top lead is told the tree of the upper tier. -/
def State.epochMsg (s : State) (p : BitVec 12) : EpochMsg :=
  let g := s.pkg.grp
  let m := g.planOf p
  let spare := g.all.any (fun x => decide (x.part = p ∧ x.st = .spare))
  let upper := decide (p ≠ s.pkg.partId) && g.top s.pkg.partId && !(g.tree.contains p)
  { m with epoch := s.pkg.epoch, xpart := if spare then 0 else m.xpart, ctx := m.ctx.map (fun e => (e.1, treeContext g.tree p e.2)),
           members := if upper then g.upTree else g.tree, job := g.jobs }

/-- Every context is disarmed, partial combinations are discarded, and the contexts of a message are armed (R432); each moves REG_SEQ (R527). -/
def State.armContexts (s : State) (ctx : List (Fin 64 × Leg)) : State :=
  let s := s.modPkg (fun p => { p with reds := [], rdctx := p.rdctx.map (fun w => setBit w 127 false) })
  ctx.foldl (fun s e => (s.modPkg (fun p => { p with rdctx := vset p.rdctx e.1 (rdMask e.2) })).bumpSeq) s

/-- Contexts are armed outside an epoch change (R432): one whose EN reads 1 takes no write (R407), and one whose trigger condition holds fires at once. -/
def State.armNow (s : State) (ctx : List (Fin 64 × Leg)) : State :=
  (ctx.foldl (fun s e => if rdEn (s.rdctx e.1) then s else (s.modPkg (fun p => { p with rdctx := vset p.rdctx e.1 (rdMask e.2) })).bumpSeq) s).fireHeld

/-- The lead's own contexts under its tree (R427, R432), with those that the top lead's message has for it (R414). -/
def State.ownContexts (s : State) (above : List (Fin 64 × Leg)) : State := s.armContexts ((s.epochMsg s.pkg.partId).ctx ++ above)

/-- Write one gazetteer entry (R403). -/
def gazPut (i : Fin 4096) (v : BitVec 9) (g : List (Fin 4096 × BitVec 9)) : List (Fin 4096 × BitVec 9) :=
  let rest := g.filter (fun e => decide (e.1 ≠ i))
  if v = 0 then rest else (rest.filter (fun e => decide (e.1.val < i.val))) ++ [(i, v)] ++ rest.filter (fun e => decide (i.val < e.1.val))

/-- Install what an epoch message carries (R423 step 2); each multi-word register moves REG_SEQ (R527). -/
def State.epochInstall (s : State) (m : EpochMsg) : State :=
  let s := s.modPkg (fun p => { p with gaz := m.gaz.foldl (fun g e => gazPut e.1 e.2 g) p.gaz, barXpart := m.xpart, torus := m.torus &&& torusMask })
  let s := m.mcg.foldl (fun s e => (s.modPkg (fun p => { p with mcg := vset p.mcg e.1 e.2 })).bumpSeq) s
  s.armContexts m.ctx

/-! ### Epochs (R423, R425) -/

/-- The abandon record of a new epoch (R423). -/
def State.abandon (s : State) : State := (s.mailRecord (markRecord s.pkg.epoch 1 0)).1

/-- Send again every arrival of this part that has not been released (R425). -/
def State.resendArrivals (s : State) : State :=
  (fins 8).foldl (fun s k => if s.pkg.xArrived.getLsbD k.val then (s.sendBarrierArrival k).barReleaseCheck k else s) s

/-- What every part does when its epoch changes: RAIL_EPOCH, and the survey in progress is abandoned (R423, R430). -/
def State.newEpoch (s : State) (e : BitVec 32) : State :=
  (s.modPkg (fun p => { p with epoch := e })).modGrp (fun g => { g with survey := none, asking := false, arrivals := [] })

/-- The raise of the epoch at the lead (EPOCH_RAISE): by exactly 1, with steps 1 to 3 of R423, the lead's own part of the configuration among them. `gap` counts the millisecond boundaries until the next raise may follow. -/
def State.raiseEpoch (s : State) (gap : Nat) : State :=
  let s := s.newEpoch (s.pkg.epoch + 1)
  let s := s.epochInstall (s.epochMsg s.pkg.partId)
  (s.modGrp (fun g => { g with raised := gap, delayed := false })).abandon

/-! ### Surveys (R430, R431) -/

/-- The other ACTIVE group leads of the upper tier at its top lead (R414). -/
def State.upActive (s : State) : List (BitVec 12) :=
  if s.pkg.grp.top s.pkg.partId then (activeOf s.pkg.grp.upperTab).filter (fun p => decide (p ≠ s.pkg.partId)) else []

/-- The survey is inconsistent: the lead asks every ACTIVE member directly (R431). -/
def State.surveyBad (s : State) : State :=
  let s := s.modGrp (fun g =>
    { g with cons := false, surveyFail := satAdd g.surveyFail 1, asking := true, members := g.members.map (fun m => { m with digest := none }),
             upperTab := g.upperTab.map (fun m => { m with digest := none }) })
  let s := s.groupEvent 3 s.pkg.partId
  (((s.activeParts ++ s.upActive).eraseDups).filter (fun p => decide (p ≠ s.pkg.partId))).foldl (fun s p => s.sendGroup p (.digestAsk s.pkg.grp.surveyNum)) s

/-- The end of a survey at a part: the reply to its parent, or the lead's judgement (R430, R431). A group lead below a top lead answers as one worker on behalf of its group: it counts when its whole group has answered, with the groups below it in the upper tree (R414). -/
def State.surveyEnd (s : State) (v : Survey) : State :=
  let s := s.modGrp (fun g => { g with survey := none })
  match v.parent with
  | some p =>
    let n := if s.pkg.grp.role = 2 then (decide (v.count = s.activeParts.length)).toNat + v.up else v.count
    s.sendGroup p (.reply v.num v.epoch v.lo v.hi n)
  | none =>
    if v.lo = v.hi ∧ v.hi = s.pkg.grp.digest ∧ v.count = s.activeParts.length ∧ v.up = s.upActive.length then s.modGrp (fun g => { g with cons := true })
    else s.surveyBad

/-- Begin a survey at this part: itself counted, the request sent to its children in the tree (R430). -/
def State.surveyBegin (s : State) (num : Nat) (epoch : BitVec 32) (parent : Option (BitVec 12)) : State :=
  let ch := s.treeChildren ++ (if parent.isSome || s.pkg.grp.top s.pkg.partId then s.upChildren else [])
  let d := s.pkg.grp.digest
  let v : Survey := ⟨num, epoch, parent, d, d, 1, 0, ch⟩
  let s := s.modGrp (fun g => { g with surveyNum := num, survey := some v })
  let s := ch.foldl (fun s c => s.sendGroup c (.survey num epoch)) s
  if ch.isEmpty then s.surveyEnd v else s

/-- The lead starts a survey (R430). -/
def State.surveyStart (s : State) : State := s.surveyBegin (s.pkg.grp.surveyNum + 1) s.pkg.epoch none

/-! ### Re-map (R426, R427) -/

/-- Slots that each part holds. -/
def slotsOf (map : List (BitVec 12)) (p : BitVec 12) : Nat := (map.filter (fun q => decide (q = p))).length

/-- The ACTIVE part that holds the fewest slots, the lowest part ID on a tie (R427). -/
def fewest (map : List (BitVec 12)) : List (BitVec 12) → Option (BitVec 12)
  | [] => none
  | p :: ps =>
    match fewest map ps with
    | none => some p
    | some q => if slotsOf map p ≤ slotsOf map q then some p else some q

/-- Move the slot `i` of an excluded part: to the lowest-numbered SPARE, which becomes ACTIVE, or to the ACTIVE part with the fewest slots (R427). -/
def moveSlot (ms : List Member) (map : List (BitVec 12)) (i : Nat) : List Member × List (BitVec 12) :=
  match ms.find? (fun m => decide (m.st = .spare)) with
  | some m => (memberMod ms m.part (fun m => { m with st := .active }), map.set i m.part)
  | none =>
    match fewest map (activeOf ms) with
    | some p => (ms, map.set i p)
    | none => (ms, map)

/-- Move every slot whose part is no longer ACTIVE, in slot order. -/
def moveSlots (ms : List Member) (map : List (BitVec 12)) : List Member × List (BitVec 12) :=
  (List.range map.length).foldl (fun a i => if (activeOf a.1).contains (a.2.getD i 0) then a else moveSlot a.1 a.2 i) (ms, map)

/-- Step 3 of R427 on the lead's job. -/
def State.moveAll (s : State) : State :=
  match s.pkg.grp.job with
  | none => s
  | some j =>
    let me := s.pkg.partId
    let r := moveSlots (s.pkg.grp.slotTab me) j.map
    s.modGrp (fun g =>
      if g.top me then { g with upperTab := r.1, job := some { j with map := r.2 } } else { g with members := r.1, job := some { j with map := r.2 } })

/-- Steps 6 and 7 of R427, once every acknowledgement has come. -/
def State.remapEnd (s : State) : State := ((s.modGrp (fun g => { g with st := .running })).dispatchStep).surveyStart

/-- Whether every member to which the epoch went has acknowledged it. -/
def State.allAcked (s : State) : Bool :=
  s.epochDests.all (fun p => s.pkg.grp.all.any (fun m => decide (m.part = p) && m.acked))

/-- The routes and multicast trees of step 4 (R427): those of every part that the lead has a plan for are worked out anew without the excluded parts. -/
def State.rebuildRoutes (s : State) : State :=
  let out := (s.pkg.grp.all.filter (fun m => decide (m.st = .excluded))).map (fun m => m.part.toNat)
  if out.isEmpty then s
  else s.modGrp (fun g => { g with plan := g.plan.map (fun e =>
    (e.1, { e.2 with gaz := Config.reroute e.1.toNat out e.2.gaz, mcg := Config.regroup e.1.toNat out e.2.mcg })) })

/-- Steps 3 to 5 of R427 under an epoch already raised: slots, tree, routes, contexts, the epoch message to every ACTIVE member. The lead of the epoch takes its own part of them; a lead below a top lead keeps what the top lead sent it and arms its own contexts beside those, `above`. -/
def State.remapTail (s : State) (above : List (Fin 64 × Leg)) : State :=
  let s := s.moveAll.rebuildTree.rebuildRoutes
  let s := if s.pkg.grp.under s.pkg.partId then s.ownContexts above else s.epochInstall (s.epochMsg s.pkg.partId)
  let s := s.fireHeld.resendArrivals
  let s := s.modGrp (fun g => { g with st := .remapping, members := g.members.map (fun m => { m with acked := false }),
                                       upperTab := g.upperTab.map (fun m => { m with acked := false }) })
  let s := s.epochDests.foldl (fun s p => s.sendGroup p (.epoch (s.epochMsg p))) s
  if s.epochDests.isEmpty then s.remapEnd else s

/-- A re-map (REMAP): the raise takes place now, or is delayed until a millisecond has passed since the last (R423, R427). A group lead below a top lead waits for the top lead's epoch (R414). -/
def State.remap (s : State) (gap : Nat) : State :=
  if s.pkg.grp.under s.pkg.partId ∨ s.pkg.grp.raised ≠ 0 then s.modGrp (fun g => { g with delayed := true, st := .remapping })
  else (s.raiseEpoch gap).remapTail []

/-- Members are failed (R426, R427, R431): each is EXCLUDED and reported, and the lead re-maps. -/
def State.failMembers (s : State) (ps : List (BitVec 12)) (gap : Nat) : State :=
  let bad := ps.filter (fun p => s.isWorker p && decide (p ≠ s.pkg.partId))
  if bad.isEmpty then s
  else
    let s := bad.foldl (fun s p => (s.modMember p (fun m => { m with st := .excluded })).groupEvent 1 p) s
    s.remap gap

/-! ### Roles and members (R411 to R414) -/

/-- Complete an ADD_MEMBER, unless a reset of the PF has taken its completion entry (R435). -/
def State.finishJoin (s : State) (j : Join) (status : BitVec 16) : State := if j.mute then s else s.completeCmd j.fn j.cid status

/-- Joins that will not complete: each ADD_MEMBER completes with JOIN_FAILED (R445). -/
def State.failJoins (s : State) (p : Join → Bool) : State :=
  let js := s.pkg.grp.joins.filter p
  let s := s.modGrp (fun g => { g with joins := g.joins.filter (fun j => !p j) })
  js.foldl (fun s j => s.finishJoin j 0x0105) s

/-- RAIL_CFG.STRICT of a part that is in a group (R413). -/
def State.strictOn (s : State) : State := s.modPkg (fun p => { p with railCfg := setBit p.railCfg 0 true })

/-- Apply a role (R411 to R414): a standalone part has ID 0; a lead is ACTIVE in its own table. -/
def State.applyRole (s : State) (a : Word) : State :=
  let role : BitVec 2 := fld a 12 2
  let me : BitVec 12 := if role = 0 then 0 else fld a 0 12
  let lead : BitVec 12 := if role = 0 then 0 else if role = 2 then me else fld a 28 12
  let upper := bit a 40
  let top := if upper then fld a 41 12 else 0
  let s := s.failJoins (fun _ => true)
  let s := s.modPkg (fun p => { p with partId := me })
  let s := s.modGrp (fun g =>
    { Group.reset with
      role := role
      strapErr := g.strapErr
      part := if role = 0 then 0 else Fin.ofNat 8 (fldN a 14 3)
      lead := lead
      surveyMs := g.surveyMs
      upper := upper
      topLead := top
      st := if role = 0 then .standalone else .forming
      surveyFail := g.surveyFail
      stale := g.stale
      digest := g.digest
      members := if role = 2 then [Member.new me .active] else []
      upperTab := if role = 2 ∧ upper ∧ top = me then [Member.new me .active] else []
      tree := if role = 2 then [me] else []
      jobs := g.jobs })
  if role = 2 then s.strictOn else s

/-- SET_ROLE (R411, R445). -/
def execSetRole (f : Fin 9) (cid : BitVec 16) (s : State) : Res :=
  match s.takeSub f 0x10 cid with
  | none => .next s
  | some (x, s) =>
    if f ≠ 0 then .next (s.finish f x 0x0102)
    else if !s.pkg.tasks.isEmpty then .next (s.finish f x 0x0104)
    else .next ((s.applyRole x.arg0).finish f x 0)

/-- Whether a link to a part is UP: its route leaves on one, or one ends at it (R413). -/
def State.linkTo (s : State) (p : BitVec 12) : Bool :=
  (match s.route p none with | some (l, _) => decide ((s.link l).st = .up) | none => false) ||
    (fins 72).any (fun l => decide ((s.link l).st = .up ∧ (s.link l).peer = p) && s.hasLink l)

/-- Complete the joins of a part whose links are UP and whose identity is verified (R413). -/
def State.tryJoin (s : State) (p : BitVec 12) : State :=
  let done (m : Member) : Bool := decide (m.part = p ∧ m.st = .joining) && m.verified
  if s.linkTo p ∧ s.pkg.grp.all.any done then
    let js := s.pkg.grp.joins.filter (fun j => decide (j.part = p))
    let spare := js.any (fun j => j.spare)
    let up (m : Member) : Member := if done m then { m with st := if spare then .spare else .active, links := true, miss := 0, heard := true } else m
    let s := s.modGrp (fun g => { g with members := g.members.map up, upperTab := g.upperTab.map up, joins := g.joins.filter (fun j => decide (j.part ≠ p)) })
    js.foldl (fun s j => s.finishJoin j 0) s.rebuildTree
  else s

/-- ADD_MEMBER (R413, R414, R445): the part enters JOINING; a part that is ACTIVE or SPARE already completes at once. -/
def execAddMember (f : Fin 9) (cid : BitVec 16) (s : State) : Res :=
  match s.takeSub f 0x11 cid with
  | none => .next s
  | some (x, s) =>
    let p : BitVec 12 := fld x.arg0 0 12
    let glead := bit x.arg0 13
    let g := s.pkg.grp
    let tab := if glead then g.upperTab else g.members
    if f ≠ 0 ∨ g.role ≠ 2 ∨ (glead ∧ !g.top s.pkg.partId) then .next (s.finish f x 0x0102)
    else
      match (memberOf tab p).filter Member.works with
      | some _ => .next (s.finish f x 0)
      | none =>
        if (memberOf tab p).isNone ∧ tab.length ≥ 64 then .next (s.finish f x 0x0101)
        else
          let old := (memberOf tab p).filter (fun m => decide (m.st = .joining))
          let m := old.getD (Member.new p .joining)
          let s := s.modGrp (fun g =>
            { g with
              members := if glead then g.members else memberPut m g.members
              upperTab := if glead then memberPut m g.upperTab else g.upperTab
              joins := g.joins ++ [⟨p, f, cid, bit x.arg0 12, glead, x.mute⟩] })
          .next (s.tryJoin p)

/-- The second of a join has passed (R445): the entry is empty again. -/
def execJoinTimeout (part : BitVec 12) (s : State) : Res :=
  let gone (ms : List Member) : List Member := ms.filter (fun m => !decide (m.part = part ∧ m.st = .joining))
  if s.pkg.grp.joins.any (fun j => decide (j.part = part)) then
    .next ((s.modGrp (fun g => { g with members := gone g.members, upperTab := gone g.upperTab })).failJoins (fun j => decide (j.part = part)))
  else .next s

/-! ### Jobs (R416, R449) -/

/-- The job goes to the workers that hold none of its slots, for their digests (R429); the others learn of it by their first work list. -/
def State.tellJob (s : State) (j : Job) : State :=
  (s.workers.filter (fun p => !j.map.contains p)).foldl (fun s p => s.sendGroup p (.job j.num)) s

/-- SUBMIT_JOB (R416, R445, R449): the slots go to the ACTIVE members in part-ID order, and step 0 is dispatched. -/
def execSubmitJob (f : Fin 9) (cid : BitVec 16) (s : State) : Res :=
  match s.takeSub f 0x12 cid with
  | none => .next s
  | some (x, s) =>
    let g := s.pkg.grp
    let slots := fldN x.arg1 0 16
    let steps := fldN x.arg1 16 32
    let act := activeOf (g.slotTab s.pkg.partId)
    if (f ≠ 0 ∧ partOfVf f ≠ some g.part) ∨ g.role ≠ 2 ∨ g.job.isSome then .next (s.finish f x 0x0102)
    else if slots > act.length then .next (s.finish f x 0x0106)
    else if slots = 0 ∨ steps = 0 ∨ s.inTierN g.part x.arg0.toNat (64 * slots * steps) = false then .next (s.finish f x 0x0101)
    else
      let j : Job := ⟨f, x.arg0.toNat, slots, steps, 0, act.take slots, [], g.jobs + 1⟩
      let s := s.modGrp (fun g => { g with job := some j, jobs := g.jobs + 1, st := if g.st = .forming then .running else g.st })
      .next (((s.refreshDigest.tellJob j).dispatchStep).finish f x 0)

/-- A work list arrives (R417 to R419). -/
def execWorkListReceive (w : WorkList) (s : State) : Res := if s.pkg.grp.role = 0 then .next s else .next (s.workReceive w)

/-- A host write to GRP_MBOX0 or GRP_MBOX1 (R418, R526): like every read-write field of a die, only while its partition runs no task. -/
def execMailboxWrite (f : Fin 9) (d : Fin 8) (second : Bool) (v : Word) (s : State) : Res :=
  s.portWrite (.host f) d none (fun s =>
    match s.dieOwner d with
    | some n => if (s.taskOf n).isSome then s.agentMiss (.host f) else s.mailboxWrite d second v
    | none => s.mailboxWrite d second v)

/-- A host write to GRP_DONE (R420, R526). -/
def execGrpDoneWrite (f : Fin 9) (d : Fin 8) (v : Word) (s : State) : Res := s.portWrite (.host f) d none (fun s => s.grpDone d v)

/-- The lead receives a completion message (R413, R420, R421). -/
def execCompletionAccept (src : BitVec 12) (epoch : BitVec 32) (slot : Fin 64) (step : BitVec 16) (s : State) : Res :=
  if s.pkg.grp.role = 2 ∧ (s.isWorker src ∨ src = s.pkg.partId) then .next (s.acceptDone epoch slot.val step) else .next s

/-! ### Heartbeats (R426, R428) -/

/-- Whom this part's heartbeat goes to: a worker's lead; a lead's workers, and the top lead of a lead below one. -/
def State.heartDests (s : State) : List (BitVec 12) :=
  let g := s.pkg.grp
  if g.role = 1 then [g.lead] else if g.role = 2 then s.workers ++ (if g.under s.pkg.partId then [g.topLead] else []) else []

/-- Every millisecond a part sends its heartbeat (R426), with TASK_FAULT while HEALTH.FATAL stands (R521). -/
def execHeartbeatTimer (s : State) : Res :=
  .next (s.heartDests.foldl (fun s p => s.sendGroup p (.heartbeat s.pkg.epoch (s.pkg.grp.taskFault || s.pkg.healthFatal))) s)

/-- A heartbeat arrives (R426): one with TASK_FAULT makes the worker failed at once. -/
def execHeartbeatReceive (src : BitVec 12) (_epoch : BitVec 32) (fault : Bool) (s : State) : Res :=
  let g := s.pkg.grp
  if (g.role = 1 ∧ src = g.lead) ∨ (g.under s.pkg.partId ∧ src = g.topLead) then .next (s.modGrp (fun g => { g with leadHeard := true }))
  else if g.role = 2 ∧ s.isWorker src then
    let s := s.modMember src (fun m => { m with heard := true })
    if fault then .next (s.failMembers [src] 2) else .next s
  else .next s

/-- A member over one period (R426): MISS counts consecutive periods missed. -/
def Member.period (m : Member) : Member := if m.works then { m with miss := if m.heard then 0 else Nat.min (m.miss + 1) 3, heard := false } else m

/-- The lead's heartbeats over one period (R428): the third missed in a row makes a worker, or a lead below a top lead, an orphan. -/
def State.leadPeriod (s : State) : State :=
  let g := s.pkg.grp
  let miss := if g.leadHeard then 0 else g.leadMiss + 1
  let s := s.modGrp (fun g => { g with leadMiss := miss, leadHeard := false })
  if miss ≥ 3 ∧ g.st ≠ .orphan then
    let lead := if g.role = 1 then g.lead else g.topLead
    ((s.modGrp (fun g => { g with st := .orphan })).groupEvent 2 lead).pkcReport ⟨0x0903, 0, lead.setWidth 32, 0, []⟩
  else s

/-- A millisecond boundary (R423, R426, R428). -/
def execHeartbeatCheck (s : State) : Res :=
  let me := s.pkg.partId
  let s := s.modGrp (fun g => { g with raised := g.raised - 1 })
  let g := s.pkg.grp
  let s := if g.role = 1 ∨ g.under me then s.leadPeriod else s
  if g.role = 2 then
    let per (m : Member) : Member := if m.part = me then m else m.period
    let s := s.modGrp (fun g => { g with members := g.members.map per, upperTab := g.upperTab.map per })
    .next (s.failMembers ((s.pkg.grp.all.filter (fun m => m.works && decide (m.miss ≥ 3))).map Member.part).eraseDups 1)
  else .next s

/-! ### Epoch messages (R423, R425, R427, R432) -/

/-- A part receives an epoch message (R423): RAIL_EPOCH, the configuration, the job, the abandon record, the acknowledgement. A lead below a top lead goes on to apply the epoch in its group (R414). -/
def execEpochReceive (m : EpochMsg) (s : State) : Res :=
  let g := s.pkg.grp
  let under := g.under s.pkg.partId
  let from' := if under then g.topLead else g.lead
  if g.role ≠ 1 ∧ !under then .next s
  else if m.epoch = s.pkg.epoch then .next (s.sendGroup from' (.ack m.epoch))
  else
    let s := (s.newEpoch m.epoch).epochInstall m
    let s := s.modGrp (fun g => { g with tree := if under then g.tree else treeOf g.lead (m.members.filter (fun p => decide (p ≠ g.lead))),
                                         upTree := if under then treeOf g.topLead (m.members.filter (fun p => decide (p ≠ g.topLead))) else [],
                                         st := if g.st = .orphan then .orphan else .running, delayed := false })
    let s := s.strictOn
    let s := (s.jobSeen m.job).abandon
    let s := if under then s.remapTail m.ctx else s.fireHeld.resendArrivals
    .next (s.sendGroup from' (.ack m.epoch))

/-- An acknowledgement reaches the lead (R427). -/
def execEpochAckReceive (src : BitVec 12) (epoch : BitVec 32) (s : State) : Res :=
  if s.pkg.grp.role = 2 ∧ epoch = s.pkg.epoch ∧ s.isWorker src then
    let s := s.modMember src (fun m => { m with acked := true })
    if s.pkg.grp.st = .remapping ∧ !s.pkg.grp.delayed ∧ s.allAcked then .next s.remapEnd else .next s
  else .next s

/-- 3 ms without every acknowledgement (R427): the members that are silent are failed. -/
def execEpochAckTimeout (s : State) : Res :=
  if s.pkg.grp.role = 2 ∧ s.pkg.grp.st = .remapping ∧ !s.pkg.grp.delayed then
    let silent := s.epochDests.filter (fun p => !(s.pkg.grp.all.any (fun m => decide (m.part = p) && m.acked)))
    .next ((s.modGrp (fun g => { g with raised := 0 })).failMembers silent 2)
  else .next s

/-- A millisecond has passed since the last raise: a delayed one takes place (R423). -/
def execDelayedEpochRaise (s : State) : Res :=
  let s := s.modGrp (fun g => { g with raised := 0 })
  if s.pkg.grp.role = 2 ∧ s.pkg.grp.delayed ∧ !(s.pkg.grp.under s.pkg.partId) then .next ((s.raiseEpoch 2).remapTail []) else .next s

/-! ### The survey's messages and times -/

/-- SURVEY_MS milliseconds have passed (R430): a re-map does not put the survey off, and its raise abandons it. -/
def execSurveyTimer (s : State) : Res := if s.pkg.grp.role = 2 then .next s.surveyStart else .next s

/-- A survey request (R430), or the lead's direct question (R431), which the part answers with its own digest whatever survey it is in. -/
def execSurveyRequestReceive (src : BitVec 12) (num : SurveyNum) (epoch : BitVec 32) (s : State) : Res :=
  let g := s.pkg.grp
  if g.role ≠ 1 ∧ !g.under s.pkg.partId then .next s
  else if num.direct then .next (s.sendGroup src (.digest num.n g.digest))
  else .next (s.surveyBegin num.n epoch (some src))

/-- The smaller and the larger of two digests (R429). -/
def minLeg (a b : Leg) : Leg := if a.toNat ≤ b.toNat then a else b
def maxLeg (a b : Leg) : Leg := if a.toNat ≤ b.toNat then b else a

/-- The members that a direct question has shown to differ, or to be silent (R431). -/
def State.differing (s : State) : List (BitVec 12) :=
  (((s.pkg.grp.members ++ (if s.pkg.grp.top s.pkg.partId then s.pkg.grp.upperTab else []))).filter (fun m => decide (m.st = .active ∧ m.part ≠ s.pkg.partId ∧ m.digest ≠ some s.pkg.grp.digest))).map Member.part

/-- Whether every ACTIVE member that the lead asked has answered (R431). -/
def State.allTold (s : State) : Bool :=
  (s.pkg.grp.members ++ (if s.pkg.grp.top s.pkg.partId then s.pkg.grp.upperTab else [])).all (fun m => decide (m.st ≠ .active ∨ m.part = s.pkg.partId) || m.digest.isSome)

/-- A member's answer to the direct question (R431): with the last one, the members that differ are failed. -/
def State.digestTold (s : State) (src : BitVec 12) (d : Leg) : State :=
  if s.pkg.grp.role = 2 ∧ s.pkg.grp.asking ∧ s.isWorker src then
    let s := s.modMember src (fun m => { m with digest := some d })
    if s.allTold then (s.modGrp (fun g => { g with asking := false })).failMembers s.differing 2 else s
  else s

/-- A child's reply to a survey (R430). -/
def State.surveyTold (s : State) (src : BitVec 12) (num : Nat) (epoch : BitVec 32) (lo hi : Leg) (count : Nat) : State :=
  let g := s.pkg.grp
  match g.survey with
  | some v =>
    if num = v.num ∧ epoch = v.epoch ∧ v.wait.contains src ∧ (g.role ≠ 2 ∨ s.hears src) then
      let above := s.upChildren.contains src
      let v := { v with lo := minLeg v.lo lo, hi := maxLeg v.hi hi, count := if above then v.count else v.count + count,
                        up := if above then v.up + count else v.up, wait := v.wait.erase src }
      if v.wait.isEmpty then s.surveyEnd v else s.modGrp (fun g => { g with survey := some v })
    else s
  | none => s

/-- A child's reply to a survey (R430), or a member's own digest (R431). -/
def execSurveyReplyReceive (src : BitVec 12) (num : SurveyNum) (epoch : BitVec 32) (lo hi : Leg) (count : Nat) (s : State) : Res :=
  .next (if num.direct then s.digestTold src lo else s.surveyTold src num.n epoch lo hi count)

/-- 2 ms have passed: what has come goes upward (R430). -/
def execSurveyChildTimeout (s : State) : Res :=
  match s.pkg.grp.survey with
  | some v => .next (s.surveyEnd v)
  | none => .next s

/-- 2 ms after the direct question: members that differ or are silent are failed (R431). -/
def execSurveyDigestTimeout (s : State) : Res :=
  if s.pkg.grp.role = 2 ∧ s.pkg.grp.asking then
    let s := s.modGrp (fun g => { g with asking := false, raised := 0 })
    .next (s.failMembers s.differing 2)
  else .next s

end Sys2Proof.Machine
end

