-- ==== Sys2Proof/Machine/Rail.lean ====
section
/-! DEFINITION. What arrives over Rail: cars, groups, messages and their effects, and the states and times of a link (R388 to R409, R425). -/

namespace Sys2Proof.Machine

/-! ### The states of a link (R399, R402, R409) -/

/-- The port of a link. -/
def portOf (l : Fin 72) : Fin 18 := ⟨l.val / 4, by omega⟩

/-- A link that begins anew: sequence numbers, buffers, credits and keys of the last session are gone; its counters stay. -/
def Link.anew (k : Link) (st : LinkSt) : Link :=
  { Link.reset with st := st, slow := k.slow, peer := k.peer, peerLink := k.peerLink, replays := k.replays, fecUnc := k.fecUnc,
                    auth := k.auth, badCar := k.badCar, retrains := k.retrains }

/-- A stream transfer or a `ld` or `st` whose request is lost (R395): REMOTE_LOSS, or the Rail-loss fault. -/
def State.reqLost (s : State) (q : PendReq) (link : Option (Fin 72)) : State :=
  let a := 2 ^ 63 + 2 ^ 48 * q.part.toNat + q.addr
  match q.who with
  | .writes c n ts => ts.foldl (fun s t => s.xferFail c n t 6 a) s
  | .read c n t => s.xferFail c n t 6 a
  | .ld c _ _ _ pc => s.railLoss c pc q.part link a
  | .st c pc => s.railLoss c pc q.part link a

/-- Forget an outstanding request. -/
def State.dropReq (s : State) (q : PendReq) : State := s.modPkg (fun p => { p with pends := p.pends.filter (fun r => decide (r.tag ≠ q.tag)) })

/-- A link enters FAILED (R399): its cars are discarded, with the places of forwarded ones in the buffers that they came into given back (R396), its keys destroyed (R469), every local request that waits on it is lost, and the failure is reported (R516). -/
def State.linkFail (s : State) (l : Fin 72) : State :=
  let k := s.link l
  let qs := s.pkg.pends.filter (fun q => decide (q.link = l))
  let s := s.modLink l (fun k => { k.anew .failed with retrains := [] })
  let s := s.modPkg (fun p =>
    { p with
      reasm := p.reasm.filter (fun r => decide (r.via ≠ l))
      fwds := (p.fwds.filter (fun w => decide (w.via ≠ l))).map (fun w => if w.out.any (fun o => decide (o.1 = l)) then { w with out := none } else w) })
  let s := (k.txq.filterMap Prod.snd).foldl (fun s u => s.giveBack u.1 u.2 1) s
  let s := qs.foldl (fun s q => (s.dropReq q).reqLost q (some l)) s
  s.pkcReport ⟨0x0902, 0, BitVec.ofNat 32 l.val, 0, leBytes 2 k.peer.toNat ++ leBytes 1 l.val⟩

/-- A second of ACLK cycles. -/
def second : Nat := 50000000

/-- A link enters RETRAIN, or FAILED at its third entry within a second (R399). -/
def State.retrain (s : State) (l : Fin 72) : State :=
  let k := s.link l
  if k.st ≠ .up then s
  else
    let now := s.pkg.aclk.toNat
    let rs := now :: k.retrains.filter (fun t => decide (now < t + second))
    if rs.length ≥ 3 then s.linkFail l
    else s.modLink l (fun k => { k with st := .retrain, retrains := rs, tries := 0, wrong := 0 })

/-- Resend every car of the replay buffer, from ACK + 1, with the tag of a complete last group (R398, R402). -/
def State.resend (s : State) (l : Fin 72) : State :=
  let s := (s.link l).buf.foldl (fun s c => s.emit l (s.wire l c.1 c.2)) s
  if (s.link l).next % 16 = 0 then s.sendTag l else s

/-- One replay: after 16 of one SEQ without an acknowledgement the link enters RETRAIN (R398, R399). -/
def State.replay (s : State) (l : Fin 72) : State :=
  let k := s.link l
  if k.buf.isEmpty ∨ !k.carries then s
  else
    let s := (s.modLink l (fun k => { k with replays := satAdd k.replays 1, tries := k.tries + 1 })).resend l
    if k.tries + 1 ≥ 16 then s.retrain l else s

/-- The oldest unacknowledged car has waited REPLAY_TO (R398). -/
def execReplayTimeout (l : Fin 72) (s : State) : Res := .next (s.replay l)

/-- 64 car slots after the last NAK the receiver repeats it (R398). -/
def execNakRepeat (l : Fin 72) (s : State) : Res :=
  if (s.link l).naking ∧ (s.link l).carries then .next ((s.modLink l (fun k => { k with nak := true })).fillSlot l) else .next s

/-- PAD cars until the group is complete, while the buffer has room, at most `fuel` of them (R402). -/
def State.padGroup (s : State) (l : Fin 72) : Nat → State
  | 0 => s
  | fuel + 1 =>
    let k := s.link l
    if k.next % 16 = 0 ∨ k.buf.length ≥ 1024 then s else (s.sendNew l (s.bareCar 2 [])).padGroup l fuel

/-- 32 idle FCLK cycles with an incomplete group: it is padded, and its tag follows (R402). -/
def execGroupPadTimeout (l : Fin 72) (s : State) : Res :=
  let k := s.link l
  if k.carries ∧ k.next % 16 ≠ 0 ∧ k.pick.isNone then
    let s := s.padGroup l 16
    if (s.link l).next % 16 = 0 then .next (s.sendTag l) else .next s
  else .next s

/-- No response has come within RSP_TO (R395). -/
def execResponseTimeout (tag : BitVec 16) (s : State) : Res :=
  match s.pkg.pends.find? (fun q => decide (q.tag = tag)) with
  | some q => .next ((s.dropReq q).reqLost q (some q.link))
  | none => .next s

/-- Whether an end of the link is held to 212.5 Gb/s (R387). -/
def State.forcedSlow (s : State) (l : Fin 72) : Bool := s.pkg.strapStat.getLsbD 5 || (vget s.pkg.ports (portOf l)).rate

/-- Whether a link that ends a training runs at 212.5 Gb/s: it has failed its margin at 224 Gb/s, or an end does not offer that rate (R387). -/
def State.runsSlow (s : State) (l : Fin 72) (r : Training) : Bool := (s.link l).slow || r.slow || s.forcedSlow l

/-- Where the port of a link has no session, the end with the lower part ID asks for one (R401, R471). -/
def State.askSession (s : State) (l : Fin 72) (peer : BitVec 12) : State :=
  let x := vget s.pkg.ports (portOf l)
  if !x.session ∧ !x.asked ∧ s.pkg.partId.toNat < peer.toNat then
    (s.modPkg (fun p => { p with ports := vmod p.ports (portOf l) (fun x => { x with asked := true }) })).send (.spdmAsk (portOf l))
  else s

/-- A link without keys is in KEYING (R402, R475). What it holds to send stays, with its sequence numbers and credits, as R399 has it for RETRAIN; the groups that it held unauthenticated are discarded. -/
def Link.unkeyed (k : Link) : Link :=
  { k with st := .keying, key := none, rekey := [], expect := k.authed, heldRx := [], tagRx := none, nak := false, naking := false, wrong := 0 }

/-- The first group that is not acknowledged. -/
def Link.ackedTo (k : Link) : Nat := (match k.buf with | b :: _ => b.1 | [] => k.next) / 16

/-- The tags of the complete groups in the replay buffer, newest first, under the keys of the link (R400). -/
def State.retag (s : State) (l : Fin 72) : State :=
  let k := s.link l
  let gs := ((List.range (k.next / 16 - k.ackedTo)).map (fun i => k.ackedTo + i)).reverse
  s.modLink l (fun k => { k with tagsTx := gs.map (fun g => (g, s.groupTag l g)) })

/-- TRAINING ends (R387, R409): at KEYING, once more at 212.5 Gb/s, or at FAILED. -/
def State.trained (s : State) (l : Fin 72) (r : Training) : State :=
  if r.ok then
    (s.modLink l (fun k => { k with st := .keying, slow := s.runsSlow l r })).askSession l r.peer
  else if !s.runsSlow l r then s.modLink l (fun k => { k with slow := true })
  else s.linkFail l

/-- KEYING ends (R402, R409): the link is UP with new keys, by the peer that the exchange named; a peer that is not new finds its replay resumed from ACK + 1 (R399), under the new keys. The cars that waited leave; a join that waited for the link may complete (R413). -/
def State.keyed (s : State) (l : Fin 72) (r : Training) : State :=
  if r.ok ∧ (vget s.pkg.ports (portOf l)).session then
    let (x, s) := s.spend
    let s := s.modLink l (fun k =>
      let k := if k.peer = r.peer ∧ k.peerLink = r.peerLink then k else { k.anew .keying with txq := k.txq }
      { k with st := .up, peer := r.peer, peerLink := r.peerLink, key := some ⟨x, k.ackedTo, k.authed / 16⟩, rekey := [] })
    let s := if (s.link l).buf.isEmpty then s else (s.retag l).resend l
    (s.flush l).tryJoin r.peer
  else s.linkFail l

/-- RETRAIN ends (R387, R399): the link resumes from ACK + 1, tries once more at 212.5 Gb/s, or fails. Where the session of its port is lost, or a new one has destroyed its keys, it waits for keys in KEYING (R401, R402). -/
def State.retrained (s : State) (l : Fin 72) (r : Training) : State :=
  if r.ok ∧ ((s.link l).key.isNone ∨ !(vget s.pkg.ports (portOf l)).session) then s.modLink l (fun k => { k.unkeyed with slow := s.runsSlow l r })
  else if r.ok then ((s.modLink l (fun k => { k with st := .up, slow := s.runsSlow l r })).resend l).flush l
  else if !s.runsSlow l r then s.modLink l (fun k => { k with slow := true })
  else s.linkFail l

/-- A link finishes a training or keying state (R387, R399, R409). -/
def execLinkTrainingComplete (l : Fin 72) (r : Training) (s : State) : Res :=
  if !s.hasLink l then .next s
  else
    match (s.link l).st with
    | .training => .next (s.trained l r)
    | .keying => .next (s.keyed l r)
    | .retrain => .next (s.retrained l r)
    | _ => .next s

/-- A link that is not UP again within 100 ms enters FAILED (R399). -/
def execLinkRetrainTimeout (l : Fin 72) (s : State) : Res := if (s.link l).st = .retrain then .next (s.linkFail l) else .next s

/-- A FAILED link trains again (R409). -/
def execLinkRetryTimer (l : Fin 72) (s : State) : Res :=
  if s.hasLink l ∧ (s.link l).st = .failed then .next (s.modLink l (fun k => { k.anew .training with slow := s.forcedSlow l })) else .next s

/-- Every enabled link has been FAILED for 10 s while the role is worker or lead (R521). -/
def execRailIsolationTimeout (s : State) : Res :=
  let ls := (fins 72).filter (fun l => s.hasLink l)
  if s.pkg.grp.role ≠ 0 ∧ !ls.isEmpty ∧ ls.all (fun l => decide ((s.link l).st = .failed)) then .next (s.fatal 3) else .next s

/-! ### Messages that arrive (R393, R394, R403, R408) -/

/-- Cars of a message whose first car holds this descriptor (R393). -/
def msgBytes (typ : BitVec 4) (d : Desc) : Nat := if typ = 4 ∨ typ = 7 ∨ typ = 8 then 16 else 16 + d.len

/-- Whether an acknowledgement answers a copy of a multicast write that this part forwarded on the link (R405). -/
def State.mcHit (s : State) (l : Fin 72) (dst : BitVec 12) (tag : BitVec 16) : Option McWait :=
  s.pkg.mcWaits.find? (fun w => decide (w.tag = tag ∧ w.src = dst) && w.need.contains l)

/-- Whether the destination refuses a message by its epoch (R408). -/
def State.epochBad (s : State) (c : Car) : Bool :=
  bit s.pkg.railCfg 0 && decide (3 ≤ c.typ.toNat ∧ c.typ.toNat ≤ 10) && decide (c.epoch ≠ s.pkg.epoch.setWidth 16)

/-- A whole message enters the inbox of its destination. -/
def State.arrive (s : State) (r : Reasm) : State :=
  let d := Desc.ofBytes r.bytes
  s.modPkg (fun p => { p with inbox := p.inbox ++
    [⟨r.typ, r.dst, r.src, d.addr, d.len, d.rtag, d.rdc, d.code, (r.bytes.drop 16).take d.len, r.dst.setWidth 8, r.via, r.ix, r.cars, r.epoch, r.drop⟩] })

/-- A message whose descriptor has a reserved bit set is refused (R9): a request is answered with ERR, anything else is dropped. -/
def State.refuseRsv (s : State) (r : Reasm) : State :=
  let s := s.giveBack r.via r.ix r.cars
  if r.typ = 3 ∨ r.typ = 4 ∨ r.typ = 5 then (s.sendMsg r.src 8 ⟨0, 1, (Desc.ofBytes r.bytes).rtag, 0, 1⟩ []).1 else s

/-- A car at its destination: its bytes join its message (R394); a message of another epoch is dropped, and its cars counted (R408). A part that is no member of its group only forwards an MCWRITE and checks no epoch, and a member goes on forwarding one that it drops. -/
def State.assemble (s : State) (l : Fin 72) (c : Car) : State :=
  let mc := decide (c.typ = 5#4)
  let same (r : Reasm) : Bool := decide (r.src = c.src ∧ r.vc = c.vc ∧ r.dst = c.dst) && decide (r.typ = 5#4) == mc
  let bs := c.payload.take (c.len.toNat + 1)
  let ix := vcIx c.vc c.dl
  let bad := s.epochBad c && !(mc && !s.mcgLocal (c.dst.setWidth 8))
  let r : Reasm := match s.pkg.reasm.find? same with
    | some r => { r with bytes := r.bytes ++ bs, cars := r.cars + 1 }
    | none => ⟨c.dst, c.src, c.vc, bad, c.epoch, c.typ, l, ix, 1, bs⟩
  let s := s.modPkg (fun p => { p with reasm := p.reasm.filter (fun x => !same x) })
  let whole := decide (r.bytes.length ≥ msgBytes r.typ (Desc.ofBytes r.bytes))
  let s := if whole then s else s.modPkg (fun p => { p with reasm := p.reasm ++ [r] })
  let s := if r.drop then s.modPkg (fun p => { p with epochDrop := satAdd p.epochDrop 1 }) else s
  if r.drop && !mc then s.giveBack l ix 1
  else if whole then (if descRsv r.bytes then s.refuseRsv r else s.arrive r) else s

/-- A car that this part forwards (R394, R403): every car of a message takes the link of its first; a request that cannot go on is answered with ERR. -/
def State.forward (s : State) (l : Fin 72) (c : Car) : State :=
  let same (w : Fwd) : Bool := decide (w.src = c.src ∧ w.dst = c.dst ∧ w.vc = c.vc ∧ w.via = l)
  let ix := vcIx c.vc c.dl
  let d := Desc.ofBytes c.payload
  let (w, first) : Fwd × Bool := match s.pkg.fwds.find? same with
    | some w => (w, false)
    | none => (⟨c.src, c.dst, c.vc, l, s.route c.dst (some (l, c.dl)), ceilDiv (msgBytes c.typ d) 256⟩, true)
  let s := s.modPkg (fun p => { p with fwds := p.fwds.filter (fun x => !same x) ++ (if w.left ≤ 1 then [] else [{ w with left := w.left - 1 }]) })
  match w.out with
  | some (o, dl) => (s.modLink o (fun k => { k with txq := k.txq ++ [({ c with dl := dl }, some (l, ix))] })).flush o
  | none =>
    let s := s.giveBack l ix 1
    if first ∧ (c.typ = 3 ∨ c.typ = 4) then (s.sendMsg c.src 8 ⟨0, 1, d.rtag, 0, 2⟩ []).1 else s

/-- A car of an authenticated group (R401, R403, R405): PAD says nothing; the rest is for this part or goes on. -/
def State.carIn (s : State) (l : Fin 72) (c : Car) : State :=
  if c.typ = 2 then s
  else if c.dst = s.pkg.partId ∨ c.typ = 5 ∨ (c.typ = 7 ∧ (s.mcHit l c.dst (Desc.ofBytes c.payload).rtag).isSome) then s.assemble l c
  else s.forward l c

/-! ### Cars that arrive (R388 to R392, R396, R398 to R402) -/

/-- A car is discarded (R398): the receiver goes back to the oldest group that it has not authenticated, and asks for a replay once. -/
def State.rxDiscard (s : State) (l : Fin 72) : State :=
  let again := (s.link l).naking
  let s := s.modLink l (fun k => { k with expect := k.authed, heldRx := [], tagRx := none, naking := true, nak := k.nak || !k.naking })
  if again then s else s.fillSlot l

/-- The tag of the oldest group that waits: from a TAG car, or from the TAGS slices of the next 16 cars (R400, R401). -/
def Link.tagOf (k : Link) : Option (List Byte) :=
  match k.tagRx with
  | some t => some t
  | none => if k.heldRx.length ≥ 32 then some (((k.heldRx.drop 16).take 16).map Car.tags) else none

/-- Check the tag of the oldest waiting group and deliver or discard it, at most `fuel` groups (R401). -/
def State.authGroups (s : State) (l : Fin 72) : Nat → State
  | 0 => s
  | fuel + 1 =>
    let k := s.link l
    match k.tagOf, k.rxKey (k.authed / 16) with
    | some t, some (key, g) =>
      if k.heldRx.length < 16 then s
      else
        let cs := k.heldRx.take 16
        let dir := !(s.txDir l)
        if t = railTag key dir g cs then
          let s := s.modLink l (fun k => { k with authed := k.authed + 16, heldRx := k.heldRx.drop 16, tagRx := none, wrong := 0 })
          let s := (cs.zipIdx).foldl (fun s c => s.carIn l { c.1 with payload := xorBytes c.1.payload (railPad key dir g c.2) }) s
          (s.fillSlot l).authGroups l fuel
        else
          let s := s.modLink l (fun k => { k with auth := satAdd k.auth 1, wrong := k.wrong + 1 })
          if k.wrong + 1 ≥ 8 then
            let s := s.modPkg (fun p => { p with ports := vmod p.ports (portOf l) (fun x => { x with session := false }) })
            ((s.rxDiscard l).retrain l).askSession l k.peer
          else s.rxDiscard l
    | _, _ => s

/-- What every good car tells the sender (R396, R398): the acknowledgement frees the buffer, the credits return, and NAK asks for a replay. -/
def State.carBack (s : State) (l : Fin 72) (c : Car) : State :=
  let s := s.modLink l (fun k =>
    let b0 := match k.buf with | b :: _ => b.1 | [] => k.next
    let n := (c.ack.toNat + 1 + 2048 - b0 % 2048) % 2048
    let k := if n = 0 ∨ n > k.buf.length then k else { k with buf := k.buf.drop n, tries := 0 }
    let ix := vcIx c.cvc c.cdl
    { k with credit := vset k.credit ix (Nat.min (vget creditsFull ix) (vget k.credit ix + c.ccnt.toNat)) })
  let s := if c.nak then s.replay l else s
  s.flush l

/-- A sequenced car (R398): the next one expected is held for its group; any other one is discarded. -/
def State.carSeq (s : State) (l : Fin 72) (c : Car) : State :=
  if c.seq = BitVec.ofNat 11 (s.link l).expect then
    (s.modLink l (fun k => { k with expect := k.expect + 1, heldRx := k.heldRx ++ [c], naking := false })).authGroups l 2
  else s.rxDiscard l

/-- A TAG car (R402): it brings the tag of the group that its byte 16 names. -/
def State.carTag (s : State) (l : Fin 72) (c : Car) : State :=
  let k := s.link l
  if k.heldRx.length ≥ 16 ∧ (c.payload.getD 16 0).toNat = k.authed / 16 % 128 then
    (s.modLink l (fun k => { k with tagRx := some (c.payload.take 16) })).authGroups l 2
  else s

/-- A car on a link in KEYING (R402): IDLE cars, and the CTRL cars of the SPDM exchange in clear, which reach the firmware; both carry acknowledgements and credits. A car of another type has no place there and is discarded. -/
def State.carClear (s : State) (l : Fin 72) (c : Car) : State :=
  if c.typ = 0 then s.carBack l c
  else if c.typ = 11 then (s.carBack l c).assemble l c
  else s

/-- A link receives a car (R389, R391, R392, R398); of the uncorrectable codewords it counts those that begin in the car's slot, so each one once. -/
def execCarReceive (l : Fin 72) (fec : FecCheck) (car : List Byte) (s : State) : Res :=
  let c := Car.ofBytes (car ++ zeros (272 - car.length))
  let count (s : State) : State := if fec.words = 0 then s else s.modLink l (fun k => { k with fecUnc := satAdd k.fecUnc fec.words })
  if (s.link l).st = .keying then
    .next (if fec.bad ∨ c.crc ≠ c.crcOf then count s
      else if c.ver ≠ 0 ∨ c.typ.toNat ≥ 12 then s.modLink l (fun k => { k with badCar := satAdd k.badCar 1 }) else s.carClear l c)
  else if !(s.link l).carries then .next s
  else
    let s := count s
    if fec.bad ∨ c.crc ≠ c.crcOf then .next (s.rxDiscard l)
    else if c.ver ≠ 0 ∨ c.typ.toNat ≥ 12 then .next (s.modLink l (fun k => { k with badCar := satAdd k.badCar 1 }))
    else
      let s := s.carBack l c
      if sequenced c.typ then .next (s.carSeq l c) else if c.typ = 1 then .next (s.carTag l c) else .next s

/-! ### What messages do -/

/-- Take the oldest message of a type from the inbox: its cars leave the receive buffer (R396). -/
def State.takeMsg (s : State) (typ : BitVec 4) : Option (RailMsg × State) :=
  match s.pkg.inbox.find? (fun m => decide (m.typ = typ)) with
  | some m => some (m, (s.modPkg (fun p => { p with inbox := p.inbox.erase m })).giveBack m.link m.ix m.cars)
  | none => none

/-- What a remote access reaches (R374). -/
inductive RemotePlace where
  | mem
  | port (c : CoreId) (o : Nat)
  | refused
deriving DecidableEq, Repr

/-- The place of a remote access (R372, R374): memory of the group's partition, or the SEMPOST ports, or one QPUSH port. -/
def State.remotePlace (s : State) (a len : Nat) (w : Bool) : RemotePlace :=
  if s.pkg.grp.role = 0 ∨ !s.inBounds s.pkg.grp.part a len then .refused
  else
    match s.region a with
    | .tierN _ | .tierF _ | .depot _ _ => .mem
    | .clm c o => if w ∧ o < s.textRegion c then .refused else .mem
    | .dieReg d x =>
      let o := x % 0x100000
      if decide (0x3000 ≤ o ∧ o + len ≤ 0x3200) || (decide (0x2000 ≤ o ∧ o < 0x2200 ∧ o % 0x40 < 8) && decide (o % 8 + len ≤ 8)) then
        .port ⟨d, Fin.ofNat 16 (x / 0x100000)⟩ o
      else .refused
    | _ => .refused

/-- Answer a request with ERR (R393, R395). -/
def State.refuse (s : State) (m : RailMsg) (code : BitVec 4) : State := (s.sendMsg m.src 8 ⟨0, 1, m.rtag, 0, code⟩ []).1

/-- A target performs a WRITE and acknowledges it (R395). -/
def execRailWrite (s : State) : Res :=
  match s.takeMsg 3 with
  | none => .next s
  | some (m, s) =>
    let ack (s : State) : State := (s.sendMsg m.src 7 ⟨0, 1, m.rtag, 0, 0⟩ []).1
    match s.remotePlace m.addr m.len true with
    | .mem => .next (ack ((s.wakeFor m.addr).memWrite m.addr m.data))
    | .port c o => .next (ack (if m.len = 8 ∧ o % 8 = 0 then s.blockWrite c o (BitVec.ofNat 64 (ofLE m.data)) else s.blockWriteNarrow c o))
    | .refused => .next (s.refuse m 1)

/-- A target performs a READ and returns its data, or ERR (R395, R519). -/
def execRailRead (s : State) : Res :=
  match s.takeMsg 4 with
  | none => .next s
  | some (m, s) =>
    let answer (s : State) (bs : List Byte) : State := (s.sendMsg m.src 6 ⟨0, m.len, m.rtag, 0, 0⟩ bs).1
    match s.remotePlace m.addr m.len false with
    | .mem =>
      let (s, e) := (s.wakeFor m.addr).eccRead [(m.addr, m.len)]
      .next (if e.poison.isSome then s.refuse m 3 else answer s (s.mem.read m.addr m.len))
    | .port c o =>
      .next (answer s ((((List.range (ceilDiv (o % 8 + m.len) 8)).flatMap (fun i =>
        leBytes 8 (s.blockRead (s.fnOf s.pkg.grp.part) c (o / 8 * 8 + 8 * i)).toNat)).drop (o % 8)).take m.len))
    | .refused => .next (s.refuse m 1)

/-- The context of this part that a multicast result ends: armed, no root, its vector wholly written (R406). -/
def State.resultEnds (s : State) (a len : Nat) : List (Fin 64) :=
  (fins 64).filter (fun i => let w := s.rdctx i; rdEn w && !rdRoot w && decide (rdDst w ≤ a) && decide (a + len = rdDst w + rdLen w))

/-- Complete a context and post its semaphore (R406). -/
def State.redFinish (s : State) (i : Fin 64) : State :=
  match s.redDone i with
  | (s, some (c, n)) => s.semAdd c n 1
  | (s, none) => s

/-- Acknowledge a multicast write whose copies are all visible (R405): a part whose own write was not performed never does. -/
def State.mcSettle (s : State) (w : McWait) : State :=
  if w.need.isEmpty then
    let s := s.modPkg (fun p => { p with mcWaits := p.mcWaits.filter (fun x => !decide (x.tag = w.tag ∧ x.src = w.src)) })
    match w.from' with
    | some l => if w.refused then s else s.mcAck w.src l w.tag
    | none => s
  else s

/-- The own write of a multicast write is not performed. -/
def State.mcRefuse (s : State) (m : RailMsg) : State :=
  s.modPkg (fun p => { p with mcWaits := p.mcWaits.map (fun w => if w.tag = m.rtag ∧ w.src = m.src then { w with refused := true } else w) })

/-- A part forwards a multicast write, writes it when it is a member whose epoch check it passes, and acknowledges it (R405, R408). -/
def execRailMcwrite (s : State) : Res :=
  match s.takeMsg 5 with
  | none => .next s
  | some (m, s) =>
    let s := s.mcForward m.grp m.src m.epoch (some m.link) ⟨m.addr, m.len, m.rtag, 0, 0⟩ m.data
    let s := if m.drop then s.mcRefuse m
      else if s.mcgLocal m.grp then
        (match s.remotePlace m.addr m.len true with
         | .mem => (s.resultEnds m.addr m.len).foldl (fun s i => s.redFinish i) ((s.wakeFor m.addr).memWrite m.addr m.data)
         | _ => (s.mcRefuse m).refuse m 1)
      else s
    match s.pkg.mcWaits.find? (fun w => decide (w.tag = m.rtag ∧ w.src = m.src)) with
    | some w => .next (s.mcSettle w)
    | none => .next s

/-- The outstanding request that a response answers; a response after its timeout is counted (R395). -/
def State.answered (s : State) (tag : BitVec 16) : Option (PendReq × State) :=
  (s.pkg.pends.find? (fun q => decide (q.tag = tag))).map (fun q => (q, s.dropReq q))

/-- A response that nobody waits for (RAIL_STAT.LATE). -/
def State.late (s : State) : State := s.modPkg (fun p => { p with late := satAdd p.late 1 })

/-- Read data arrive (R395): the transfer is delivered, or `rd` is written. -/
def execRailReadResp (s : State) : Res :=
  match s.takeMsg 6 with
  | none => .next s
  | some (m, s) =>
    match s.answered m.rtag with
    | none => .next s.late
    | some (q, s) =>
      match q.who with
      | .read c n t => .next (s.deliver c n t m.data)
      | .ld c rd size sx _ => if (s.core c).unhalted then .next (s.modCore c (fun k => k.setG rd (extend size sx (ofLE (m.data.take size))))) else .next s
      | _ => .next s

/-- A write is acknowledged (R395, R405). -/
def execRailWriteAck (s : State) : Res :=
  match s.takeMsg 7 with
  | none => .next s
  | some (m, s) =>
    match s.mcHit m.link m.dst m.rtag with
    | some w =>
      let w' := { w with need := w.need.erase m.link }
      .next ((s.modPkg (fun p => { p with mcWaits := p.mcWaits.map (fun x => if x = w then w' else x) })).mcSettle w')
    | none =>
      match s.answered m.rtag with
      | none => .next s.late
      | some (q, s) => match q.who with
        | .writes c n ts => .next (s.ackWrites c n ts)
        | _ => .next s

/-- The fault of a `ld` or `st` whose access was refused (R374, R379, R395). -/
def State.refusedAccess (s : State) (c : CoreId) (pc : BitVec 32) (q : PendReq) (code : BitVec 4) : State :=
  let a := 2 ^ 63 + 2 ^ 48 * q.part.toNat + q.addr
  if !((s.core c).unhalted || (s.core c).fring.faulted) then s
  else if code = 2 then s.railLoss c pc q.part (some q.link) a
  else if code = 3 then s.uncFault c 0x0801 pc 0 a
  else s.illegal c .bounds pc (BitVec.ofNat 32 q.addr) a

/-- A request is refused (R395): BOUNDS, REMOTE_LOSS or POISON. -/
def execRailErr (s : State) : Res :=
  match s.takeMsg 8 with
  | none => .next s
  | some (m, s) =>
    match s.answered m.rtag with
    | none => .next s.late
    | some (q, s) =>
      let cause : BitVec 5 := if m.code = 2 then 6 else if m.code = 3 then 5 else 3
      let a := 2 ^ 63 + 2 ^ 48 * q.part.toNat + q.addr
      match q.who with
      | .writes c n ts => .next (ts.foldl (fun s t => s.xferFail c n t cause a) s)
      | .read c n t => .next (s.xferFail c n t cause a)
      | .ld c _ _ _ pc => .next (s.refusedAccess c pc q m.code)
      | .st c pc => .next (s.refusedAccess c pc q m.code)

/-- A contribution arrives (R406, R407): pieces wait for every child; one for a context that is not armed is dropped. -/
def execRailReduce (s : State) : Res :=
  match s.takeMsg 9 with
  | none => .next s
  | some (m, s) =>
    if !rdEn (s.rdctx m.rdc) then .next s
    else
      let r : RedRun := (s.pkg.reds.find? (fun r => decide (r.ctx = m.rdc))).getD ⟨m.rdc, [], [], 0, [], false⟩
      let r := { r with got := r.got ++ [(m.src, m.addr, m.data)] }
      let s := s.modPkg (fun p => { p with reds := p.reds.filter (fun q => decide (q.ctx ≠ m.rdc)) ++ [r] })
      if r.own.isEmpty then .next s
      else
        match s.redRun m.rdc (rdLen (s.rdctx m.rdc) + 1) with
        | (s, some (c, n)) => .next (s.semAdd c n 1)
        | (s, none) => .next s

/-- The oldest message of a type leaves the inbox; its contents, to which the spec gives no layout, are the command's operand (R391). -/
def State.read' (s : State) (typ : BitVec 4) : State := ((s.takeMsg typ).map Prod.snd).getD s

/-- A barrier message (R325, R425): arrivals go up the tree to the lead, combined at a part that has yet to arrive itself; a release of this epoch goes down. A lead takes none from a part that it does not hear, an EXCLUDED one among them (R413). A group lead below a top lead takes the arrivals of the group leads below it in the upper tree, and the release from above (R414). -/
def State.barMsg (s : State) (m : BarMsg) : State :=
  match m with
  | .arrival src k e srcs =>
    let hold (ps : List (BitVec 12)) (s : State) : State :=
      s.modGrp (fun g => { g with arrivals := ps.map (fun p => (k, p)) ++ g.arrivals.filter (fun a => !decide (a.1 = k ∧ a.2 ∈ ps)) })
    if s.pkg.grp.role = 2 then
      (if e = s.pkg.epoch ∧ s.hears src then
        (hold (if s.pkg.grp.under s.pkg.partId && s.upChildren.contains src then srcs else srcs.filter s.isWorker) s).barReleaseCheck k
       else s)
    else if s.pkg.grp.role = 1 then
      (if e = s.pkg.epoch ∧ s.pkg.barXpart.getLsbD k.val ∧ !s.pkg.xArrived.getLsbD k.val then hold srcs s
       else s.sendGroup s.treeParent (.arrival k e srcs))
    else s
  | .release k e => if s.pkg.grp.role ≠ 0 ∧ e = s.pkg.epoch then s.barRelease k else s

/-- A barrier arrival or release message is processed (R325, R425). -/
def execRailBarrier (m : BarMsg) (s : State) : Res := .next ((s.read' 10).barMsg m)

/-- A key update of a port's session (R402): each of its links takes a new key at the group counter, under the newest key, that both ends have agreed. -/
def State.keyUpdate (s : State) (p : Fin 18) (g : Nat) : State :=
  (fins 72).foldl (fun s l =>
    if portOf l = p ∧ (s.link l).st = .up then
      let (x, s) := s.spend
      s.modLink l (fun k => match k.rekey.head?.or k.key with
        | some y => { k with rekey := ⟨x, y.tx + g, y.rx + g⟩ :: k.rekey }
        | none => k)
    else s) s

/-- A CTRL message tells the firmware of a verified identity (R413): the lead may complete the join; a part that has joined runs in strict mode. What a lead has worked out for a part goes out with the next epoch (R427), and its reduction contexts are armed at once under the group tree (R406, R432). -/
def State.ctrlMsg (s : State) (m : CtrlMsg) : State :=
  match m with
  | .joined p true =>
    if p = s.pkg.partId then s.strictOn else (s.modMember p (fun m => { m with verified := true })).tryJoin p
  | .joined p false => s.modMember p (fun m => { m with verified := false })
  | .plan p m =>
    if s.pkg.grp.role = 2 then
      let s := s.modGrp (fun g => { g with plan := (p, m) :: g.plan.filter (fun e => decide (e.1 ≠ p)) })
      let ctx := (s.epochMsg p).ctx
      if p = s.pkg.partId then s.armNow ctx else if ctx.isEmpty then s else s.sendGroup p (.arm ctx)
    else s
  | .arm ctx => if s.pkg.grp.role ≠ 0 then s.armNow ctx else s
  | .job n =>
    if s.pkg.grp.role = 0 then s
    else s.workers.foldl (fun s p => s.sendGroup p (.job n)) (s.jobSeen n)
  | .keyUpdate p g => s.keyUpdate p g
  | .other => s

/-- A CTRL message is delivered to the group firmware (R391, R413); the effect of each kind of group message is a command of its own. -/
def execRailCtrl (m : CtrlMsg) (s : State) : Res := .next ((s.read' 11).ctrlMsg m)

end Sys2Proof.Machine
end

