-- ==== Sys2Proof/Machine/Power.lean ====
section
/-! DEFINITION. Supplies, clocks, thermal limits, power control and resets (R476 to R498, R546). -/

namespace Sys2Proof.Machine

/-! ### The VIN domain and its resets (R483, R486, R493, R495, R546) -/

/-- Change the pins. -/
def State.modPins (s : State) (f : Pins → Pins) : State := s.modPkg (fun p => { p with pins := f p.pins })

/-- Change power control. -/
def State.modPow (s : State) (f : Power → Power) : State := s.modPkg (fun p => { p with pow := f p.pow })

/-- Record a cause in RST_CAUSE (R495, R504). -/
def State.cause (s : State) (b : Nat) : State :=
  s.modPkg (fun p => { p with rstCause := p.rstCause ||| (1 <<< b), rstLast := BitVec.ofNat 4 b })

/-- RST_CAUSE. -/
def Pkg.causeWord (p : Pkg) : Word := put p.rstCause.toNat 0 12 ||| put p.rstLast.toNat 16 4

/-- The RESET record of the VIN domain (R515), with the new cause included. -/
def State.resetRecord (s : State) : State := s.pkcRecord ⟨0x0A04, 0, BitVec.ofNat 32 s.pkg.rstCause.toNat, 0, leBytes 8 s.pkg.causeWord.toNat⟩

/-- A die after a reset of the die (R533): its ECC counters and its temperature stay. -/
def Die.afterReset (d : Die) : Die := { Die.reset with ecc := d.ecc, temp := d.temp, throttle := d.throttle }

/-- Every core and die reset, with the tasks and what they have under way (R496): a die or core reset that runs is absorbed (R498). -/
def State.coresReset (s : State) : State :=
  let s := { s with cores := Vector.replicate 8 (Vector.replicate 16 Core.reset), dies := s.dies.map Die.afterReset }
  s.modPkg (fun p => { p with tasks := [], legTab := [], loads := [], pends := [], opens := [], invals := [], xArrived := 0, rstDie := 0, rstGo := false })

/-- The components that await activation become active (R455). -/
def Component.activate (c : Component) : Component := if c.pend then { c with useB := !c.useB, verified := false, pend := false } else c

/-- A loss of power leaves the active bank in use (R455): an activation that waits is gone. -/
def Component.dropped (c : Component) : Component := { c with verified := false, pend := false }

/-- What a reset of a cause does to the components in flash (R455): a cold reset and PERST# with activation activate, a loss of power keeps the bank that is active, and the others change nothing. -/
def Component.atCause (b : Nat) (c : Component) : Component :=
  match b with
  | 1 | 8 => c.activate
  | 0 | 2 | 3 => c.dropped
  | _ => c

/-- The package after a cold-class reset (R496, R504, R515): fuses, pins, flash, the owner record, the reset causes and the fault ring stay. -/
def Pkg.cold (p : Pkg) : Pkg :=
  { Pkg.reset with
    fuses := p.fuses
    pins := p.pins
    rstCause := p.rstCause
    rstLast := p.rstLast
    pkcCount := p.pkcCount
    pkcRecs := p.pkcRecs
    flash := p.flash
    provision := p.provision
    sec := { Sec.reset with owner := p.sec.owner }
    pow := { Power.reset p.pins.strap with sag := !p.pins.sagN, halved := !p.pins.sagN }
    memCfg := memCfgReset p.fuses.variant p.pins.strap
    strapStat := p.strapStat
    eid := p.eid }

/-- A cold-class reset begins (R496): the part is as after power-on but for what survives, and every memory is lost. -/
def State.coldState (s : State) : State :=
  { s with mem := Memory.empty, ecc := [], cores := Vector.replicate 8 (Vector.replicate 16 Core.reset),
           dies := s.dies.map (fun d => { Die.reset with temp := d.temp }), pkg := s.pkg.cold }

/-- The group state that the role straps give (R411). -/
def Group.strapped (strap : Byte) : Group :=
  let r : BitVec 2 := fld strap 0 2
  if r = 3 then { Group.reset with strapErr := true }
  else if r = 0 then Group.reset
  else if r = 1 then { Group.reset with role := 1, st := .forming }
  else { Group.reset with role := 2, st := .forming, members := [Member.new 0 .active], tree := [0] }

/-- A cold-class reset releases: the straps are sampled (R494, R546); RAIL_PORTn.RATE takes STRAP[5] until the record sets it (R387). -/
def State.coldRelease (s : State) : State :=
  let v := s.pkg.pins.strap
  s.modPkg (fun p =>
    { p with
      strapStat := v.setWidth 9 ||| (if bit v 7 then 256 else 0)
      pow := { p.pow with cap := capOf v }
      memCfg := memCfgReset p.fuses.variant v
      grp := Group.strapped v
      ports := p.ports.map (fun x => { x with rate := bit v 5 })
      railCfg := setBit p.railCfg 0 (decide (fldN v 0 2 = 2)) })

/-- A cold-class cause: it is recorded, the VIN domain enters reset unless it is in reset already, and `f` is what holds it there. -/
def State.coldClass (s : State) (b : Nat) (f : Pins → Pins) : State :=
  let entering := !s.pkg.pins.held
  let s := (s.cause b).modPkg (fun p => { p with flash := p.flash.map (Component.atCause b) })
  let s := if entering ∧ b ≠ 1 then s.resetRecord else s
  let s := if entering then s.coldState else s
  s.modPins f

/-- A pin or supply no longer holds the VIN domain: when nothing else does, the reset releases. -/
def State.unhold (s : State) (f : Pins → Pins) : State :=
  let was := s.pkg.pins.held
  let s := s.modPins f
  if was ∧ !s.pkg.pins.held then s.coldRelease else s

/-- Whether every die reads 95 °C or less (R493). -/
def State.cool (s : State) : Bool := (fins 8).all (fun d => decide ((s.die d).temp.toNat ≤ 380))

/-! ### Supply and clock events -/

/-- VAUX enters its window (R478, R495, R504): the always-on domain resets, with VAUXPOR the only cause. -/
def execVauxPor (s : State) : Res :=
  if s.pkg.pins.vaux then .next s
  else
    let s := s.coldState
    let s := s.modPkg (fun p =>
      { p with rstCause := 1, rstLast := 0, pkcCount := 0, pkcRecs := [], eid := 0, strapStat := 0, flash := p.flash.map (Component.atCause 0) })
    .next (s.unhold (fun p => { p with vaux := true, thermN := true }))

/-- VAUX leaves its window (R479): the always-on domain loses power, its open-drain outputs are off (R545), and the VIN domain is held in reset. -/
def execVauxLoss (s : State) : Res :=
  if s.pkg.pins.vaux then
    let s := (s.modPins (fun p => { p with vaux := false, sagN := true, thermN := true })).coldState
    .next (s.modPkg (fun p =>
      { p with rstCause := 0, rstLast := 0, pkcCount := 0, pkcRecs := [], eid := 0, strapStat := 0, flash := p.flash.map (Component.atCause 0) }))
  else .next s

/-- COLD_RST_N falls or rises (R495, R546); a thermal trip ends at a cold reset while every die is cool (R493). -/
def execColdReset (low : Bool) (strap : Byte) (s : State) : Res :=
  let trip (p : Pins) : Pins := { p with thermN := p.thermN || s.cool }
  if !s.pkg.pins.vaux then .next (s.modPins (fun p => { p with coldRst := !low, strap := strap }))
  else if low then
    (if s.pkg.pins.coldRst then .next (s.coldClass 1 (fun p => { trip p with coldRst := false })) else .next s)
  else if s.pkg.pins.coldRst then .next s
  else
    let s := if s.pkg.pins.pwrOk then s.cause 1 else s
    .next (s.unhold (fun p => { trip p with coldRst := true, strap := strap }))

/-- PWR_OK falls (R483). -/
def execPwrfail (s : State) : Res :=
  if !s.pkg.pins.pwrOk then .next s
  else if s.pkg.pins.vaux then .next (s.coldClass 2 (fun p => { p with pwrOk := false }))
  else .next (s.modPins (fun p => { p with pwrOk := false }))

/-- PWR_OK rises (R546). -/
def execPwrOkRise (strap : Byte) (s : State) : Res :=
  if s.pkg.pins.pwrOk then .next s else .next (s.unhold (fun p => { p with pwrOk := true, strap := strap }))

/-- VIN falls to 1.60 V (R481, R483). -/
def execBrownout (s : State) : Res :=
  if !s.pkg.pins.vin then .next s
  else if s.pkg.pins.vaux then .next (s.coldClass 3 (fun p => { p with vin := false }))
  else .next (s.modPins (fun p => { p with vin := false }))

/-- VIN rises to 1.615 V (R483). -/
def execBrownoutClear (s : State) : Res := if s.pkg.pins.vin then .next s else .next (s.unhold (fun p => { p with vin := true }))

/-- REFCLK is lost (R486). -/
def execClkfail (s : State) : Res :=
  if !s.pkg.pins.refclk then .next s
  else if s.pkg.pins.vaux then .next (s.coldClass 4 (fun p => { p with refclk := false }))
  else .next (s.modPins (fun p => { p with refclk := false }))

/-- REFCLK returns (R486). -/
def execRefclkReturn (s : State) : Res := if s.pkg.pins.refclk then .next s else .next (s.unhold (fun p => { p with refclk := true }))

/-- A regulator fault resets the VIN domain (R480): nothing holds it there, so it boots again. -/
def execRegfault (s : State) : Res :=
  if s.pkg.pins.vaux then
    let s := s.coldClass 6 id
    .next (if s.pkg.pins.held then s else s.coldRelease)
  else .next s

/-! ### Sags (R481, R482) -/

/-- Change every core. -/
def State.modCores (s : State) (f : Core → Core) : State := { s with cores := s.cores.map (fun r => r.map f) }

/-- Highest die temperature, in units of 0.25 °C. -/
def State.hottest (s : State) : Nat := (fins 8).foldl (fun n d => Nat.max n (s.die d).temp.toNat) 0

/-- VIN falls to 1.67 V (R481, R482): SAG_N, the counter, vector 1, a record with VIN's minimum, and halved steps; during the hold they are halved already. -/
def execSag (mv : BitVec 32) (s : State) : Res :=
  if !s.pkg.pins.vaux ∨ s.pkg.pow.sag then .next s
  else
    let s := if s.pkg.pow.halved then s else s.modCores (fun k => { k with step := halveStep k.step })
    let s := (s.modPins (fun p => { p with sagN := false })).modPow (fun w =>
      { w with sag := true, halved := true, hold := false, sagCount := satAdd w.sagCount 1 })
    .next ((s.pkcRecord ⟨0x0A01, 0, mv, 0, leBytes 2 s.hottest⟩).pfEvent 0 1)

/-- VIN rises to 1.685 V (R481, R482). -/
def execSagClear (s : State) : Res :=
  if s.pkg.pow.sag then
    .next ((s.modPins (fun p => { p with sagN := true })).modPow (fun w => { w with sag := false, hold := true }))
  else .next s

/-- VIN has stayed at or above 1.685 V for 100 µs (R482): the next control step returns the steps. -/
def execSagHoldExpire (s : State) : Res :=
  if s.pkg.pow.hold then .next (s.modPow (fun w => { w with hold := false, halved := false })) else .next s

/-! ### Power control (R489 to R492) -/

/-- What a variant may draw from VIN: sustained and peak current in amperes (R476), design and peak power in watts (R17, R489). -/
structure Supply where
  iSus : Nat
  iPk : Nat
  pSus : Nat
  pPk : Nat
deriving DecidableEq, Repr

/-- The supply figures of the variant. -/
def Fuses.supply (x : Fuses) : Supply :=
  match x.variant with
  | 0 => ⟨444, 556, 800, 1000⟩ | 1 => ⟨806, 1000, 1450, 1800⟩ | 2 => ⟨1556, 1889, 2800, 3400⟩

/-- The four limits that the controller derives from CAP (R489): I_sus and I_pk in units of 10 mA, P_sus and P_pk in units of 10 mW. Averages of 1 ms stay under the first of each, of 1 µs under the second (R490). -/
def State.capLimits (s : State) : Supply :=
  let x := s.pkg.fuses.supply
  let cap := s.pkg.pow.cap.toNat
  ⟨cap * x.iSus, cap * x.iPk, cap * x.pSus, cap * x.pPk⟩

/-- P_sus, and I_sus at a VIN in millivolts expressed as power, in milliwatts (R489, R491). -/
def State.limits (s : State) (vin : Nat) : Nat × Nat := (s.capLimits.pSus * 10, s.capLimits.iSus * vin / 100)

/-- The core budget of each die (R491, R493): an equal part of what the smaller limit leaves, less the sixteenths that the die's temperature has taken off. -/
def State.dieBudget (s : State) (r : PowerStep) (d : Fin 8) : Nat :=
  let (p, i) := s.limits r.vin
  (Nat.min p i - r.other) / s.dieCount * (16 - (s.die d).throttle) / 16

/-- Whether a core's share is lent: it is Gated, Collapsed or in core reset (R491). -/
def Core.lends (k : Core) : Bool := decide (k.pstate ≠ .run) || k.resetting

/-- What a core of a die may use (R491): its share of one sixteenth, and an equal part of the shares that are lent. -/
def State.corePart (s : State) (r : PowerStep) (c : CoreId) : Nat × Nat :=
  let share := s.dieBudget r c.die / 16
  let lent := ((fins 16).filter (fun i => (s.core ⟨c.die, i⟩).lends)).length
  (share, if lent < 16 then lent * share / (16 - lent) else 0)

/-- The highest step of a core whose estimated power fits a budget; 4 where none does (R484, R491). -/
def fitStep (est : Nat → Nat) (budget : Nat) : Nat := ((List.range 29).map (fun i => 32 - i)).find? (fun j => decide (est j ≤ budget)) |>.getD 4

/-- The core after a control step (R491, R492): the step of its own share, and the step that it runs at. -/
def State.stepCore (s : State) (x : Nat) (r : PowerStep) (c : CoreId) : Core :=
  let k := s.core c
  let (share, lent) := s.corePart r c
  let est (j : Nat) : Nat := Config.corePower x c.pkg j
  { k with own := fitStep est share, step := if k.lends then k.step else s.stepOf c (fitStep est (share + lent)) }

/-- Whether the step of R491 is what holds a running core (PWR_STAT.POWER and CURRENT). -/
def State.bound (s : State) (x : Nat) (r : PowerStep) (c : CoreId) : Bool :=
  let (share, lent) := s.corePart r c
  let j := fitStep (fun j => Config.corePower x c.pkg j) (share + lent)
  !(s.core c).lends && decide (j < 32 ∧ s.stepOf c j < s.stepOf c 32)

/-- A control step (R477, R491): whichever limit is the smaller gives the shares and the steps; the limits that bound, and at a millisecond boundary the averages of PWR_MEAS. -/
def execPowerControlStep (r : PowerStep) (s : State) : Res :=
  if s.pkg.pins.held ∨ s.pkg.level = 0 then .next s
  else
    let (x, s) := s.spend
    let cs := (List.range 128).map coreOfPkg |>.filter (fun c => s.hasDie c.die)
    let bound := cs.any (fun c => s.bound x r c)
    let (p, i) := s.limits r.vin
    let t := cs.foldl (fun t c => t.setCore c (s.stepCore x r c)) s
    .next (t.modPow (fun w =>
      { w with power := bound && decide (p ≤ i), current := bound && decide (i ≤ p), meas := (r.meas.map (fun v => (fld v 0 48).setWidth 64)).getD w.meas }))

/-- PWR_CAP.CAP takes a value of 55 to 100 (R489). -/
def State.capWrite (s : State) (n : Nat) : State := if 55 ≤ n ∧ n ≤ 100 then s.modPow (fun w => { w with cap := BitVec.ofNat 7 n }) else s

/-- The PF writes PWR_CAP (R489); a value outside the range is ignored. -/
def execPwrCapWrite (v : Word) (s : State) : Res := if s.fnUp 0 then .next (s.capWrite (fldN v 0 7)) else .next s

/-! ### Thermal limits (R493) -/

/-- A die's reading: at 105 °C its running cores are held at step 8, halved during a sag (R492), until it reads 100 °C, and at 110 °C the hardware trips. -/
def State.tempRead (s : State) (d : Fin 8) (t : BitVec 16) : State :=
  let s := s.modDie d (fun k => { k with temp := t })
  let was := s.pkg.pow.hot.getLsbD d.val
  let hot := decide (t.toNat ≥ 420) || (was && decide (t.toNat > 400))
  let s := s.modPow (fun w => { w with hot := setBit w.hot d.val hot })
  let s := if hot && !was then
      s.pkcRecord ⟨0x0A03, 0, s.pkg.pow.hot.setWidth 32, 0, leBytes 2 s.hottest⟩
    else s
  let s := if hot then { s with cores := vmod s.cores d (fun r => r.map (fun k => { k with step := Nat.min k.step (if s.pkg.pow.halved then halveStep 8 else 8) })) } else s
  if t.toNat ≥ 440 ∧ s.pkg.pins.vaux then s.coldClass 5 (fun p => { p with thermN := false }) else s

/-- One millisecond of a die's throttling: its budget falls by 1/16 at or above 100 °C and rises at or below 98 °C; vector 2 when the first die begins. -/
def State.throttleMs (s : State) (d : Fin 8) : State :=
  let t := (s.die d).temp.toNat
  let s := s.modDie d (fun k => { k with throttle := if t ≥ 400 then Nat.min 16 (k.throttle + 1) else if t ≤ 392 then k.throttle - 1 else k.throttle })
  let first := decide (s.pkg.pow.therm = 0)
  let s := s.modPow (fun w => { w with therm := setBit w.therm d.val (decide ((s.die d).throttle ≠ 0)) })
  if first ∧ s.pkg.pow.therm ≠ 0 then
    (s.pkcRecord ⟨0x0A02, 0, s.pkg.pow.therm.setWidth 32, 0, leBytes 2 s.hottest⟩).pfEvent 1 2
  else s

/-- THROTTLE (R493): a millisecond of a die at a temperature. -/
def execThrottle (d : Fin 8) (t : BitVec 16) (s : State) : Res :=
  if !s.hasDie d then .next s else .next ((s.modDie d (fun k => { k with temp := t })).throttleMs d |>.tempRead d t)

/-- HOT (R493). -/
def execHot (d : Fin 8) (t : BitVec 16) (s : State) : Res := if !s.hasDie d then .next s else .next (s.tempRead d t)

/-- THERMTRIP (R493). -/
def execThermtrip (d : Fin 8) (t : BitVec 16) (s : State) : Res := if !s.hasDie d then .next s else .next (s.tempRead d t)

/-! ### PERST#, warm, die and core resets (R495 to R498) -/

/-- The contents of CLMs and depots after a reset that leaves them open: the bytes listed there become free values. -/
def State.onDieLost (s : State) : State :=
  let (x, s) := s.spend
  { s with mem := s.mem.scramble depotBase pkgBase (Config.freeByte x), ecc := s.ecc.filter (fun m => decide (m.1 < depotBase)) }

/-- Every partition is closed and its memory keys destroyed (R469, R496). -/
def State.closeAll (s : State) : State := (fins 8).foldl (fun s n => s.closePart n) s

/-- What PERST# and a warm reset have in common (R496, R529): tasks end, partitions close, reduction contexts disarm, cores and dies reset. -/
def State.midReset (s : State) : State :=
  (s.closeAll.coresReset).modPkg (fun p => { p with reds := [], rdctx := p.rdctx.map (fun w => setFld w 127 1 0) })

/-- PERST# aborts what a partition runs (R50, R435): a LOAD that is being checked is refused with BUSY, one that has passed its checks is placed and ends at once, and a running task ends as R49 has it; no completion entry is left. -/
def State.perstAbort (s : State) (n : Fin 8) : State :=
  let s := match s.loadOf n with
    | some j =>
      (match j.checked with
       | none => (s.loadEnd n).loadRecord n.val j.sub.arg0.toNat 0x0002 0
       | some m => s.loadPlace { j with sub := { j.sub with mute := true }, aborted := true, discard := true } m)
    | none => s
  (s.abortTask n true).finishTask n

/-- PCIe Fundamental Reset with no activation pending (R496): the PKC firmware and the Rail links stay.
DESIGN CHOICE (log 22): what the reset leaves open in CLMs and depots is free, and the regions of the tasks that it ends read zero (R49). -/
def State.perstReset (s : State) : State :=
  let s := (s.cause 7).resetRecord
  let s := (fins 8).foldl (fun s n => s.tdiError n) s
  let s := (fins 8).foldl (fun s n => s.perstAbort n) s.onDieLost
  (s.midReset.pfReset).modPkg (fun p => { p with pcieUp := false })

/-- PERST# with a component that awaits activation: a cold-class reset (R455, R495). -/
def State.activateReset (s : State) : State :=
  let s := (s.cause 7).coldClass 8 (fun p => { p with perst := false })
  if s.pkg.pins.held then s else s.coldRelease

/-- PERST# falls: absorbed while a cold-class reset runs or the part boots (R498). -/
def State.perstFall (s : State) : State :=
  if s.pkg.level = 0 then s.modPins (fun p => { p with perst := false })
  else if s.pkg.flash.toList.any (fun c => c.pend) then s.activateReset
  else s.perstReset.modPins (fun p => { p with perst := false })

/-- PERST (R496). -/
def execPerst (s : State) : Res := .next s.perstFall

/-- ACTIVATE (R495): PERST# with a pending component. -/
def execActivate (s : State) : Res := .next s.perstFall

/-- PERST# rises (R499): from MGMT on the port trains. -/
def execPerstDeassert (s : State) : Res := .next (s.modPkg (fun p => { p with pins := { p.pins with perst := true }, pcieUp := decide (p.level ≠ 0) }))

/-- The PCIe link goes down (R469, R472): every function loses its IDE keys. -/
def execPcieLinkDown (s : State) : Res := .next (((fins 9).foldl (fun s f => s.ideDrop f) s).modPkg (fun p => { p with pcieUp := false }))

/-- The reset of a function at a warm reset: as at an FLR, but the configuration space stays (R496). -/
def State.fnWarm (s : State) (f : Fin 9) : State :=
  let h := s.fn f
  (s.fnReset f).modFn f (fun x => { x with ats := h.ats, pri := h.pri, prAlloc := h.prAlloc, bar2 := h.bar2, aer := h.aer })

/-- A change of SERVICE_LEVEL (R500): vector 5. -/
def State.setLevel (s : State) (n : BitVec 2) : State := if s.pkg.level = n then s else (s.modPkg (fun p => { p with level := n })).pfEvent 4 5

/-- The warm reset (R496): the PKC firmware restarts from its checked copy, and the part climbs again from MGMT. -/
def State.warmReset (s : State) : State :=
  let s := (s.cause 9).resetRecord
  let s := (fins 8).foldl (fun s n => s.tdiError n) s
  let s := s.onDieLost.midReset
  let s := (fins 9).foldl (fun s f => s.fnWarm f) s
  let s := s.modPkg (fun p =>
    { p with
      links := p.links.map (fun k => k.anew .disabled)
      ports := p.ports.map (fun x => { x with session := false, asked := false })
      sec := { p.sec with sessions := [], nonceFor := none, stopping := 0, kstops := [], unlock := none }
      fns := p.fns.map (fun h => { h with fetched := [] })
      grp := { p.grp with joins := [] }
      reasm := [], fwds := [], inbox := [], mcWaits := [], tierF := false, railUp := false })
  s.setLevel 1

/-- RST_CTL.WARM (R495): absorbed while a cold-class reset runs (R498). -/
def execWarm (s : State) : Res := if s.fnUp 0 ∧ s.pkg.level ≠ 0 then .next s.warmReset else .next s

/-- A refused reset request (R497). -/
def State.rstRefuse (s : State) : State := s.modPkg (fun p => { p with rstRefused := true })

/-- The CLMs of a die read zero (R496). -/
def State.dieClmZero (s : State) (d : Fin 8) : State := (fins 16).foldl (fun s c => s.memZero (clmAddr ⟨d, c⟩) (clmAddr ⟨d, c⟩ + clmSize)) s

/-- A die reset begins (R496, R497, R533): cores, depot, counters and registers reset, CLMs zeroed; the depot's contents are open. -/
def State.dieResetGo (s : State) (d : Fin 8) : State :=
  let mine := (fins 16).any (fun i => (s.core ⟨d, i⟩).resetting)
  let s := (s.cause 10).dieClmZero d
  let (x, s) := s.spend
  let s := { s with mem := s.mem.scramble (depotAddr d) (depotAddr d + depotSize) (Config.freeByte x)
                    cores := vset s.cores d (Vector.replicate 16 Core.reset) }
  let s := s.modDie d (fun k => { k.afterReset with resetting := true })
  s.modPkg (fun p => { p with rstDie := setBit p.rstDie d.val true, rstGo := p.rstGo && !mine })

/-- A write of 1 to RST_CTL.DIE bit d (R497). -/
def State.dieReq (s : State) (d : Fin 8) : State :=
  if (s.die d).resetting then s
  else if s.pkg.level.toNat < 2 ∨ ((s.dieOwner d).map s.busyPart).getD false then s.rstRefuse
  else if s.hasDie d then s.dieResetGo d
  else s

/-- RST_CTL.DIE bit d (R497). -/
def execDieReset (d : Fin 8) (s : State) : Res :=
  if s.fnUp 0 then .next (s.dieReq d) else .next s

/-- A die reset ends. -/
def execDieResetComplete (d : Fin 8) (s : State) : Res :=
  if !s.hasDie d then .next s
  else if (s.die d).resetting then
    .next ((s.modDie d (fun k => { k with resetting := false })).modPkg (fun p => { p with rstDie := setBit p.rstDie d.val false }))
  else .next s

/-- A write of 1 to RST_CTL.CORE_GO (R497); a request during a reset of the core's die is discarded (R498), and so is one while another core reset runs. -/
def State.coreReq (s : State) (c : CoreId) : State :=
  if (s.die c.die).resetting ∨ s.pkg.rstGo then s
  else if s.pkg.level.toNat < 2 ∨ (s.core c).sect.isSome then s.rstRefuse
  else if !s.hasDie c.die then s
  else ((s.cause 11).modCore c (fun k => { k with resetting := true })).modPkg (fun p => { p with rstCore := BitVec.ofNat 7 c.pkg, rstGo := true })

/-- RST_CTL.CORE_GO (R497). -/
def execCoreReset (c : CoreId) (s : State) : Res :=
  if s.fnUp 0 then .next (s.coreReq c) else .next s

/-- A core reset ends (R496): the core is reset and its CLM zeroed. -/
def execCoreResetComplete (c : CoreId) (s : State) : Res :=
  if !s.hasDie c.die then .next s
  else if (s.core c).resetting then
    .next (((s.memZero (clmAddr c) (clmAddr c + clmSize)).setCore c Core.reset).modPkg (fun p =>
      { p with rstGo := false }))
  else .next s

end Sys2Proof.Machine
end

