-- ==== Sys2Proof/Machine/Boot.lean ====
section
/-! DEFINITION. Boot: firmware components and their checks, the board configuration record, and the service levels (R458 to R461, R499 to R503). -/

namespace Sys2Proof.Machine

/-! ### Components (R455, R458, R466) -/

/-- Bytes of a signature block (R466). -/
def sigBytes : Nat := 7424

/-- The contents of a component, before its signature block. DEDUCED: the block stands at the end. -/
def compBody (img : List Byte) : List Byte := img.take (img.length - sigBytes)

/-- Whether a component carries a good signature of the Azverel firmware key (R458, R467). -/
def State.compSigned (s : State) (img : List Byte) : Bool :=
  let b := img.drop (img.length - sigBytes)
  decide (img.length > sigBytes) && sigForm b && decide (sigKey b = 2) && sigHashes b s.pkg.fuses.fwEc s.pkg.fuses.fwMl &&
    sigVerifies b (sha384 (compBody img))

/-- Whether a PKC firmware component passes the two checks of R458. -/
def State.fwPasses (s : State) (img : List Byte) : Bool :=
  s.compSigned img && decide (s.pkg.fuses.svn ≤ Config.fwSvn img ∧ Config.fwSvn img ≤ 64)

/-- The banks of a component, the active one first, each with whether it is bank B. -/
def Component.banks (c : Component) : List (Bank × Bool) := if c.useB then [(c.b, true), (c.a, false)] else [(c.a, false), (c.b, true)]

/-- Component 1, 2 or 3 in flash, counted from 0. -/
def State.comp (s : State) (i : Fin 3) : Component := vget s.pkg.flash i

/-- Set a measurement, counted from 0 (R461). -/
def State.setMeas (s : State) (i : Fin 4) (v : List Byte) : State := s.modSec (fun x => { x with meas := vset x.meas i v })

/-- The boot ROM derives the Alias key pairs from the UDS and FW_MEAS, once, and erases the UDS from its working memory (R459). -/
def State.deriveAlias (s : State) : State :=
  match s.pkg.sec.romUds with
  | none => s
  | some u =>
    let cdi := Config.hkdf 1 (u ++ s.fwMeas)
    s.modSec (fun x => { x with romUds := none, aliasLocked := Config.hkdf 2 cdi, aliasDebug := Config.hkdf 3 cdi })

/-- PKC firmware that passed R458 runs: its bank, version, SVN and measurement; the ROM has derived the Alias keys before it starts (R459). -/
def State.runFw (s : State) (img : List Byte) (bankB : Bool) : State :=
  let v := Config.fwSvn img
  let s := s.setMeas 1 (sha384 (compBody img ++ leBytes 1 v))
  let s := s.modSec (fun x => { x with bankB := bankB, fwSvn := BitVec.ofNat 8 v, bootFail := false })
  (s.modPkg (fun p => { p with fwRun := Config.fwVersion img })).deriveAlias

/-! ### The board configuration record (R502) -/

/-- A field of a record. -/
def recN (r : List Byte) (o k : Nat) : Nat := ofLE ((r.drop o).take k)

/-- Whether a record holds no reserved value and nothing in a reserved byte. -/
def State.recordOk (s : State) (r : List Byte) : Bool :=
  let en := recN r 0x08 4
  let split := recN r 0x0C 8
  let ports := s.portCount
  decide (r.length = 64) && decide (recN r 0 4 = 0x31434642) && decide (recN r 4 1 = 1) && decide (recN r 5 1 ≤ 2) && decide (recN r 6 1 ≤ 2) &&
    decide (recN r 7 1 ≤ 5) && decide (en < 2 ^ ports) && decide (split < 2 ^ (2 * ports)) && decide (recN r 0x14 4 < 2 ^ ports) &&
    (List.range ports).all (fun p => let v := split / 2 ^ (2 * p) % 4; decide (v < 3) && (decide (v ≠ 2) || decide (s.portLanes p = 8))) &&
    (r.drop 0x18).all (fun b => decide (b = 0))

/-- The record that the firmware takes: that of the active bank, else that of the other. -/
def State.boardRecord (s : State) : Option (List Byte) :=
  (((s.comp 2).banks.map Prod.fst).find? (fun b => b.ok && s.compSigned b.img && s.recordOk (compBody b.img))).map (fun b => compBody b.img)

/-- MEM_CFG takes TN_ILV, TF_GRADE and TF_CAP (R367). -/
def memCfgOf (w : Word) (r : List Byte) : Word := setFld (setFld (setFld w 0 2 (recN r 5 1)) 3 2 (recN r 6 1)) 5 3 (recN r 7 1)

/-- RAIL_PORTp under a record (R502). -/
def portOfRecord (r : List Byte) (slow : Bool) (p : Nat) : Port :=
  { en := decide (recN r 0x08 4 / 2 ^ p % 2 = 1), split := BitVec.ofNat 2 (recN r 0x0C 8 / 2 ^ (2 * p)),
    rate := slow || decide (recN r 0x14 4 / 2 ^ p % 2 = 1), session := false, asked := false }

/-- The bank of the Rail SerDes firmware that runs: the active one, else the other. -/
def State.serdes (s : State) : Option Bank := ((s.comp 1).banks.map Prod.fst).find? (fun b => b.ok && s.compSigned b.img)

/-- The digests of the running Rail SerDes firmware and board configuration record (R461), which FW_MEAS covers (R462): taken once after a cold reset. -/
def State.measureFlash (s : State) : State :=
  if vget s.pkg.sec.meas 3 = zeros 48 then
    (s.setMeas 2 ((s.serdes.map (fun b => sha384 (compBody b.img))).getD (zeros 48))).setMeas 3 ((s.boardRecord.map sha384).getD (zeros 48))
  else s

/-- The record is applied: MEM_CFG once after a cold reset (R367), the ports always. -/
def State.applyRecord (s : State) (r : List Byte) : State :=
  let s := if s.pkg.cfgSet then s else s.measureFlash.modPkg (fun p => { p with memCfg := memCfgOf p.memCfg r, cfgSet := true })
  s.modPkg (fun p => { p with ports := Vector.ofFn (fun i => portOfRecord r (bit p.strapStat 5) i.val) })

/-- Every enabled link begins to train (R409). -/
def State.trainLinks (s : State) : State :=
  (fins 72).foldl (fun s l => if s.hasLink l then s.modLink l (fun k => { k.anew .training with slow := s.forcedSlow l }) else s) s

/-! ### The levels (R499 to R501) -/

/-- A boot failure (R501): vector 5, and a report through PLDM. -/
def State.bootFailure (s : State) (kind : Nat) : State :=
  let s := s.pfEvent 4 5
  if s.pkg.pins.vaux then s.send (.pldmEvent kind) else s

/-- The running firmware: one that has passed already, or the first bank that passes R458. -/
def State.fwReady (s : State) : Option State :=
  if vget s.pkg.sec.meas 1 ≠ zeros 48 then some s
  else if bit s.pkg.strapStat 2 then none
  else ((s.comp 0).banks.find? (fun b => b.1.ok && s.fwPasses b.1.img)).map (fun b => s.runFw b.1.img b.2)

/-- No firmware has passed R458 (R501). -/
def State.noFirmware (s : State) : State := (s.modSec (fun x => { x with bootFail := true })).bootFailure 0

/-- The boot ROM reads the UDS once after a cold reset and locks it (R457); the DeviceID and the key of the owner record come from it (R459, R468). -/
def State.readUds (s : State) : State :=
  if s.pkg.sec.udsLock then s
  else
    let u := s.pkg.fuses.uds
    s.modSec (fun x => { x with udsLock := true, romUds := some u, deviceId := Config.hkdf 0 u, ownerKey := Config.hkdf 4 u })

/-- MGMT (R499): the boot ROM derives the identity; `certOk` says whether the DeviceID certificates match it (R459). A flash boot takes the PKC firmware by R458, from which the Alias keys come, and fails where none passes (R501); a host boot waits for a push (R503). The always-on window answers. -/
def execMgmt (certOk : Bool) (s : State) : Res :=
  if s.pkg.pins.held ∨ s.pkg.level ≠ 0 then .next s
  else
    let s := (s.setMeas 0 Config.romDigest).readUds.measureFlash.modSec (fun x => { x with certFail := !certOk })
    let host := bit s.pkg.strapStat 2
    let s := (s.modPkg (fun p => { p with pcieUp := p.pins.perst, bootSt := if host then 1 else 0 })).setLevel 1
    .next (if host then s else (s.fwReady).getD s.noFirmware)

/-- The last part of EARLY: every stack has trained, or one has not (R499, R501). -/
def State.tierNTrained (s : State) (stack : Option (Fin 16)) : State :=
  match stack with
  | some k => (s.modPkg (fun p => { p with tnFail := true, failStack := BitVec.ofNat 4 k.val })).bootFailure 2
  | none =>
    let ver := (s.serdes.map (fun b => (Config.fwVersion b.img).toNat)).getD 0
    let s := s.modPkg (fun p =>
      { p with fuses := { p.fuses with svn := Nat.max p.fuses.svn p.sec.fwSvn.toNat }, fwVer := p.fwRun.setWidth 64 ||| put ver 32 32 })
    (s.trainLinks).setLevel 2

/-- EARLY (R499, R501): `stack` names a Tier N stack that has not trained. A boot that has failed stays at MGMT (R458, R501), but for a host boot that is pushed again (R503). -/
def execEarly (stack : Option (Fin 16)) (s : State) : Res :=
  if s.pkg.pins.held ∨ s.pkg.level ≠ 1 ∨ (s.pkg.sec.bootFail ∧ !bit s.pkg.strapStat 2) ∨ s.pkg.tnFail ∨ s.pkg.cfgFail then .next s
  else
    match s.fwReady with
    | none => if bit s.pkg.strapStat 2 then .next s else .next s.noFirmware
    | some s =>
      match s.boardRecord with
      | none => .next ((s.modPkg (fun p => { p with cfgFail := true })).bootFailure 1)
      | some r => .next ((s.applyRecord r).tierNTrained stack)

/-- Whether every enabled link is UP or FAILED (R409). -/
def State.linksSettled (s : State) : Bool :=
  (fins 72).all (fun l => !s.hasLink l || decide ((s.link l).st = .up ∨ (s.link l).st = .failed))

/-- FULL (R499 to R501): `tf` says whether every Tier F channel has trained. -/
def execFull (tf : Bool) (s : State) : Res :=
  if s.pkg.pins.held ∨ s.pkg.level ≠ 2 ∨ !s.linksSettled then .next s
  else
    let present := bit s.pkg.strapStat 6
    let good := tf && decide (fldN s.pkg.memCfg 5 3 ≠ 0)
    let s := if present && !good then (s.modPkg (fun p => { p with tfFail := true })).bootFailure 3 else s
    let up := (fins 72).any (fun l => s.hasLink l && decide ((s.link l).st = .up))
    .next ((s.modPkg (fun p => { p with tierF := present && good, railUp := up })).setLevel 3)

/-! ### Host boot (R503) -/

/-- BOOT_CTL.GO (R503): the ROM begins to check the pushed component (R504). -/
def State.bootGo (s : State) (len : BitVec 25) : State :=
  if s.pkg.bootSt ≠ 1 ∨ !bit s.pkg.strapStat 2 then s else s.modPkg (fun p => { p with bootLen := len, bootSt := 2 })

/-- The check of the pushed component ends (R458, R503): the firmware runs, or the check has failed. -/
def State.bootCheck (s : State) : State :=
  if s.pkg.bootSt ≠ 2 then s
  else
    let len := s.pkg.bootLen.toNat
    let img := s.pkg.bootWin.read 0 len
    if len ≤ 0x1000000 ∧ s.fwPasses img then (s.runFw img true).modPkg (fun p => { p with bootSt := 0 })
    else s.noFirmware.modPkg (fun p => { p with bootSt := 3 })

/-- BOOT_CTL with LEN and GO = 1 (R503). -/
def execBootPushGo (len : BitVec 25) (s : State) : Res :=
  if s.fnUp 0 then .next ((s.modPkg (fun p => { p with bootLen := len })).bootGo len) else .next s

/-- A millisecond after a failed check the ROM waits again (R503). -/
def execBootFailReturn (s : State) : Res := if s.pkg.bootSt = 3 then .next (s.modPkg (fun p => { p with bootSt := 1 })) else .next s

end Sys2Proof.Machine
end

