-- ==== Sys2Proof/Machine/Tick.lean ====
section
/-! DEFINITION. What one cycle of ACLK does by itself: the time counter, the cycle counters, the bandwidth regulators, the stall detector and the count that leads to Gated (R9, R27, R283, R330, R333, R484). -/

namespace Sys2Proof.Machine

/-- A token bucket gains 32 × RATE of its units of 1/256 byte and holds at most its depth (R283). -/
def Slot.refill (x : Slot) : Slot :=
  if x.rate = 0 then x else { x with bucket := Nat.min (65536 * (x.burst.toNat + 1)) (x.bucket + 32 * x.rate.toNat) }

/-- A core over one ACLK cycle: CYCLE counts CCLK cycles of a running core, in quarters (R27, R484). -/
def Core.tick (k : Core) : Core :=
  { k.watch with cycleQ := if k.pstate = .run ∧ !k.resetting then k.cycleQ + 5 * k.step else k.cycleQ, slots := k.slots.map Slot.refill }

/-- One ACLK cycle with no command: ACLK_TIME counts while VAUX stands (R9); the clocks of the cores run from EARLY on (R484, R500), and the links that carry cars fill their free slots (R389). -/
def State.tick (s : State) : State :=
  if s.pkg.pins.vaux then
    State.fillSlots { s with cores := if s.pkg.level.toNat ≥ 2 then s.cores.map (fun r => r.map Core.tick) else s.cores, pkg := { s.pkg with aclk := s.pkg.aclk + 1 } }
  else s

end Sys2Proof.Machine
end

