-- ==== Sys2Proof/Machine/Security.lean ====
section
/-! DEFINITION. The SPDM responder, the owner record, the debug unlock, the interfaces of the VFs and the partitions (R371, R461 to R475). -/

namespace Sys2Proof.Machine

/-! ### Requesters and sessions (R452, R458, R464) -/

/-- Whether a requester reaches the part: a function whose link is up, the sideband, or a Rail port; after a boot without firmware the sideband takes only an update (R458). -/
def State.spdmUp (s : State) (r : Requester) : Bool :=
  match r with
  | .doe f => s.fnUp f
  | .sideband => s.pkg.pins.vaux && !s.pkg.sec.bootFail
  | .rail p => (fins 72).any (fun l => decide (portOf l = p) && s.hasLink l)

/-- Answer a request. -/
def State.answer (s : State) (r : Requester) (ok : Bool) (data : List Byte) : State := s.send (.spdm r ok data)

/-- Whether a requester may send the vendor-defined requests: the PF's DOE or the sideband, in a secured session (R468, R475). -/
def State.vendorOk (s : State) (r : Requester) : Bool :=
  s.spdmUp r && s.pkg.sec.sessions.contains r && decide (r = .doe 0 ∨ r = .sideband)

/-- Whether debug is unlocked. -/
def State.dbg (s : State) : Bool := (s.pkg.sec.debug).isSome

/-! ### Identity (R457 to R459) -/

/-- The Alias key pairs in use: the locked ones, or after a debug unlock the debug ones (R459, R475). -/
def State.aliasKey (s : State) : List Byte := if s.dbg then s.pkg.sec.aliasDebug else s.pkg.sec.aliasLocked

/-! ### What the responder supports (R464) -/

/-- A capability of the responder. -/
inductive SpdmCap where
  | cert | chal | measSig | keyEx | mutAuth | encrypt | mac | keyUpd | hbeat
deriving DecidableEq, Repr

/-- An algorithm of the responder. -/
inductive SpdmAlg where
  | ecdsaP384 | sha384 | secp384r1 | aes256gcm
deriving DecidableEq, Repr

/-- The capabilities, and no others. -/
def spdmCaps : List SpdmCap := [.cert, .chal, .measSig, .keyEx, .mutAuth, .encrypt, .mac, .keyUpd, .hbeat]

/-- BaseAsymAlgo, BaseHashAlgo, DHE and AEAD, one choice each. -/
def spdmAlgs : List SpdmAlg := [.ecdsaP384, .sha384, .secp384r1, .aes256gcm]

/-- What every exchange has negotiated, as its transcript holds it: the capability set and the algorithms. -/
def spdmTerms : List Byte := spdmCaps.map (fun c => BitVec.ofNat 8 c.ctorIdx) ++ spdmAlgs.map (fun a => BitVec.ofNat 8 a.ctorIdx)

/-! ### Measurements (R461 to R465) -/

/-- Measurements 1 to 7, 48 bytes each (R461). -/
def State.measurement (s : State) (i : Nat) : List Byte :=
  let x := s.pkg.sec
  match i with
  | 1 => vget x.meas 0
  | 2 => vget x.meas 1
  | 3 => vget x.meas 2
  | 4 => vget x.meas 3
  | 5 => s.fwMeas
  | 6 => leBytes 48 s.dbg.toNat
  | _ => match s.owner with
    | some o => sha384 o.bytes
    | none => zeros 48

/-- The partition that a requester sees: its own for a VF, every one for the PF and the sideband (R465). -/
def reqSees (r : Requester) (n : Fin 8) : Bool :=
  match r with
  | .doe f => decide (f = 0 ∨ partOfVf f = some n)
  | .sideband => true
  | .rail _ => false

/-- The partition of a VF that asks; none for the PF and the sideband. -/
def reqOwn (r : Requester) : Option (Fin 8) :=
  match r with
  | .doe f => partOfVf f
  | _ => none

/-- A byte string made exactly `n` bytes long. -/
def exactly (n : Nat) (bs : List Byte) : List Byte := (bs ++ zeros n).take n

/-- The evidence record (R465). -/
def State.evidence (s : State) (r : Requester) (nonce : List Byte) : List Byte :=
  let own := reqOwn r
  let body := leBytes 4 0x31455645 ++ leBytes 1 ((own.map Fin.val).getD 0xFF) ++ leBytes 1 s.dbg.toNat ++ zeros 2 ++ exactly 32 nonce ++
    exactly 16 s.pkg.fuses.serial ++ ((List.range 7).flatMap (fun i => exactly 48 (s.measurement (i + 1)))) ++
    exactly 48 ((own.map (fun n => vget s.pkg.sec.pm n)).getD (zeros 48))
  body ++ exactly 96 (Config.ecSign s.aliasKey body) ++ exactly 4627 (Config.mlSign s.aliasKey body) ++ zeros 5

/-- The value of a measurement index for a requester (R461, R465). -/
def State.measureFor (s : State) (r : Requester) (idx : Byte) (nonce : List Byte) : Option (List Byte) :=
  let i := idx.toNat
  if 1 ≤ i ∧ i ≤ 7 then some (s.measurement i)
  else if h : 0x10 ≤ i ∧ i < 0x18 then
    (let n : Fin 8 := ⟨i - 0x10, by omega⟩
     if reqSees r n then some (vget s.pkg.sec.pm n) else none)
  else if i = 0xEF then some (s.evidence r nonce)
  else none

/-- GET_MEASUREMENTS (R465): the measurement, then the signature of the exchange. -/
def execGetMeasurements (r : Requester) (idx : Byte) (nonce : List Byte) (s : State) : Res :=
  if !s.spdmUp r then .next s
  else
    match s.measureFor r idx nonce with
    | some v => .next (s.answer r true (v ++ Config.spdmAnswer 0 (spdmTerms ++ s.aliasKey ++ v ++ nonce)))
    | none => .next (s.answer r false [])

/-- GET_CERTIFICATE (R464): slots 0 and 1; while debug is unlocked, the debug chains. -/
def execGetCertificate (r : Requester) (slot : Fin 8) (s : State) : Res :=
  if !s.spdmUp r then .next s
  else if slot.val ≤ 1 then .next (s.answer r true (Config.chain s.pkg.provision s.pkg.sec.deviceId s.aliasKey s.dbg slot.val)) else .next (s.answer r false [])

/-- CHALLENGE (R464). -/
def execChallenge (r : Requester) (nonce : List Byte) (s : State) : Res :=
  if !s.spdmUp r then .next s else .next (s.answer r true (Config.spdmAnswer 1 (spdmTerms ++ s.aliasKey ++ nonce)))

/-- A new session on a Rail port, or its refusal (R402, R469, R471): the keys of the port's links are gone, and the links that were UP take new ones; a link in RETRAIN does so once it has retrained. A lead counts a member as verified when its serial number is right too (R413). -/
def State.portSession (s : State) (p : Fin 18) (peer : BitVec 12) (ok serialOk : Bool) : State :=
  let s := (fins 72).foldl (fun s l =>
    if portOf l = p ∧ (s.link l).st = .up then s.modLink l Link.unkeyed
    else if portOf l = p ∧ (s.link l).st = .retrain then s.modLink l (fun k => { k.unkeyed with st := .retrain })
    else s) s
  let s := s.modPkg (fun q => { q with ports := vmod q.ports p (fun x => { x with session := ok, asked := false }) })
  if ok ∧ serialOk then (s.modMember peer (fun m => { m with verified := true })).tryJoin peer else s

/-- KEY_EXCHANGE (R464, R471): a secured session, under the Alias key of slot 0. On a Rail port the end with the lower part ID is the requester: a request of a peer with a higher ID is refused, and where this part has the lower ID the exchange answers its own request. A Rail peer is accepted when its chain ends in the Azverel root and its DEBUG reads 0; every peer refuses a part whose debug is unlocked (R475). -/
def execKeyExchange (r : Requester) (peer : BitVec 12) (rootOk : PeerChain) (debug : Bool) (s : State) : Res :=
  if !s.spdmUp r then .next s
  else
    match r with
    | .rail p =>
      if s.pkg.partId.toNat < peer.toNat ∧ !(vget s.pkg.ports p).asked then .next (s.answer r false [])
      else
      let ok := rootOk.root && !debug && !s.dbg
      .next ((s.portSession p peer ok rootOk.serial).answer r ok [])
    | _ =>
      let (x, s) := s.spend
      .next ((s.modSec (fun k =>
        { k with sessions := r :: k.sessions.filter (fun q => decide (q ≠ r)), nonceFor := if k.nonceFor = some r then none else k.nonceFor })).answer r true
        (Config.spdmAnswer 2 (spdmTerms ++ s.aliasKey ++ leBytes 8 x)))

/-! ### The owner record (R468) -/

/-- Write the owner record with its HMAC, or erase it. -/
def State.setOwnerRec (s : State) (o : Option Owner) : State := s.modSec (fun x => { x with owner := o.map (fun o => { o with mac := s.ownerMac o }) })

/-- SET_OWNER (R468). -/
def execSetOwner (r : Requester) (ec ml : List Byte) (s : State) : Res :=
  if !s.spdmUp r then .next s
  else if s.vendorOk r && s.owner.isNone && s.pkg.tasks.isEmpty then .next ((s.setOwnerRec (some ⟨ec, ml, false, []⟩)).answer r true [])
  else .next (s.answer r false [])

/-- An owner request (R468): accepted when both signatures of the current keys verify over the request, the serial and the nonce that the part issued, while no partition runs a task. A request that carries the nonce uses it up. -/
def State.ownerRequest (s : State) (r : Requester) (kind : Nat) (args : List Byte) (a : OwnerAuth) (f : Owner → Option Owner) : State :=
  if !s.vendorOk r then s.answer r false []
  else if s.pkg.sec.nonce ≠ some a.nonce then s.answer r false []
  else
    let s := s.modSec (fun x => { x with nonce := none, nonceFor := none })
    let m := Config.signedRequest kind (args ++ s.pkg.fuses.serial ++ a.nonce)
    match s.owner with
    | some o =>
      if Config.ecVerify o.ec m a.ecsig && Config.mlVerify o.ml m a.mlsig && s.pkg.tasks.isEmpty then (s.setOwnerRec (f o)).answer r true []
      else s.answer r false []
    | none => s.answer r false []

/-- CHANGE_OWNER (R468). -/
def execChangeOwner (r : Requester) (ec ml : List Byte) (a : OwnerAuth) (s : State) : Res :=
  if !s.spdmUp r then .next s else .next (s.ownerRequest r 0 (ec ++ ml) a (fun o => some { o with ec := ec, ml := ml }))

/-- SET_POLICY (R468). -/
def execSetPolicy (r : Requester) (only : Bool) (a : OwnerAuth) (s : State) : Res :=
  if !s.spdmUp r then .next s else .next (s.ownerRequest r 1 (leBytes 1 only.toNat) a (fun o => some { o with only := only }))

/-- CLEAR_OWNER (R468). -/
def execClearOwner (r : Requester) (a : OwnerAuth) (s : State) : Res :=
  if !s.spdmUp r then .next s else .next (s.ownerRequest r 2 [] a (fun _ => none))

/-! ### Debug (R474, R475) -/

/-- GET_DEBUG_NONCE (R475): a new nonce ends the one before, and belongs to the session that asked for it. -/
def execGetDebugNonce (r : Requester) (s : State) : Res :=
  if !s.spdmUp r then .next s
  else if s.vendorOk r then
    let (x, s) := s.spend
    let n := exactly 32 (Config.nonce x)
    .next ((s.modSec (fun k => { k with nonce := some n, nonceFor := some r })).answer r true n)
  else .next (s.answer r false [])

/-- Whether a token is good (R475): serial, nonce, scope, the fused keys and both signatures. -/
def State.tokenOk (s : State) (t : DbgToken) : Bool :=
  let m := Config.signedRequest 3 (leBytes 4 t.magic.toNat ++ t.serial ++ t.nonce ++ [t.scope])
  decide (t.magic = 0x31474244) && decide (t.serial = s.pkg.fuses.serial) && decide (s.pkg.sec.nonce = some t.nonce) && decide (t.scope.toNat ≤ 1) &&
    decide (sha384 t.ecpub = s.pkg.fuses.dbgEc ∧ sha384 t.mlpub = s.pkg.fuses.dbgMl) &&
    Config.ecVerify t.ecpub m t.ecsig && Config.mlVerify t.mlpub m t.mlsig

/-- Every Rail link enters KEYING without keys, and every port's session is gone (R475), for which the end with the lower part ID asks again; a link of a port that is not enabled stays DISABLED. -/
def State.railUnkey (s : State) : State :=
  let s := s.modPkg (fun p =>
    { p with
      links := p.links.map (fun k => if k.st = .disabled then k else k.unkeyed)
      ports := p.ports.map (fun x => { x with session := false, asked := false }) })
  (fins 72).foldl (fun s l => if (s.link l).st = .keying then s.askSession l (s.link l).peer else s) s

/-- Step 1 of a debug unlock (R475): every task is aborted, and every locked or running interface enters ERROR. -/
def State.debugAbort (s : State) : State := (fins 8).foldl (fun s n => (s.abortTask n).tdiError n) s

/-- Steps 2 to 5 of a debug unlock (R475): every partition key, IDE key and Rail link key is destroyed, the locked Alias keys are erased and the debug ones take over, and the port opens in the token's scope. -/
def State.debugOpen (s : State) (scope : Byte) : State :=
  let s := (fins 8).foldl (fun s n => s.destroyMemKeys n) s
  let s := (fins 9).foldl (fun s f => s.ideDrop f) s
  s.railUnkey.modSec (fun x => { x with debug := some scope, aliasLocked := [] })

/-- The VF of partition `n`. -/
def vfFn (n : Fin 8) : Fin 9 := ⟨n.val + 1, by omega⟩

/-- A STOP_INTERFACE_REQUEST whose task has ended (R472): the memory keys are destroyed, the partition is created anew, and the interface is unlocked. -/
def State.stopDone (s : State) (n : Fin 8) : State :=
  let s := s.destroyMemKeys n
  let s := if partEn (s.partMem n) then s.createPart n (s.partMem n) else s
  ((s.modSec (fun k => { k with stopping := setBit k.stopping n.val false })).setTdi n .unlocked).answer (.doe (vfFn n)) true []

/-- What the security firmware has to finish (R469, R470, R472, R475): the destruction of keys that waits for outstanding accesses, with the ERROR state and the answer to a K_SET_STOP that follow it, a STOP_INTERFACE_REQUEST and a debug unlock that wait for tasks to end. -/
def State.settleSec (s : State) : State :=
  let s := (fins 8).foldl (fun s n => if s.pkg.sec.dying.getLsbD n.val ∧ s.noAccess n then s.tdiFail n else s) s
  let gone (f : Fin 9) : Bool := (partOfVf f).all (fun n => !s.pkg.sec.dying.getLsbD n.val)
  let s := (s.pkg.sec.kstops.filter gone).foldl (fun s f => s.answer (.doe f) true []) (s.modSec (fun x => { x with kstops := x.kstops.filter (fun f => !gone f) }))
  let s := (fins 8).foldl (fun s n => if s.pkg.sec.stopping.getLsbD n.val ∧ !s.busyPart n then s.stopDone n else s) s
  match s.pkg.sec.unlock with
  | some (r, scope) =>
    if s.pkg.tasks.isEmpty ∧ s.pkg.loads.isEmpty then ((s.modSec (fun x => { x with unlock := none })).debugOpen scope).answer r true [] else s
  | none => s

/-- What happens with no command: one ACLK cycle passes, transfers that waited for room on the host link are sent, the security firmware finishes what nothing holds up any more, and the boot ROM finishes its check of a pushed component. -/
def State.idle (s : State) : State := s.tick.npWake.settleSec.bootCheck

/-- UNLOCK_DEBUG (R475): a token is valid once, in the session of its nonce; the answer follows the last step. -/
def execUnlockDebug (r : Requester) (t : DbgToken) (s : State) : Res :=
  if !s.spdmUp r then .next s
  else if s.vendorOk r && s.tokenOk t && decide (s.pkg.sec.nonceFor = some r) then
    .next ((s.modSec (fun x => { x with nonce := none, nonceFor := none })).debugAbort.modSec (fun x => { x with unlock := some (r, t.scope) })).settleSec
  else .next (s.answer r false [])

/-- DEBUG_PORT_ACCESS (R474, R475): locked, the port answers only with its identification code; unlocked, within the token's scope. VAUX powers it: without VAUX nothing drives TDO (R543, R545). -/
def execDebugPortAccess (a : DbgAccess) (s : State) : Res :=
  let granted := match a, s.pkg.sec.debug with
    | .ident, _ => true
    | .regs, some _ => true
    | .memory, some scope => decide (scope = 1)
    | _, none => false
  if s.pkg.pins.vaux then .next (s.send (.debug granted)) else .next s

/-! ### Interfaces of the VFs (R471, R472) -/

/-- The common frame of a TDISP request: the VF exists and its link is up; a request that is not allowed, or that finds the interface on its way to ERROR, is refused. -/
def State.tdisp (s : State) (n : Fin 8) (ok : Bool) (f : State → State) (data : State → List Byte) : Res :=
  let r := Requester.doe (vfFn n)
  if !s.spdmUp r then .next s
  else if ok && !s.pkg.sec.dying.getLsbD n.val then (let s := f s; .next (s.answer r true (data s)))
  else .next (s.answer r false [])

/-- LOCK_INTERFACE (R472). -/
def execLockInterface (n : Fin 8) (nonce : List Byte) (s : State) : Res :=
  let h := s.fn (vfFn n)
  s.tdisp n (decide (s.tdi n = .unlocked ∧ h.ide = .secure) && !s.dbg && !s.busyPart n)
    (fun s => (s.extendPm n (exactly 64 (Config.lockRecord (s.partMem n) h.bar2 h.apBase.toNat nonce))).setTdi n .locked) (fun _ => [])

/-- GET_DEVICE_INTERFACE_REPORT (R472): the MMIO ranges of BAR0 and BAR2, the partition number, PM_n and the serial number. -/
def execGetDeviceInterfaceReport (n : Fin 8) (s : State) : Res :=
  s.tdisp n (decide (s.tdi n = .locked ∨ s.tdi n = .run)) id
    (fun s => leBytes 8 0x400000 ++ leBytes 8 (2 ^ (s.fn (vfFn n)).bar2) ++ leBytes 1 n.val ++ exactly 48 (vget s.pkg.sec.pm n) ++
      exactly 16 s.pkg.fuses.serial)

/-- START_INTERFACE_REQUEST (R472). -/
def execStartInterfaceRequest (n : Fin 8) (s : State) : Res :=
  s.tdisp n (decide (s.tdi n = .locked)) (fun s => s.setTdi n .run) (fun _ => [])

/-- STOP_INTERFACE_REQUEST (R472): the task is aborted; once it has ended the partition is re-created by R470 and the interface unlocked. -/
def execStopInterfaceRequest (n : Fin 8) (s : State) : Res :=
  if !s.spdmUp (.doe (vfFn n)) then .next s
  else .next ((s.abortTask n).modSec (fun k => { k with stopping := setBit k.stopping n.val true })).settleSec

/-- KEY_PROG (R469, R471), in a secured session on the function's DOE. -/
def execKeyProg (f : Fin 9) (s : State) : Res :=
  let r := Requester.doe f
  if !s.spdmUp r then .next s
  else if s.pkg.sec.sessions.contains r then
    .next ((s.modFn f (fun h => { h with ide := if h.ide = .none then .keyed else h.ide })).answer r true [])
  else .next (s.answer r false [])

/-- K_SET_STOP (R469, R472): the answer follows the destruction of every key that goes with it. -/
def execKSetStop (f : Fin 9) (s : State) : Res :=
  let r := Requester.doe f
  if !s.spdmUp r then .next s
  else if s.pkg.sec.sessions.contains r then
    let s := s.ideDrop f
    if (partOfVf f).any (fun n => s.pkg.sec.dying.getLsbD n.val) then .next (s.modSec (fun x => { x with kstops := x.kstops ++ [f] }))
    else .next (s.answer r true [])
  else .next (s.answer r false [])

/-! ### Partitions (R371, R470, R473) -/

/-- Whether PARTn_MEM may take a value: no task, no locked interface, no overlap with another enabled partition. -/
def State.partMay (s : State) (n : Fin 8) (w : Word) : Bool :=
  !s.busyPart n && !s.guarded n && (fins 8).all (fun m => decide (m = n) || !partOverlap w (s.partMem m))

/-- PARTITION_CREATE (R371, R470): the security firmware writes PARTn_MEM. EN from 0 to 1 creates the partition under new keys, and from 1 to 0 destroys them (R469); EN that stays 1 keeps live keys, and a line that changes its range changes its key pair (R381). -/
def execPartitionCreate (n : Fin 8) (w : Word) (s : State) : Res :=
  let w := (fld w 0 53).setWidth 64
  if s.pkg.level.toNat < 2 ∨ !s.partMay n w then .next s
  else if partEn w ∧ partEn (s.partMem n) ∧ s.pkg.sec.keys.getLsbD n.val then
    .next ((s.rekeyLines (s.partMem n) w).modPkg (fun p => { p with partMem := vset p.partMem n w }))
  else if partEn w then .next ((s.closePart n).createPart n w)
  else .next ((s.closePart n).modPkg (fun p => { p with partMem := vset p.partMem n w }))

end Sys2Proof.Machine
end

