-- ==== Sys2Proof/Machine/Mgmt.lean ====
section
/-! DEFINITION. The management sideband: sensors, the effecter, the FRU record, firmware updates and the addresses (R452 to R455). -/

namespace Sys2Proof.Machine

/-! ### Sensors and the cap (R453) -/

/-- Whether the VIN domain has power, as the sensors that need VIN see it. -/
def State.vinOn (s : State) : Bool := s.pkg.pins.vin && s.pkg.pins.pwrOk

/-- The reading of a sensor, in units of its resolution, and whether it needs VIN: the register or field that holds it, else the value measured. -/
def State.sensor (s : State) (id v : Nat) : Option (Nat × Bool) :=
  if id = 0x01 then some (fldN s.pkg.pow.meas 0 16, true)
  else if id = 0x02 then some (fldN s.pkg.pow.meas 16 16, true)
  else if id = 0x03 then some (fldN s.pkg.pow.meas 32 16, true)
  else if id = 0x04 ∨ id = 0x05 then some (v, false)
  else if id = 0x06 then some (s.pkg.pow.cap.toNat, false)
  else if h : 0x10 ≤ id ∧ id < 0x18 then
    (if id - 0x10 < s.dieCount then some ((s.die ⟨id - 0x10, by omega⟩).temp.toNat, true) else none)
  else if 0x20 ≤ id ∧ id < 0x20 + 2 * s.dieCount then some (v, true)
  else none

/-- Whether the sideband takes a request: it is powered, and a boot without firmware accepts only an update (R452, R458). -/
def State.sidebandOk (s : State) : Bool := s.pkg.pins.vaux && !s.pkg.sec.bootFail

/-- A numeric PDR (R453): identifier, unit, resolution in thousandths of the unit, update time in milliseconds (none: on change), whether it needs VIN, and the upper warning and critical thresholds in its resolution. -/
structure Pdr where
  id : Nat
  unit : String
  res : Nat
  update : Option Nat
  needsVin : Bool
  warn : Option Nat
  crit : Option Nat
deriving DecidableEq, Repr

/-- The numeric PDRs that the part publishes (R453). -/
def State.pdrs (s : State) : List Pdr :=
  [⟨0x01, "V", 1, some 1, true, none, none⟩, ⟨0x02, "A", 100, some 1, true, none, none⟩, ⟨0x03, "W", 100, some 1, true, none, none⟩,
    ⟨0x04, "W", 10, some 100, false, none, none⟩, ⟨0x05, "C", 250, some 100, false, none, none⟩, ⟨0x06, "%", 1000, none, false, none, none⟩] ++
  (List.range s.dieCount).map (fun d => ⟨0x10 + d, "C", 250, some 1, true, some 400, some 420⟩) ++
  (List.range (2 * s.dieCount)).map (fun k => ⟨0x20 + k, "C", 250, some 10, true, none, none⟩) ++
  [⟨0x80, "%", 1000, none, false, none, none⟩]

/-- The present state of a reading against the thresholds of its sensor (R453). PRESUMED (DSP0248): 1 normal, 8 upper warning, 9 upper critical. -/
def State.presentState (s : State) (id x : Nat) : Nat :=
  match s.pdrs.find? (fun p => decide (p.id = id)) with
  | some p =>
    if p.crit.any (fun t => decide (t ≤ x)) then 9 else if p.warn.any (fun t => decide (t ≤ x)) then 8 else 1
  | none => 1

/-- PLDM_GET_SENSOR_READING (R453): the operational state, the present state and the reading. PRESUMED (DSP0248): the operational state is 0 enabled or 2 unavailable, and an unknown sensor completes with 0x80. -/
def execPldmGetSensorReading (id : Byte) (v : Nat) (s : State) : Res :=
  if !s.sidebandOk then .next s
  else
    match s.sensor id.toNat v with
    | some (x, needsVin) =>
      if needsVin ∧ !s.vinOn then .next (s.send (.pldm 0 (leBytes 1 2 ++ zeros 5)))
      else .next (s.send (.pldm 0 (leBytes 1 0 ++ leBytes 1 (s.presentState id.toNat x) ++ leBytes 4 x)))
    | none => .next (s.send (.pldm 0x80 []))

/-- PLDM_SET_EFFECTER (R453): effecter 0x80 sets the programmed cap. PRESUMED (DSP0240): ERROR_INVALID_DATA is 0x02. -/
def execPldmSetEffecter (v : Nat) (s : State) : Res :=
  if !s.sidebandOk then .next s
  else if 55 ≤ v ∧ v ≤ 100 then .next ((s.capWrite v).send (.pldm 0 [])) else .next (s.send (.pldm 2 []))

/-! ### FRU (R454) -/

/-- The bytes of a name. -/
def nameBytes (n : String) : List Byte := n.toList.map (fun c => BitVec.ofNat 8 c.toNat)

/-- The product name. -/
def State.product (s : State) : String := match s.pkg.fuses.variant with | 0 => "LDP-820" | 1 => "LDP-840" | 2 => "LDP-880"

/-- PLDM_GET_FRU_RECORD (R454): its items in the order that the rule gives. -/
def execPldmGetFruRecord (s : State) : Res :=
  if !s.sidebandOk then .next s
  else
    let n := s.dieCount
    let w := s.pkg.memCfg
    let ver (b : Bank) : List Byte := leBytes 4 (Config.fwVersion b.img).toNat
    .next (s.send (.pldm 0 (nameBytes "Azverel" ++ nameBytes s.product ++ exactly 16 s.pkg.fuses.serial ++ leBytes 1 n ++ leBytes 1 (2 * n) ++
      leBytes 4 (2 * n * 48) ++ leBytes 4 (fldN w 13 5 * tfCapGib (fldN w 5 3)) ++ leBytes 1 (fldN w 3 2) ++
      s.pkg.flash.toList.flatMap (fun c => ver c.a ++ ver c.b))))

/-! ### Firmware update (R455) -/

/-- A change of the state of a firmware update: vector 5 (R531). -/
def State.fwEvent (s : State) : State := s.pfEvent 5 5

/-- Whether a component can be updated now: the PKC firmware of a host boot cannot; without firmware, nothing else can (R455, R458). -/
def State.updatable (s : State) (id : Fin 3) : Bool :=
  if id = 0 then !bit s.pkg.strapStat 2 else !s.pkg.sec.bootFail

/-- A component with an image written into its inactive bank. -/
def Component.update (c : Component) (img : List Byte) (ok : Bool) : Component :=
  let b : Bank := ⟨img, ok⟩
  if c.useB then { c with a := b, verified := ok, pend := false } else { c with b := b, verified := ok, pend := false }

/-- Bytes of the flash area of one bank of a component (R551). -/
def areaBytes (id : Fin 3) : Nat := match id with | 0 => 0x1000000 | 1 => 0x400000 | 2 => 0x10000

/-- PLDM_UPDATE_COMPONENT (R455): the inactive bank is written and verified; one that fails is marked invalid. An image that does not fit its area is not written (R551). -/
def execPldmUpdateComponent (id : Fin 3) (img : List Byte) (s : State) : Res :=
  if !s.pkg.pins.vaux then .next s
  else if !s.updatable id ∨ areaBytes id < img.length then .next (s.send (.pldm 1 []))
  else
    let ok := if id = 0 then s.fwPasses img else s.compSigned img
    let s := s.modPkg (fun p => { p with flash := vmod p.flash id (fun c => c.update img ok) })
    .next (s.fwEvent.send (.pldm (if ok then 0 else 1) []))

/-- PLDM_ACTIVATE_FIRMWARE (R455): verified components await the next reset; the benchmark digest is computed again (R429). -/
def execPldmActivateFirmware (s : State) : Res :=
  if !s.pkg.pins.vaux then .next s
  else if s.pkg.flash.toList.any (fun c => c.verified) then
    let s := s.modPkg (fun p => { p with flash := p.flash.map (fun c => { c with pend := c.pend || c.verified }) })
    .next ((s.fwEvent.refreshDigest).send (.pldm 0 []))
  else .next (s.send (.pldm 1 []))

/-! ### Addresses (R452) -/

/-- SET_ENDPOINT_ID (R452). -/
def execSetEndpointId (eid : Byte) (s : State) : Res := if s.pkg.pins.vaux then .next (s.modPkg (fun p => { p with eid := eid })) else .next s

/-- The static address of the part as an SMBus target (R452). -/
def staticAddr : BitVec 7 := 0x62

/-- The address at which the part answers on the sideband: the dynamic one as an I3C target, else the static one (R452). -/
def Pkg.mctpAddr (p : Pkg) : BitVec 7 := if p.i3c then p.dynAddr else staticAddr

/-- The part becomes an I3C target at a dynamic address. -/
def State.i3cTarget (s : State) (addr : BitVec 7) : State :=
  if s.pkg.pins.vaux then s.modPkg (fun p => { p with i3c := true, dynAddr := addr }) else s

/-- ENTDAA (R452). -/
def execEntdaa (addr : BitVec 7) (s : State) : Res := .next (s.i3cTarget addr)

/-- SETDASA (R452): the part takes it at its static address 0x62. -/
def execSetdasa (addr : Dasa) (s : State) : Res := if addr.static = staticAddr then .next (s.i3cTarget addr.dyn) else .next s

/-- RSTDAA: the part is an SMBus target at 0x62 again (R452). -/
def execRstdaa (s : State) : Res := if s.pkg.pins.vaux then .next (s.modPkg (fun p => { p with i3c := false, dynAddr := 0 })) else .next s

end Sys2Proof.Machine
end

