-- ==== Sys2Proof/Machine/HostReg.lean ====
section
/-! DEFINITION. What the host reads and writes through BAR0 and the PCIe configuration: the package registers, the function pages, the windows of dies and cores (R8, R435 to R443, R473, R488, R504, R523 to R536). -/

namespace Sys2Proof.Machine

/-! ### The package register block (R528): what each register reads -/

/-- Word `w` of a value that spans words. -/
def wordOf {n : Nat} (v : BitVec n) (w : Nat) : Word := fld v (64 * w) 64

/-- Eight bytes as a register holds them, byte 0 in bits [7:0]. -/
def wordBytes (bs : List Byte) (k : Nat) : Word := BitVec.ofNat 64 (ofLE ((bs.drop (8 * k)).take 8))

/-- ID_DEV. -/
def State.idDev (s : State) : Word :=
  put s.pkg.fuses.vendor.toNat 0 16 ||| put ([0x0820, 0x0840, 0x0880].getD s.pkg.fuses.variant.val 0) 16 16 ||| put s.pkg.fuses.stepping.toNat 32 8

/-- Whether the 1.0 GHz limit of R492 binds: cores can run, and SERVICE_LEVEL reads below 3. -/
def Pkg.capEarly (p : Pkg) : Bool := decide (0 < p.level.toNat ∧ p.level.toNat < 3)

/-- SERVICE_LEVEL. -/
def Pkg.serviceLevel (p : Pkg) : Word :=
  put p.level.toNat 0 2 ||| put p.tnFail.toNat 2 1 ||| put p.failStack.toNat 3 4 ||| put p.tfFail.toNat 7 1 ||| put p.cfgFail.toNat 8 1 |||
    put p.capEarly.toNat 9 1

/-- RST_CTL. -/
def Pkg.rstCtl (p : Pkg) : Word :=
  put p.rstDie.toNat 8 8 ||| put p.rstCore.toNat 16 7 ||| put p.rstGo.toNat 23 1 ||| put p.rstRefused.toNat 24 1

/-- BOOT_CTL. -/
def Pkg.bootCtl (p : Pkg) : Word := put p.bootLen.toNat 0 25 ||| put p.bootSt.toNat 26 2

/-- INT_STAT: FAULT is the OR of INT_FAULT. -/
def Pkg.intStatWord (p : Pkg) : Word := setBit ((p.intStat).setWidth 64) 2 (decide (p.intFault ≠ 0))

/-- PWR_STAT. -/
def Pkg.pwrStat (p : Pkg) : Word :=
  let w := p.pow
  put w.sag.toNat 0 1 ||| put w.halved.toNat 1 1 ||| put w.power.toNat 2 1 ||| put w.current.toNat 3 1 |||
    put p.capEarly.toNat 4 1 ||| put w.therm.toNat 8 8 ||| put w.hot.toNat 16 8 ||| put w.sagCount.toNat 32 16

/-- The code of an interface's state. -/
def TdiSt.code : TdiSt → Nat
  | .unlocked => 0 | .locked => 1 | .run => 2 | .error => 3

/-- SEC_STAT. -/
def State.secStat (s : State) : Word :=
  let p := s.pkg
  let x := p.sec
  put x.bankB.toNat 0 1 ||| put (x.bootFail || x.certFail).toNat 1 1 ||| put x.fwSvn.toNat 2 8 ||| put p.fuses.svn 10 7 ||| put s.owner.isSome.toNat 17 1 |||
    put ((s.owner.map Owner.only).getD false).toNat 18 1 ||| put (x.debug).isSome.toNat 19 1 ||| put x.keys.toNat 20 8 |||
    put ((fins 8).foldl (fun n i => n + (vget x.tdi i).code * 4 ^ i.val) 0) 28 16

/-- HEALTH. -/
def Pkg.health (p : Pkg) : Word := put p.healthFatal.toNat 0 1 ||| put p.healthReason.toNat 8 8 ||| put p.uncTotal.toNat 16 16

/-- A word of PKC_FREC: record j lies at slot j mod 256 (R515). -/
def Pkg.frec (p : Pkg) (o : Nat) : Word :=
  let slot := o / 64
  let age := (p.pkcCount.toNat + 255 - slot) % 256
  if age < p.pkcRecs.length then wordBytes (p.pkcRecs.getD age []) (o % 64 / 8) else 0

/-- The code of a link's state. -/
def LinkSt.code : LinkSt → Nat
  | .disabled => 0 | .training => 1 | .keying => 2 | .up => 3 | .retrain => 4 | .failed => 5

/-- RAIL_LINKn_STAT. -/
def Link.stat (k : Link) : Word := put k.st.code 0 3 ||| put k.slow.toNat 3 1 ||| put k.peer.toNat 4 12 ||| put k.peerLink.toNat 16 8

/-- RAIL_LINKn_CNT. -/
def Link.cnt (k : Link) : Word := put k.replays.toNat 0 16 ||| put k.fecUnc.toNat 16 16 ||| put k.auth.toNat 32 16 ||| put k.badCar.toNat 48 16

/-- RAIL_PORTn. -/
def Port.reg (p : Port) : Word := put p.en.toNat 0 1 ||| put p.split.toNat 1 2 ||| put p.rate.toNat 3 1

/-- The code of a group's state. -/
def GrpSt.code : GrpSt → Nat
  | .standalone => 0 | .forming => 1 | .running => 2 | .remapping => 3 | .orphan => 4

/-- The code of a member's state. -/
def MemSt.code : MemSt → Nat
  | .joining => 1 | .active => 2 | .spare => 3 | .excluded => 4

/-- GRP_CFG. -/
def Group.cfg (g : Group) : Word :=
  put g.role.toNat 0 2 ||| put g.strapErr.toNat 2 1 ||| put g.part.val 3 3 ||| put g.lead.toNat 6 12 ||| put g.surveyMs.toNat 18 16 |||
    put g.upper.toNat 34 1 ||| put g.topLead.toNat 35 12

/-- GRP_STAT: the counts of members are a lead's. -/
def Group.stat (g : Group) : Word :=
  let n (t : MemSt) : Nat := if g.role = 2 then (g.members.filter (fun m => decide (m.st = t))).length else 0
  put g.st.code 0 3 ||| put (n .active) 3 7 ||| put (n .spare) 10 7 ||| put g.cons.toNat 17 1 ||| put g.surveyFail.toNat 32 16 ||| put g.stale.toNat 48 16

/-- GRP_MEMBERn of a lead. -/
def Group.member (g : Group) (n : Nat) : Word :=
  match g.members[n]? with
  | some m =>
    put m.part.toNat 0 12 ||| put m.st.code 12 3 ||| put ((g.job.map (fun j => slotsOf j.map m.part)).getD 0) 15 7 ||| put m.miss 22 2
  | none => 0

/-- A register of the always-on window as function `f` reads it (R525, R528). -/
def State.aoRead (s : State) (f : Fin 9) (o : Nat) : Word :=
  let p := s.pkg
  if o % 8 ≠ 0 then 0
  else if o = 0x0000 then s.idDev
  else if o = 0x0008 then wordBytes p.fuses.serial 0
  else if o = 0x0010 then wordBytes p.fuses.serial 1
  else if o = 0x0018 then p.fwVer
  else if o = 0x0020 then p.aclk
  else if o = 0x0028 then put p.regSeq.toNat 0 32
  else if o = 0x0100 then capIsa
  else if o = 0x0108 then s.capFeatures f
  else if o = 0x0110 then s.capPart
  else if 0x0140 ≤ o ∧ o < 0x0180 then (if h : (o - 0x0140) / 8 < 8 then (if (o - 0x0140) / 8 < s.dieCount then s.sidingWord ⟨(o - 0x0140) / 8, h⟩ else 0) else 0)
  else if o = 0x0200 then p.serviceLevel
  else if o = 0x0208 then (p.strapStat).setWidth 64
  else if o = 0x0210 then p.causeWord
  else if o = 0x0218 then (if f = 0 then p.rstCtl else 0)
  else if o = 0x0220 then (if f = 0 then p.bootCtl else 0)
  else if o = 0x0300 then p.intStatWord
  else if o = 0x0308 then (p.intFault).setWidth 64
  else if o = 0x0400 then (p.pow.cap).setWidth 64
  else if o = 0x0408 then p.pwrStat
  else if o = 0x0410 then p.pow.meas
  else if o = 0x0500 then s.secStat
  else if 0x0600 ≤ o ∧ o < 0x0780 then
    let n := (o - 0x0600) / 0x30
    if f = 0 ∨ f.val = n + 1 then wordBytes (vgetN p.sec.pm n []) ((o - 0x0600) % 0x30 / 8) else 0
  else if o = 0x0800 then p.health
  else if o = 0x0810 then put p.pkcCount.toNat 0 32
  else if 0xC000 ≤ o ∧ o < 0x10000 then (if f = 0 then p.frec (o - 0xC000) else 0)
  else 0

/-- A package register outside the always-on window, as the PF reads it: all ones below EARLY (R441, R528). -/
def State.pkgRead (s : State) (o : Nat) : Word :=
  let p := s.pkg
  if o < 0x10000 then s.aoRead 0 o
  else if p.level.toNat < 2 then BitVec.allOnes 64
  else if o % 8 ≠ 0 then 0
  else if o = 0x10000 then p.memCfg
  else if o = 0x10008 then p.eccNext
  else if 0x10100 ≤ o ∧ o < 0x10140 then vgetN p.partMem ((o - 0x10100) / 8) 0
  else if o = 0x10200 then (p.barXpart).setWidth 64
  else if o = 0x20000 then p.railCfg
  else if o = 0x20008 then (p.partId).setWidth 64
  else if o = 0x20010 then (p.epoch).setWidth 64
  else if o = 0x20018 then p.torus
  else if o = 0x20020 then put p.epochDrop.toNat 0 32 ||| put p.late.toNat 32 16
  else if 0x20100 ≤ o ∧ o < 0x20190 then
    (if (o - 0x20100) / 8 < s.portCount then (vgetN p.ports ((o - 0x20100) / 8) ⟨false, 0, false, false, false⟩).reg else 0)
  else if 0x20400 ≤ o ∧ o < 0x20880 then
    let n := (o - 0x20400) / 0x10
    let k := vgetN p.links n Link.reset
    if n / 4 < s.portCount then (if o % 0x10 = 0 then k.stat else k.cnt) else 0
  else if 0x21000 ≤ o ∧ o < 0x22000 then wordOf (vgetN p.mcg ((o - 0x21000) / 0x10) 0) ((o - 0x21000) % 0x10 / 8)
  else if 0x22000 ≤ o ∧ o < 0x22800 then wordOf (vgetN p.rdctx ((o - 0x22000) / 0x20) 0) ((o - 0x22000) % 0x20 / 8)
  else if 0x30000 ≤ o ∧ o < 0x38000 then (s.gazEntry (BitVec.ofNat 12 ((o - 0x30000) / 8))).setWidth 64
  else if o = 0x40000 then p.grp.cfg
  else if o = 0x40008 then p.grp.stat
  else if 0x40020 ≤ o ∧ o < 0x40040 then wordBytes (beBytes 32 p.grp.digest.toNat) ((o - 0x40020) / 8)
  else if 0x40100 ≤ o ∧ o < 0x40300 then p.grp.member ((o - 0x40100) / 8)
  else 0

/-! ### The function page (R443): what each register reads -/

/-- RING_CFG. -/
def HostFn.ringCfg (h : HostFn) : Word := put h.sqSize.toNat 0 4 ||| put h.sqEn.toNat 4 1 ||| put h.cqSize.toNat 8 4 ||| put h.cqEn.toNat 12 1

/-- FN_STAT. -/
def HostFn.stat (h : HostFn) : Word :=
  put h.sqHead.toNat 0 12 ||| put h.cqTail.toNat 12 12 ||| put h.phase.toNat 24 1 ||| put h.ringErr.toNat 25 1 ||| put h.bounds.toNat 32 16 |||
    put h.badwr.toNat 48 16

/-- A word of a function page; the doorbells are write-only. -/
def HostFn.pageRead (h : HostFn) (f : Fin 9) (o : Nat) : Word :=
  if o % 8 ≠ 0 then 0
  else if o = 0x000 then put h.sqBase.toNat 12 52
  else if o = 0x008 then put h.cqBase.toNat 12 52
  else if o = 0x010 then h.ringCfg
  else if o = 0x028 then put h.vector.toNat 0 7 ||| put h.ithresh.toNat 8 8 ||| put h.itime.toNat 16 16
  else if o = 0x030 then h.stat
  else if o = 0x038 then put h.apBase.toNat 30 18
  else if o = 0x100 ∨ o = 0x108 then wordOf h.msixPend ((o - 0x100) / 8)
  else if 0x800 ≤ o ∧ o < 0x1000 then
    let v := (o - 0x800) / 16
    if v ≥ vectorCount f then 0
    else
      let e := vgetN h.msixTab v (0, 0)
      if o % 16 = 0 then e.1 else put e.2.toNat 0 32 ||| put (h.msixMask.getLsbD v).toNat 32 1
  else 0

/-! ### Writes to the package registers -/

/-- Clear the bits of a field that a write of ones names (R8). -/
def w1c {n : Nat} (v : BitVec n) (w : Word) : BitVec n := v &&& ~~~(w.setWidth n)

/-- RST_CTL (R495, R497, R498, R504): REFUSED clears first; a warm reset absorbs the requests of the same write. CORE may be written while a core reset runs, which keeps its own core. -/
def State.rstCtlWrite (s : State) (v : Word) : State :=
  let s := if bit v 24 then s.modPkg (fun p => { p with rstRefused := false }) else s
  let s := s.modPkg (fun p => { p with rstCore := fld v 16 7 })
  if bit v 0 then (if s.pkg.level = 0 then s else s.warmReset)
  else
    let s := (fins 8).foldl (fun s d => if bit v (8 + d.val) then s.dieReq d else s) s
    if bit v 23 then s.coreReq (coreOfPkg (fldN v 16 7)) else s

/-- BOOT_CTL (R503, R504). -/
def State.bootCtlWrite (s : State) (v : Word) : State :=
  let s := s.modPkg (fun p => { p with bootLen := fld v 0 25 })
  if bit v 25 then s.bootGo (fld v 0 25) else s

/-- A write of 8 bytes to a package register by the PF; a register without a writable field ignores it (R8, R525). -/
def State.pkgWrite (s : State) (o : Nat) (v : Word) : State :=
  if o = 0x0210 then s.modPkg (fun p => { p with rstCause := w1c p.rstCause v })
  else if o = 0x0218 then s.rstCtlWrite v
  else if o = 0x0220 then s.bootCtlWrite v
  else if o = 0x0300 then s.modPkg (fun p => { p with intStat := w1c p.intStat (setBit v 2 false) })
  else if o = 0x0308 then s.modPkg (fun p => { p with intFault := w1c p.intFault v })
  else if o = 0x0400 then s.capWrite (fldN v 0 7)
  else if o = 0x10200 ∧ s.pkg.level.toNat ≥ 2 then s.modPkg (fun p => { p with barXpart := fld v 0 8 })
  else if o = 0x10008 ∧ s.pkg.level.toNat ≥ 2 then s.modPkg (fun p => { p with eccNext := (fld v 0 32).setWidth 64 })
  else s

/-- Whether a register stands at a package offset (R528). -/
def pkgNamed (o : Nat) : Bool :=
  let o := o / 8 * 8
  [0x0000, 0x0008, 0x0010, 0x0018, 0x0020, 0x0028, 0x0100, 0x0108, 0x0110, 0x0200, 0x0208, 0x0210, 0x0218, 0x0220, 0x0300, 0x0308, 0x0400, 0x0408,
    0x0410, 0x0500, 0x0800, 0x0810, 0x10000, 0x10008, 0x10200, 0x20000, 0x20008, 0x20010, 0x20018, 0x20020, 0x40000, 0x40008].contains o ||
    [(0x0140, 0x0180), (0x0600, 0x0780), (0xC000, 0x10000), (0x10100, 0x10140), (0x20100, 0x20190), (0x20400, 0x20880), (0x21000, 0x22800),
      (0x30000, 0x38000), (0x40020, 0x40040), (0x40100, 0x40300)].any (fun r => decide (r.1 ≤ o ∧ o < r.2))

/-! ### Writes to a function page -/

/-- A write to an MSI-X table entry (R451); a mask that clears sends the pending message. -/
def State.msixWrite (s : State) (f : Fin 9) (o size : Nat) (v : Word) : State :=
  let i := (o - 0x800) / 16
  if h : i < 128 then
    let n : Fin 128 := ⟨i, h⟩
    let old := vget (s.fn f).msixTab n
    let control (s : State) (x : Word) : State :=
      if bit x 0 then s.modFn f (fun k => { k with msixMask := setBit k.msixMask i true }) else s.unmask f i
    let put' (e : Word × BitVec 32) : State := s.modFn f (fun k => { k with msixTab := vset k.msixTab n e })
    match o % 16, size with
    | 0, 8 => put' (v, old.2)
    | 0, _ => put' (setFld old.1 0 32 (fldN v 0 32), old.2)
    | 4, _ => put' (setFld old.1 32 32 (fldN v 0 32), old.2)
    | 8, 8 => control (put' (old.1, fld v 0 32)) (v >>> 32)
    | 8, _ => put' (old.1, fld v 0 32)
    | _, _ => control s v
  else s

/-- AP_BASE of a function; a locked interface keeps its own (R473). -/
def State.apBaseWrite (s : State) (f : Fin 9) (v : Word) : State :=
  let kept := match partOfVf f with | some n => s.guarded n | none => false
  if kept then s else s.modFn f (fun h => { h with apBase := fld v 30 18 })

/-- A write of 8 bytes to a register of a function page (R443, R446). -/
def State.fnPageWrite (s : State) (f : Fin 9) (o : Nat) (v : Word) : State :=
  match o with
  | 0x000 => s.modFn f (fun h => if h.sqEn then h else { h with sqBase := fld v 12 52 })
  | 0x008 => s.modFn f (fun h => if h.cqEn then h else { h with cqBase := fld v 12 52 })
  | 0x010 => s.modFn f (fun h => h.ringCfgWrite v)
  | 0x018 => s.modFn f (fun h => h.sqTailWrite v)
  | 0x020 => s.modFn f (fun h => h.cqHeadWrite v)
  | 0x028 => (s.modFn f (fun h => h.cqIrqWrite f v)).cqDue f
  | 0x030 => if bit v 25 then s.modFn f (fun h => { h with ringErr := false }) else s
  | 0x038 => s.apBaseWrite f v
  | _ => s

/-- Whether a register stands at an offset of a function page, the MSI-X table apart. -/
def pageNamed (o : Nat) : Bool := decide (o < 0x040 ∨ 0x100 ≤ o ∧ o < 0x110)

/-- A BAR0 write to the page of function `g` by function `f`. -/
def State.pageWriteBy (s : State) (f g : Fin 9) (o size : Nat) (v : Word) : State :=
  if !s.fnUp g then s
  else if 0x800 ≤ o then (if (o - 0x800) / 16 < vectorCount g then s.msixWrite g o size v else s)
  else if size = 8 then s.fnPageWrite g o v
  else if pageNamed o then s.badWr (.host f)
  else s

/-! ### Writes to the windows of dies and cores -/

/-- A write of 8 bytes to a register of a core block, as the host performs it: DSPn_CTL takes a new NEXT and LIMIT (R258). -/
def State.blockHostWrite (s : State) (c : CoreId) (o : Nat) (v : Word) : State :=
  if isDspCtl o then
    (if fldN v 32 32 > 0xFFFFFFFD then s
     else s.modDsp c.die (Fin.ofNat 16 ((o - 0x4000) / 0x10)) (fun x => { x with next := fld v 0 32, limit := fld v 32 32 }))
  else s.blockWrite c o v

/-- A BAR0 write to a die or core window (R439, R441, R473, R488, R526). -/
def State.windowWrite (s : State) (f : Fin 9) (c : CoreId) (o size : Nat) (v : Word) : State :=
  let busy : Bool := match s.dieOwner c.die with | some n => (s.taskOf n).isSome | none => false
  if s.pkg.level.toNat < 2 then s
  else if !s.reaches (.host f) c.die then s.agentMiss (.host f)
  else if !s.hasDie c.die ∨ (s.die c.die).resetting ∨ (o < 0x4000 ∧ (s.core c).pstate = .collapsed) then s
  else if !blockNamed o then s
  else if size ≠ 8 then (s.badWr (.host f)).blockWriteNarrow c o
  else if portReg o then s.blockHostWrite c o v
  else if !rwReg o then s
  else if busy then s.agentMiss (.host f)
  else s.blockHostWrite c o v

/-! ### BAR0 (R438, R439) -/

/-- A write to the boot window (R441, R503). -/
def State.bootWrite (s : State) (o size : Nat) (v : Word) : State :=
  if s.pkg.bootSt = 1 then s.modPkg (fun p => { p with bootWin := p.bootWin.write o (leBytes size v.toNat) }) else s

/-- A BAR0 write of the PF. -/
def State.pfBar0 (s : State) (o size : Nat) (v : Word) : State :=
  if o < 0x1000000 then
    (if size = 8 then s.pkgWrite o v else if pkgNamed o ∧ (o < 0x10000 ∨ 2 ≤ s.pkg.level.toNat) then s.badWr (.host 0) else s)
  else if o < 0x1009000 then s.pageWriteBy 0 (Fin.ofNat 9 (o / 0x1000 % 0x100)) (o % 0x1000) size v
  else if o < 0x1100000 then s
  else if o < 0x1120000 then s.windowWrite 0 ⟨⟨o / 0x4000 % 8, by omega⟩, 0⟩ (0x4000 + o % 0x4000) size v
  else if o < 0x1200000 then s
  else if o < 0x1400000 then s.windowWrite 0 (coreOfPkg (o / 0x4000 % 128)) (o % 0x4000) size v
  else if 0x2000000 ≤ o ∧ o < 0x3000000 then s.bootWrite (o % 0x1000000) size v
  else s

/-- A BAR0 write of a VF: its always-on window is read-only and counts nothing (R525). -/
def State.vfBar0 (s : State) (f : Fin 9) (o size : Nat) (v : Word) : State :=
  if o < 0x1000 then s.pageWriteBy f f o size v
  else if o < 0x100000 then s
  else if o < 0x120000 then s.windowWrite f ⟨⟨o / 0x4000 % 8, by omega⟩, 0⟩ (0x4000 + o % 0x4000) size v
  else if o < 0x200000 then s
  else if o < 0x400000 then s.windowWrite f (coreOfPkg (o / 0x4000 % 128)) (o % 0x4000) size v
  else s

/-- The SEMPOST register that an access to BAR0 touches: its core and semaphore (R316). -/
def postAt (f : Fin 9) (o : Nat) : Option CoreId :=
  let base := if f = 0 then 0x1200000 else 0x200000
  if base ≤ o ∧ o < base + 0x200000 ∧ 0x3000 ≤ o % 0x4000 ∧ o % 0x4000 < 0x3200 then some (coreOfPkg (o / 0x4000 % 128)) else none

/-- A BAR0 write that is not performed for its size or alignment (R439); one that touches a SEMPOST counts in BADPOST of its core too (R316). -/
def State.badAccess (s : State) (f : Fin 9) (o : Nat) : State :=
  let s := s.badWr (.host f)
  match postAt f o with
  | some c => if s.arrives (.host f) ∧ s.reaches (.host f) c.die ∧ s.hasDie c.die ∧ !(s.die c.die).resetting ∧ (s.core c).pstate ≠ .collapsed then s.badPost c else s
  | none => s

/-- A BAR0 write (R439): one of another size, or misaligned, is not performed and is counted; one by a VF to its always-on window counts nothing (R525). -/
def State.bar0Write (s : State) (f : Fin 9) (o size : Nat) (v : Word) : State :=
  if !s.fnTlp f then s
  else if f ≠ 0 ∧ 0x10000 ≤ o ∧ o < 0x20000 then s
  else if (size ≠ 4 ∧ size ≠ 8) ∨ o % size ≠ 0 then s.badAccess f o
  else if f = 0 then s.pfBar0 o size v
  else s.vfBar0 f o size v

/-- What a BAR0 read of an aligned word completes with: a word, or Unsupported Request. -/
inductive BarRead where
  | word (v : Word)
  | ur
deriving DecidableEq, Repr

/-- A BAR0 read of a word of a die or core window (R439, R441, R473, R488, R525, R526): `o` is its core-block offset. -/
def State.windowRead (s : State) (f : Fin 9) (c : CoreId) (o : Nat) : State × BarRead :=
  let ones : BarRead := .word (if blockNamed o then BitVec.allOnes 64 else 0)
  if s.pkg.level.toNat < 2 then (s, if s.hasDie c.die then ones else .word 0)
  else if !s.reaches (.host f) c.die then (s.agentMiss (.host f), if f = 0 then .word 0 else .ur)
  else if !s.hasDie c.die then (s, .word 0)
  else if (s.die c.die).resetting ∨ (o < 0x4000 ∧ (s.core c).pstate = .collapsed) then (s, ones)
  else (s, .word (s.blockRead f c o))

/-- A BAR0 read of a word by the PF (R438): the boot window reads 0, and so does an offset that names no register. -/
def State.pfRead (s : State) (o : Nat) : State × BarRead :=
  if o < 0x1000000 then (s, .word (if pkgNamed o then s.pkgRead o else 0))
  else if o < 0x1009000 then let g : Fin 9 := Fin.ofNat 9 (o / 0x1000 % 0x100); (s, .word ((s.fn g).pageRead g (o % 0x1000)))
  else if 0x1100000 ≤ o ∧ o < 0x1120000 then s.windowRead 0 ⟨⟨o / 0x4000 % 8, by omega⟩, 0⟩ (0x4000 + o % 0x4000)
  else if 0x1200000 ≤ o ∧ o < 0x1400000 then s.windowRead 0 (coreOfPkg (o / 0x4000 % 128)) (o % 0x4000)
  else (s, .word 0)

/-- A BAR0 read of a word by a VF (R438): its own page, the always-on window, and the windows of its partition's dies. -/
def State.vfRead (s : State) (f : Fin 9) (o : Nat) : State × BarRead :=
  if o < 0x1000 then (s, .word ((s.fn f).pageRead f o))
  else if 0x10000 ≤ o ∧ o < 0x20000 then (s, .word (s.aoRead f (o - 0x10000)))
  else if 0x100000 ≤ o ∧ o < 0x120000 then s.windowRead f ⟨⟨o / 0x4000 % 8, by omega⟩, 0⟩ (0x4000 + o % 0x4000)
  else if 0x200000 ≤ o ∧ o < 0x400000 then s.windowRead f (coreOfPkg (o / 0x4000 % 128)) (o % 0x4000)
  else (s, .word 0)

/-- A BAR0 read (R439): of 8 bytes the register, of 4 bytes its half, of another size or misaligned Unsupported Request. -/
def State.bar0Read (s : State) (f : Fin 9) (o size : Nat) : State :=
  if !s.fnUp f then s
  else if !s.tlpOk f then s.unsupported f
  else if (size ≠ 4 ∧ size ≠ 8) ∨ o % size ≠ 0 then s.unsupported f
  else
    match (if f = 0 then s.pfRead (o / 8 * 8) else s.vfRead f (o / 8 * 8)) with
    | (s, .word v) => s.send (.readData f (leBytes size (v.toNat / 2 ^ (8 * (o % 8)))) false)
    | (s, .ur) => s.unsupported f

/-! ### PCIe configuration (R435, R436, R442, R471, R473) -/

/-- NumVFs (R435): VFs that it no longer enables are reset. -/
def State.numVfsWrite (s : State) (f : Fin 9) (n : Nat) : State :=
  if f ≠ 0 ∨ n > 8 then s
  else
    let s := (fins 8).foldl (fun s i => if n ≤ i.val ∧ i.val < s.pkg.numVfs then s.vfReset i else s) s
    s.modPkg (fun p => { p with numVfs := n })

/-- The size of BAR2 (R442): one of the PF, and one of every VF, which the PKC keeps while an interface is locked (R473). -/
def State.bar2Write (s : State) (f : Fin 9) (k : Nat) : State :=
  if k < 30 ∨ 40 < k then s
  else if f = 0 then s.modFn 0 (fun h => { h with bar2 := k })
  else if (fins 8).any (fun n => s.guarded n) then s
  else (fins 8).foldl (fun s n => s.modFn (vfFn n) (fun h => { h with bar2 := k })) s

/-- The host sets a function's IDE stream to the secure state, or takes it out (R471, R472). -/
def State.ideWrite (s : State) (f : Fin 9) (en : Bool) : State :=
  match (s.fn f).ide, en with
  | .keyed, true => s.modFn f (fun h => { h with ide := .secure })
  | .secure, false =>
    let s := s.modFn f (fun h => { h with ide := .keyed })
    (match partOfVf f with
     | some n => s.tdiError n
     | none => s)
  | _, _ => s

/-- A write of the PCIe configuration of a function. -/
def State.configWrite (s : State) (f : Fin 9) (w : HostWrite) : State :=
  match w with
  | .bar0 o size v => s.bar0Write f o size v
  | .ats en => let s := s.modFn f (fun h => { h with ats := en }); if en then s else s.atcDrop f
  | .pri en => s.modFn f (fun h => { h with pri := en })
  | .prAlloc n => s.modFn f (fun h => { h with prAlloc := n })
  | .bar0Read o size => s.bar0Read f o size
  | .clear read o size v =>
    if (partOfVf f).any s.guarded then (if read then s.unsupported f else s.aerError f 20)
    else if read then s.bar0Read f o size else s.bar0Write f o size v
  | .aer v => s.modFn f (fun h => { h with aer := h.aer &&& ~~~v })
  | .lockedSetting => match partOfVf f with | some n => s.tdiError n | none => s
  | .numVfs n => s.numVfsWrite f n
  | .bar2Size k => s.bar2Write f k
  | .ideSecure en => s.ideWrite f en

/-- REGISTER_WRITE (R8): a write of the host that has no row of its own. Until MGMT a configuration request completes with Request Retry Status (R499, R546). -/
def execRegisterWrite (f : Fin 9) (w : HostWrite) (s : State) : Res :=
  if w.isConfig ∧ s.pkg.level = 0 then .next (if s.pkg.pins.held then s else s.send (.retry f))
  else if s.fnUp f then .next (s.configWrite f w) else .next s

end Sys2Proof.Machine
end

