-- ==== Sys2Proof/Machine/Ras.lean ====
section
/-! DEFINITION. Patrol scrubs and the windows of the correction counters (R380, R517, R518). -/

namespace Sys2Proof.Machine

/-- The worse of what a unit holds and what is found in it now. -/
def worse (m : Option EccMark) (e : Finding) : Option EccMark :=
  match m, e with
  | some .poison, _ => some .poison
  | some .unc, _ => some .unc
  | _, .unc => some .unc
  | some .corr, _ => some .corr
  | _, .corr => some .corr
  | none, _ => none

/-- An error strikes a unit after the scrub has passed: the next read finds it (R379). DESIGN CHOICE (log 149): the only way in which a command leaves an error that nothing has found. -/
def State.strike (s : State) (u : Nat) (e : Finding) : State :=
  match e, (s.ecc.find? (fun m => decide (m.1 = u))).map Prod.snd with
  | .corrAfter, none => { s with ecc := markIns u .corr s.ecc }
  | .uncAfter, some .poison => s
  | .uncAfter, _ => { s with ecc := markIns u .unc s.ecc }
  | _, _ => s

/-- A scrub reads a unit and writes it back (R380): a correctable error is corrected; an uncorrectable one becomes the poison syndrome and is recorded; poison already in place is left and records nothing (R517). -/
def State.scrubUnit (s : State) (u : Nat) (e : Finding) : State :=
  match worse ((s.ecc.find? (fun m => decide (m.1 = u))).map Prod.snd) e with
  | some .corr => ({ s with ecc := markIns u .corr s.ecc } : State).eccMark u .corr
  | some .unc =>
    let s := ({ s with ecc := markIns u .unc s.ecc } : State).eccMark u .unc
    s.pkcReport ⟨0x0806, 0, 0, u, s.unitPayload u⟩
  | _ => s

/-- An uncorrectable error in the region of the legend tables, which the stack of a Tier N address holds and no partition owns (R345, R517, R521). DESIGN CHOICE (log 171): the region has no address of its own here, so no line is marked. -/
def State.legendUnc (s : State) (a : Nat) : State :=
  match s.region a, s.eccUnit a with
  | .tierN _, some u => (((s.uncCounters u.1 u.2 a).pkcReport ⟨0x0806, 0, 0, a, s.unitPayload a⟩).uncThreshold).fatal 2
  | _, _ => s

/-- SCRUB (R380): a patrol scrub of the unit that holds an address of CLM, depot, Tier N or Tier F. -/
def execScrub (a : Nat) (e : Finding) (s : State) : Res :=
  match e with
  | .pkcMemory => .next (s.fatal 2)
  | .legendTables => .next (s.legendUnc a)
  | _ => if (s.eccUnit a).isSome then .next ((s.scrubUnit (unitOf a) e).strike (unitOf a) e) else .next s

/-- One counter at the end of a window (R518): whether CORR rose by CORR_TH or more, and the counter with the next window begun. -/
def EccUnit.window (e : EccUnit) (th : Nat) : Bool × EccUnit :=
  let hit := decide (th ≠ 0 ∧ e.corr.toNat - e.base.toNat ≥ th)
  (hit, { e with rate := if hit then satAdd e.rate 1 else e.rate, base := e.corr })

/-- The counters of one unit of a die at the end of a window. -/
def State.unitWindow (s : State) (th : Nat) (d u : Fin 8) : State :=
  let (hit, e) := (vget (s.die d).ecc u).window th
  let s := s.modDie d (fun k => { k with ecc := vset k.ecc u e })
  if hit then s.pkcReport ⟨0x0810, 0, BitVec.ofNat 32 (d.val + 256 * u.val), 0, []⟩ else s

/-- ECC_RATE_WINDOW (R518): every unit is judged, and a write to ECC_CFG applies from here on. -/
def execEccRateWindow (s : State) : Res :=
  let th := fldN s.pkg.eccCfg 0 16
  let s := ((fins 8).filter s.hasDie).foldl (fun s d => (fins 8).foldl (fun s u => s.unitWindow th d u) s) s
  .next (s.modPkg (fun p => { p with eccCfg := p.eccNext }))

end Sys2Proof.Machine
end

