-- ==== Sys2Proof/Machine/Seq.lean ====
section
/-! DEFINITION. The sequencer's own instructions: CTL, ALU, MEM and legend instructions (R18 to R36, R341 to R347), and the placing of fence markers (R284). -/

namespace Sys2Proof.Machine

/-! ### CTL (R341, R342, R284) -/

/-- IMM sign-extended (R337). -/
def LayA.sx (l : LayA) : Word := l.imm.signExtend 64

/-- The target of a `jmp` or `call`: PC-relative, or the offset in `ra` (R341). -/
def jumpTarget (k : Core) (l : LayA) : Word := if l.im then k.pc.setWidth 64 + LayA.sx l else k.getG l.ra

/-- Whether a condition code holds for two registers (ch. 12). -/
def holds (cc : CC) (a b : Word) : Bool :=
  match cc with
  | .eq => decide (a = b)
  | .ne => decide (a ≠ b)
  | .lt => a.slt b
  | .ge => !a.slt b
  | .le => a.sle b
  | .gt => !a.sle b
  | .ltu => a.ult b
  | .geu => !a.ult b
  | .leu => a.ule b
  | .gtu => !a.ule b

/-- `nop`: no effect (R341). -/
def execNop (c : CoreId) (p : Fin 8) (l : LayA) (s : State) : Res := s.issue (.nop c p l) c p always (fun s => s.advance c 1)

/-- `jmp` (R341, R342). -/
def execJmp (c : CoreId) (p : Fin 8) (l : LayA) (s : State) : Res :=
  s.issue (.jmp c p l) c p always (fun s =>
    let t := jumpTarget (s.core c) l
    s.branch c t (!l.im) (fun k => { k with loops := keepLoops t.toNat k.loops }))

/-- `call` (R24, R341): with 16 return entries in use it raises STACK. -/
def execCall (c : CoreId) (p : Fin 8) (l : LayA) (s : State) : Res :=
  s.issue (.call c p l) c p always (fun s =>
    let k := s.core c
    if k.ret.length ≥ 16 then s.illegal c .stack k.pc 0
    else s.branch c (jumpTarget k l) (!l.im) (fun x => { x with ret := (k.pc + 8) :: k.ret }))

/-- `ret` (R24, R341): with no return entry it raises STACK. -/
def execRet (c : CoreId) (p : Fin 8) (l : LayA) (s : State) : Res :=
  s.issue (.ret c p l) c p always (fun s =>
    let k := s.core c
    match k.ret with
    | [] => s.illegal c .stack k.pc 0
    | t :: rest => s.branch c (t.setWidth 64) false (fun x => { x with ret := rest }))

/-- The count of a `loop` (R341). -/
def loopCount (k : Core) (l : LayA) : Nat := if l.im then fldN l.imm 16 16 else fldN (k.getG l.ra) 0 32

/-- `loop` (R24, R342): a count of 0 continues after the body; a fifth nesting level raises LOOP. -/
def execLoop (c : CoreId) (p : Fin 8) (l : LayA) (s : State) : Res :=
  s.issue (.loop c p l) c p always (fun s =>
    let k := s.core c
    let start := k.pc.toNat + 8
    let stop := start + 8 * fldN l.imm 0 16
    let n := loopCount k l
    if n = 0 then s.reach c stop
    else if k.loops.length ≥ 4 then s.illegal c .loop k.pc 0
    else (s.modCore c (fun k => { k with loops := ⟨start, stop, n - 1⟩ :: k.loops })).advance c 1)

/-- `halt` (R47): the sequencer stops issuing. -/
def execHalt (c : CoreId) (p : Fin 8) (l : LayA) (s : State) : Res :=
  s.issue (.halt c p l) c p always (fun s => s.modCore c (fun k => { k with run := .halting }))

/-- `trap` (R341, R513). -/
def execTrap (c : CoreId) (p : Fin 8) (l : LayA) (s : State) : Res :=
  s.issue (.trap c p l) c p always (fun s =>
    s.illegal c .trap (s.pcOf c) ((fld l.imm 0 16).setWidth 32) 0 (leBytes 8 ((s.core c).getG l.ra).toNat))

/-- `br.<cc>` (R341, R342). -/
def execBr (c : CoreId) (p : Fin 8) (cc : CC) (l : LayA) (s : State) : Res :=
  s.issue (.br c p cc l) c p always (fun s =>
    let k := s.core c
    let t := k.pc.setWidth 64 + LayA.sx l
    if holds cc (k.getG l.ra) (k.getG l.rb) then s.branch c t false (fun k => { k with loops := keepLoops t.toNat k.loops })
    else s.advance c 1)

/-- The engines of a fence mask (R284). -/
def maskEngines (m : BitVec 7) : List Engine :=
  ([Engine.str, .ga0, .ga1, .jx, .vec, .skt, .syn].zipIdx.filter (fun p => m.getLsbD p.2)).map Prod.fst

/-- A fence marker in the queue of one engine. -/
def Core.mark (k : Core) (e : Engine) (n : Nat) (f : FenceCond) : Core :=
  match e with
  | .str => { k with qStr := k.qStr ++ [.fence n f] }
  | .ga0 => { k with qGa := vmod k.qGa 0 (fun q => q ++ [.fence n f]) }
  | .ga1 => { k with qGa := vmod k.qGa 1 (fun q => q ++ [.fence n f]) }
  | .jx => { k with qJx := k.qJx ++ [.fence n f] }
  | .vec => { k with qVec := k.qVec ++ [.fence n f] }
  | .skt => { k with qSkt := k.qSkt ++ [.fence n f] }
  | .syn => { k with qSyn := k.qSyn ++ [.fence n f] }

/-- Whether every queue of a mask has room (R284). -/
def State.fenceMay (s : State) (c : CoreId) (m : BitVec 7) : Bool := (maskEngines m).all (fun e => s.room c e)

/-- One fence marker in the queue of each engine of a mask (R284). -/
def State.fence (s : State) (c : CoreId) (m : BitVec 7) (f : FenceCond) : State :=
  let (n, s) := s.takeSeq c
  (s.modCore c (fun k => (maskEngines m).foldl (fun k e => k.mark e n f) k)).advance c 1

/-- `fence.k` in SEM mode (R284, R285). -/
def execFenceKSem (c : CoreId) (p : Fin 8) (l : LayF) (s : State) : Res :=
  s.issue (.fenceKSem c p l) c p (fun s => s.fenceMay c l.mask) (fun s => s.fence c l.mask (.sem l.sem (fld ((s.core c).getG l.ra) 0 32)))

/-- `fence.k` in DRAIN mode (R284, R285). -/
def execFenceKDrain (c : CoreId) (p : Fin 8) (l : LayF) (s : State) : Res :=
  s.issue (.fenceKDrain c p l) c p (fun s => s.fenceMay c l.mask) (fun s => s.fence c l.mask (.drain l.mask))

/-! ### ALU (R343) -/

/-- The second operand (R343). -/
def aluB (k : Core) (l : LayA) : Word := if l.im then LayA.sx l else k.getG l.rb

/-- Write `rd` and go on. -/
def State.setRd (s : State) (c : CoreId) (r : Fin 32) (v : Word) (n : Nat) : State := (s.modCore c (fun k => k.setG r v)).advance c n

/-- The two-operand ALU instructions: rd := f ra b. -/
def State.alu (s : State) (c : CoreId) (l : LayA) (f : Word → Word → Word) : State :=
  let k := s.core c
  s.setRd c l.rd (f (k.getG l.ra) (aluB k l)) 1

/-- `add`: rd := ra + b modulo 2^64 (R343). -/
def execAdd (c : CoreId) (p : Fin 8) (l : LayA) (s : State) : Res :=
  s.issue (.add c p l) c p always (fun s => s.alu c l (fun a b => a + b))

/-- `sub`: rd := ra − b modulo 2^64 (R343). -/
def execSub (c : CoreId) (p : Fin 8) (l : LayA) (s : State) : Res :=
  s.issue (.sub c p l) c p always (fun s => s.alu c l (fun a b => a - b))

/-- `mul`: rd := the low 64 bits of ra × b (R343). -/
def execMul (c : CoreId) (p : Fin 8) (l : LayA) (s : State) : Res :=
  s.issue (.mul c p l) c p always (fun s => s.alu c l (fun a b => a * b))

/-- `and`: bitwise and (R343). -/
def execAnd (c : CoreId) (p : Fin 8) (l : LayA) (s : State) : Res :=
  s.issue (.and c p l) c p always (fun s => s.alu c l (fun a b => a &&& b))

/-- `or`: bitwise or (R343). -/
def execOr (c : CoreId) (p : Fin 8) (l : LayA) (s : State) : Res :=
  s.issue (.or c p l) c p always (fun s => s.alu c l (fun a b => a ||| b))

/-- `xor`: bitwise exclusive or (R343). -/
def execXor (c : CoreId) (p : Fin 8) (l : LayA) (s : State) : Res :=
  s.issue (.xor c p l) c p always (fun s => s.alu c l (fun a b => a ^^^ b))

/-- `shl`: shift left by b[5:0] (R343). -/
def execShl (c : CoreId) (p : Fin 8) (l : LayA) (s : State) : Res :=
  s.issue (.shl c p l) c p always (fun s => s.alu c l (fun a b => a <<< fldN b 0 6))

/-- `shr`: shift right by b[5:0], filling with 0 (R343). -/
def execShr (c : CoreId) (p : Fin 8) (l : LayA) (s : State) : Res :=
  s.issue (.shr c p l) c p always (fun s => s.alu c l (fun a b => a >>> fldN b 0 6))

/-- `sar`: shift right by b[5:0], filling with the sign (R343). -/
def execSar (c : CoreId) (p : Fin 8) (l : LayA) (s : State) : Res :=
  s.issue (.sar c p l) c p always (fun s => s.alu c l (fun a b => a.sshiftRight (fldN b 0 6)))

/-- `min`: the smaller, signed or unsigned as U selects (R343). -/
def execMin (c : CoreId) (p : Fin 8) (l : LayA) (s : State) : Res :=
  s.issue (.min c p l) c p always (fun s => s.alu c l (fun a b => if (if l.u then a.ult b else a.slt b) then a else b))

/-- `max`: the larger, signed or unsigned as U selects (R343). -/
def execMax (c : CoreId) (p : Fin 8) (l : LayA) (s : State) : Res :=
  s.issue (.max c p l) c p always (fun s => s.alu c l (fun a b => if (if l.u then a.ult b else a.slt b) then b else a))

/-- `li`: rd := IMM, or the extension word (R343). -/
def execLi (c : CoreId) (p : Fin 8) (l : LayA) (x : Option Word) (s : State) : Res :=
  s.issue (.li c p l x) c p always (fun s => s.setRd c l.rd (x.getD (LayA.sx l)) (if x.isSome then 2 else 1))

/-- `sel`: rd := ra when `ps` reads 1, else rb (R343). -/
def execSel (c : CoreId) (p : Fin 8) (l : LayA) (s : State) : Res :=
  s.issue (.sel c p l) c p always (fun s =>
    let k := s.core c
    s.setRd c l.rd (if k.getP (Fin.ofNat 8 (fldN l.imm 29 3)) then k.getG l.ra else k.getG l.rb) 1)

/-- `cmp.<cc>`: pd := whether the condition holds for ra and b (R343). -/
def execCmp (c : CoreId) (p : Fin 8) (cc : CC) (l : LayA) (s : State) : Res :=
  s.issue (.cmp c p cc l) c p always (fun s =>
    let k := s.core c
    (s.modCore c (fun x => x.setP (Fin.ofNat 8 l.rd.val) (holds cc (k.getG l.ra) (aluB k l)))).advance c 1)

/-! ### MEM (R344, R27) -/

/-- `ld` (R344). -/
def execLd (c : CoreId) (p : Fin 8) (l : LayL) (h : HostEnd) (v : Word) (s : State) : Res :=
  s.issue (.ld c p l h v) c p always (fun s => s.ldGo c (.ld c p l h v) l h v)

/-- `st` (R25, R344). -/
def execSt (c : CoreId) (p : Fin 8) (l : LayL) (s : State) : Res :=
  s.issue (.st c p l) c p (fun s => s.stMay c l) (fun s => s.stGo c (.st c p l) l)

/-- The value of a CSR (R27). -/
def State.csr (s : State) (c : CoreId) (n : Nat) : Word :=
  let k := s.core c
  match n with
  | 0 => put c.core.val 0 4 ||| put c.die.val 4 3 ||| put c.pkg 8 7
  | 1 => put s.pkg.partId.toNat 0 12 ||| put k.partition.val 12 3
  | 2 => BitVec.ofNat 64 (k.cycleQ / 4)
  | 3 => s.pkg.aclk
  | 4 => (fld k.tsrRing 0 27).setWidth 64
  | 5 => k.tsrCount.setWidth 64
  | 6 => k.flagsSum.setWidth 64
  | 7 => k.taskInfo.setWidth 64
  | _ => 0

/-- `csr.rd` (R27). -/
def execCsrRd (c : CoreId) (p : Fin 8) (l : LayL) (s : State) : Res :=
  s.issue (.csrRd c p l) c p always (fun s => s.setRd c l.r (s.csr c l.imm.toNat) 1)

/-- `csr.wr` (R8, R27): of the CSRs only FLAGS_SUM has a field that a write changes, and a write of 1 clears there. -/
def execCsrWr (c : CoreId) (p : Fin 8) (l : LayL) (s : State) : Res :=
  s.issue (.csrWr c p l) c p always (fun s =>
    let v := (s.core c).getG l.ra
    (s.modCore c (fun k => if l.imm = 6 then { k with flagsSum := clearFlags k.flagsSum v } else k)).advance c 1)

/-! ### Legend instructions (R345 to R347) -/

/-- The legend of 32 bytes (R29). -/
def legOf (bs : List Byte) : Leg := BitVec.ofNat 256 (ofLE bs)

/-- Entry `i` of the legend table of the core's task (R345); an entry that the table does not have reads 0, as R45 loads it. -/
def State.legEntry (s : State) (c : CoreId) (i : Nat) : Leg :=
  match (s.core c).sect with
  | some x => (((s.pkg.legTab.find? (fun t => t.1 = x.task)).map Prod.snd).getD []).getD i 0
  | none => 0

/-- `lg.set` (R345): CLM form or table form. -/
def execLgSet (c : CoreId) (p : Fin 8) (l : LaySet) (s : State) : Res :=
  s.issue (.lgSet c p l) c p always (fun s =>
    let k := s.core c
    if l.tbl then (s.modCore c (fun k => k.setD l.dd (s.legEntry c (fldN l.imm 0 12)))).advance c 1
    else
      let w := k.getG l.ra + l.imm.signExtend 64
      let a := w.toNat
      if a % 32 ≠ 0 then s.illegal c .align k.pc (w.setWidth 32) a
      else if a + 32 > clmSize then s.illegal c .bounds k.pc (w.setWidth 32) a
      else
        let (s, e) := s.eccRead [(clmAddr c + a, 32)]
        match e.poison with
        | some x => s.uncFault c 0x0801 k.pc 0 x
        | none => (s.modCore c (fun k => k.setD l.dd (legOf (s.mem.read (clmAddr c + a) 32)))).advance c 1)

/-- `lg.mod` (R346). -/
def execLgMod (c : CoreId) (p : Fin 8) (l : LayMod) (s : State) : Res :=
  s.issue (.lgMod c p l) c p always (fun s =>
    let k := s.core c
    let v := if l.im then l.imm.signExtend 64 else k.getG l.ra
    (s.modCore c (fun k => k.setD l.dd (legMod (k.getD l.dd) l.field.toNat v))).advance c 1)

/-- `lg.view` (R347): with an extended source it writes two registers, and into `d31` it raises LEGEND. -/
def execLgView (c : CoreId) (p : Fin 8) (l : LayView) (s : State) : Res :=
  s.issue (.lgView c p l) c p always (fun s =>
    let k := s.core c
    let v := k.view l.ds
    let (a, b) := legView v (ViewOff.ofRegs (k.getG l.ra) (k.getG l.rb) (k.getG l.rc))
    if Leg.extd v.prim then
      (if l.dd = 31 then s.illegal c .legend k.pc 31
       else (s.modCore c (fun k => (k.setD l.dd a).setD (l.dd + 1) b)).advance c 1)
    else (s.modCore c (fun k => k.setD l.dd a)).advance c 1)

end Sys2Proof.Machine
end

