-- ==== Sys2Proof/Machine/Retry.lean ====
section
/-! DEFINITION. The end of a stall: a stalled instruction issues again, and a result lands in its register (R20, R339). -/

namespace Sys2Proof.Machine

open Sys2Proof

/-- The instruction that stalled is tried again: an instruction of the sequencer issues by its own meaning. -/
def reissue (i : Instr) (s : State) : Res :=
  match i with
  | .nop c p l => execNop c p l s
  | .jmp c p l => execJmp c p l s
  | .call c p l => execCall c p l s
  | .ret c p l => execRet c p l s
  | .loop c p l => execLoop c p l s
  | .halt c p l => execHalt c p l s
  | .trap c p l => execTrap c p l s
  | .fenceKSem c p l => execFenceKSem c p l s
  | .fenceKDrain c p l => execFenceKDrain c p l s
  | .br c p cc l => execBr c p cc l s
  | .add c p l => execAdd c p l s
  | .sub c p l => execSub c p l s
  | .mul c p l => execMul c p l s
  | .and c p l => execAnd c p l s
  | .or c p l => execOr c p l s
  | .xor c p l => execXor c p l s
  | .shl c p l => execShl c p l s
  | .shr c p l => execShr c p l s
  | .sar c p l => execSar c p l s
  | .min c p l => execMin c p l s
  | .max c p l => execMax c p l s
  | .li c p l x => execLi c p l x s
  | .sel c p l => execSel c p l s
  | .cmp c p cc l => execCmp c p cc l s
  | .ld c p l h v => execLd c p l h v s
  | .st c p l => execSt c p l s
  | .csrRd c p l => execCsrRd c p l s
  | .csrWr c p l => execCsrWr c p l s
  | .lgSet c p l => execLgSet c p l s
  | .lgMod c p l => execLgMod c p l s
  | .lgView c p l => execLgView c p l s
  | .strLoad c p l x => execStrLoad c p l x s
  | .strStore c p l x => execStrStore c p l x s
  | .strGather c p l x => execStrGather c p l x s
  | .strMcast c p l x => execStrMcast c p l x s
  | .strRate c p l => execStrRate c p l s
  | .strResume c p l => execStrResume c p l s
  | .strAbort c p l => execStrAbort c p l s
  | .arrCfg c p l => execArrCfg c p l s
  | .arrMm c p l => execArrMm c p l s
  | .arrDrainPlain c p l => execArrDrainPlain c p l s
  | .arrDrainExw c p l => execArrDrainExw c p l s
  | .arrDrainExwAdd c p l => execArrDrainExwAdd c p l s
  | .arrSave c p l => execArrSave c p l s
  | .arrLoad c p l => execArrLoad c p l s
  | .jctRoute c p l => execJctRoute c p l s
  | .jctSpmm c p l d => execJctSpmm c p l d s
  | .jctSpdot c p l d => execJctSpdot c p l d s
  | .jctBag c p l d => execJctBag c p l d s
  | .jctDrain c p l => execJctDrain c p l s
  | .vAdd c p l => execVAdd c p l s
  | .vMul c p l => execVMul c p l s
  | .vFma c p l => execVFma c p l s
  | .vMax c p l => execVMax c p l s
  | .vExp c p l => execVExp c p l s
  | .vRsqrt c p l => execVRsqrt c p l s
  | .vCvt c p l => execVCvt c p l s
  | .vReduce c p l => execVReduce c p l s
  | .vNorm2 c p l => execVNorm2 c p l s
  | .vLd c p l => execVLd c p l s
  | .vSt c p l => execVSt c p l s
  | .semAdd c p l => execSemAdd c p l s
  | .semSub c p l => execSemSub c p l s
  | .semWait c p l => execSemWait c p l s
  | .semTake c p l => execSemTake c p l s
  | .semRead c p l => execSemRead c p l s
  | .barArrive c p l => execBarArrive c p l s
  | .barWait c p l => execBarWait c p l s
  | .dspTake c p l => execDspTake c p l s
  | .dspSetLimit c p l => execDspSetLimit c p l s
  | .dspSetNext c p l => execDspSetNext c p l s
  | .dspSetRetire c p l => execDspSetRetire c p l s
  | .qPush c p l => execQPush c p l s
  | .qPop c p l => execQPop c p l s
  | .sktPass c p l => execSktPass c p l s
  | .sktSelect c p l => execSktSelect c p l s
  | .sktAudit c p l => execSktAudit c p l s
  | _ => .next s

/-- The stalled instruction of a core issues, if nothing is in its way any more; otherwise it stalls again. -/
def State.retry (s : State) (c : CoreId) : Res :=
  match (s.core c).stalled with
  | none => .next s
  | some i => reissue i (s.modCore c (fun k => { k with stalled := none }))

/-- Whether the core of a stalled instruction may go on at all. -/
def Core.mayRetry (k : Core) : Bool := decide (k.run = .running ∧ k.pstate = .run ∧ k.wait = none) && !k.resetting

/-- A stalled instruction issues (R20). -/
def execQueueRoomIssue (c : CoreId) (s : State) : Res :=
  if !s.hasDie c.die then .next s
  else if (s.core c).mayRetry then s.retry c
  else .next s

/-- The oldest result for a register and the others. -/
def takeResult (r : Fin 32) : List Result → Option (Result × List Result)
  | [] => none
  | x :: xs => if x.rd = r then some (x, xs) else (takeResult r xs).map (fun p => (p.1, x :: p.2))

/-- A result lands in its pending register, and an instruction that stalled on it issues (R339). -/
def execPendingResultArrive (c : CoreId) (r : Fin 32) (s : State) : Res :=
  if !s.hasDie c.die then .next s
  else
    match takeResult r (s.core c).results with
    | none => .next s
    | some (x, rest) =>
      let s := s.modCore c (fun k => ({ k with results := rest } : Core).setG r x.val)
      if (s.core c).mayRetry then s.retry c else .next s

end Sys2Proof.Machine
end

