-- ==== Sys2Proof/Machine/Dispatch.lean ====
section
/-! DEFINITION. The dispatch of a command to its meaning: one arm for each constructor of `Instr`. -/

namespace Sys2Proof.Machine

open Sys2Proof

/-- What a command does to everything but the queue (R1 to R558). -/
def exec (i : Instr) (s : State) : Host.Outcome State Fault Refusal :=
  match i with
  | .nop c p l => Sys2Proof.Machine.execNop c p l s
  | .jmp c p l => Sys2Proof.Machine.execJmp c p l s
  | .call c p l => Sys2Proof.Machine.execCall c p l s
  | .ret c p l => Sys2Proof.Machine.execRet c p l s
  | .loop c p l => Sys2Proof.Machine.execLoop c p l s
  | .halt c p l => Sys2Proof.Machine.execHalt c p l s
  | .trap c p l => Sys2Proof.Machine.execTrap c p l s
  | .fenceKSem c p l => Sys2Proof.Machine.execFenceKSem c p l s
  | .fenceKDrain c p l => Sys2Proof.Machine.execFenceKDrain c p l s
  | .br c p cc l => Sys2Proof.Machine.execBr c p cc l s
  | .add c p l => Sys2Proof.Machine.execAdd c p l s
  | .sub c p l => Sys2Proof.Machine.execSub c p l s
  | .mul c p l => Sys2Proof.Machine.execMul c p l s
  | .and c p l => Sys2Proof.Machine.execAnd c p l s
  | .or c p l => Sys2Proof.Machine.execOr c p l s
  | .xor c p l => Sys2Proof.Machine.execXor c p l s
  | .shl c p l => Sys2Proof.Machine.execShl c p l s
  | .shr c p l => Sys2Proof.Machine.execShr c p l s
  | .sar c p l => Sys2Proof.Machine.execSar c p l s
  | .min c p l => Sys2Proof.Machine.execMin c p l s
  | .max c p l => Sys2Proof.Machine.execMax c p l s
  | .li c p l x => Sys2Proof.Machine.execLi c p l x s
  | .sel c p l => Sys2Proof.Machine.execSel c p l s
  | .cmp c p cc l => Sys2Proof.Machine.execCmp c p cc l s
  | .ld c p l h v => Sys2Proof.Machine.execLd c p l h v s
  | .st c p l => Sys2Proof.Machine.execSt c p l s
  | .csrRd c p l => Sys2Proof.Machine.execCsrRd c p l s
  | .csrWr c p l => Sys2Proof.Machine.execCsrWr c p l s
  | .lgSet c p l => Sys2Proof.Machine.execLgSet c p l s
  | .lgMod c p l => Sys2Proof.Machine.execLgMod c p l s
  | .lgView c p l => Sys2Proof.Machine.execLgView c p l s
  | .strLoad c p l x => Sys2Proof.Machine.execStrLoad c p l x s
  | .strStore c p l x => Sys2Proof.Machine.execStrStore c p l x s
  | .strGather c p l x => Sys2Proof.Machine.execStrGather c p l x s
  | .strMcast c p l x => Sys2Proof.Machine.execStrMcast c p l x s
  | .strRate c p l => Sys2Proof.Machine.execStrRate c p l s
  | .strResume c p l => Sys2Proof.Machine.execStrResume c p l s
  | .strAbort c p l => Sys2Proof.Machine.execStrAbort c p l s
  | .arrCfg c p l => Sys2Proof.Machine.execArrCfg c p l s
  | .arrMm c p l => Sys2Proof.Machine.execArrMm c p l s
  | .arrDrainPlain c p l => Sys2Proof.Machine.execArrDrainPlain c p l s
  | .arrDrainExw c p l => Sys2Proof.Machine.execArrDrainExw c p l s
  | .arrDrainExwAdd c p l => Sys2Proof.Machine.execArrDrainExwAdd c p l s
  | .arrSave c p l => Sys2Proof.Machine.execArrSave c p l s
  | .arrLoad c p l => Sys2Proof.Machine.execArrLoad c p l s
  | .jctRoute c p l => Sys2Proof.Machine.execJctRoute c p l s
  | .jctSpmm c p l d => Sys2Proof.Machine.execJctSpmm c p l d s
  | .jctSpdot c p l d => Sys2Proof.Machine.execJctSpdot c p l d s
  | .jctBag c p l d => Sys2Proof.Machine.execJctBag c p l d s
  | .jctDrain c p l => Sys2Proof.Machine.execJctDrain c p l s
  | .vAdd c p l => Sys2Proof.Machine.execVAdd c p l s
  | .vMul c p l => Sys2Proof.Machine.execVMul c p l s
  | .vFma c p l => Sys2Proof.Machine.execVFma c p l s
  | .vMax c p l => Sys2Proof.Machine.execVMax c p l s
  | .vExp c p l => Sys2Proof.Machine.execVExp c p l s
  | .vRsqrt c p l => Sys2Proof.Machine.execVRsqrt c p l s
  | .vCvt c p l => Sys2Proof.Machine.execVCvt c p l s
  | .vReduce c p l => Sys2Proof.Machine.execVReduce c p l s
  | .vNorm2 c p l => Sys2Proof.Machine.execVNorm2 c p l s
  | .vLd c p l => Sys2Proof.Machine.execVLd c p l s
  | .vSt c p l => Sys2Proof.Machine.execVSt c p l s
  | .semAdd c p l => Sys2Proof.Machine.execSemAdd c p l s
  | .semSub c p l => Sys2Proof.Machine.execSemSub c p l s
  | .semWait c p l => Sys2Proof.Machine.execSemWait c p l s
  | .semTake c p l => Sys2Proof.Machine.execSemTake c p l s
  | .semRead c p l => Sys2Proof.Machine.execSemRead c p l s
  | .barArrive c p l => Sys2Proof.Machine.execBarArrive c p l s
  | .barWait c p l => Sys2Proof.Machine.execBarWait c p l s
  | .dspTake c p l => Sys2Proof.Machine.execDspTake c p l s
  | .dspSetLimit c p l => Sys2Proof.Machine.execDspSetLimit c p l s
  | .dspSetNext c p l => Sys2Proof.Machine.execDspSetNext c p l s
  | .dspSetRetire c p l => Sys2Proof.Machine.execDspSetRetire c p l s
  | .qPush c p l => Sys2Proof.Machine.execQPush c p l s
  | .qPop c p l => Sys2Proof.Machine.execQPop c p l s
  | .sktPass c p l => Sys2Proof.Machine.execSktPass c p l s
  | .sktSelect c p l => Sys2Proof.Machine.execSktSelect c p l s
  | .sktAudit c p l => Sys2Proof.Machine.execSktAudit c p l s
  | .queueRoomIssue c => Sys2Proof.Machine.execQueueRoomIssue c s
  | .pendingResultArrive c r => Sys2Proof.Machine.execPendingResultArrive c r s
  | .engineCommandBegin c u => Sys2Proof.Machine.execEngineCommandBegin c u s
  | .fenceOpen c e => Sys2Proof.Machine.execFenceOpen c e s
  | .arrFreePost c a => Sys2Proof.Machine.execArrFreePost c a s
  | .arrBankSwitch c a => Sys2Proof.Machine.execArrBankSwitch c a s
  | .exwChunkAddComplete c e => Sys2Proof.Machine.execExwChunkAddComplete c e s
  | .arrDrainComplete c a => Sys2Proof.Machine.execArrDrainComplete c a s
  | .arrSaveComplete c a => Sys2Proof.Machine.execArrSaveComplete c a s
  | .strictViolationFault c e => Sys2Proof.Machine.execStrictViolationFault c e s
  | .metaErr c e => Sys2Proof.Machine.execMetaErr c e s
  | .jctRouteComplete c => Sys2Proof.Machine.execJctRouteComplete c s
  | .jctTileEnd c => Sys2Proof.Machine.execJctTileEnd c s
  | .jctDrainComplete c => Sys2Proof.Machine.execJctDrainComplete c s
  | .sktPassComplete c a => Sys2Proof.Machine.execSktPassComplete c a s
  | .sktSelectComplete c => Sys2Proof.Machine.execSktSelectComplete c s
  | .sktAuditComplete c => Sys2Proof.Machine.execSktAuditComplete c s
  | .vecComplete c => Sys2Proof.Machine.execVecComplete c s
  | .coreHaltReport c => Sys2Proof.Machine.execCoreHaltReport c s
  | .haltComplete c => Sys2Proof.Machine.execHaltComplete c s
  | .taskEnd n => Sys2Proof.Machine.execTaskEnd n s
  | .transferIssue c n => Sys2Proof.Machine.execTransferIssue c n s
  | .transferDeliver c n t data h => Sys2Proof.Machine.execTransferDeliver c n t data h s
  | .mergeCloseTimeout c n => Sys2Proof.Machine.execMergeCloseTimeout c n s
  | .slotPagingSave c n => Sys2Proof.Machine.execSlotPagingSave c n s
  | .pageRequestSend c n => Sys2Proof.Machine.execPageRequestSend c n s
  | .prgResponse f prg ok => Sys2Proof.Machine.execPrgResponse f prg ok s
  | .streamStop c n => Sys2Proof.Machine.execStreamStop c n s
  | .atsTranslationComplete f addr size rd wr => Sys2Proof.Machine.execAtsTranslationComplete f addr size rd wr s
  | .atsInvalidate f addr size tag => Sys2Proof.Machine.execAtsInvalidate f addr size tag s
  | .poolRelease a t v => Sys2Proof.Machine.execPoolRelease a t v s
  | .queuePushPortWrite a c q full v => Sys2Proof.Machine.execQueuePushPortWrite a c q full v s
  | .sempostAdd a c n full amt => Sys2Proof.Machine.execSempostAdd a c n full amt s
  | .sempostSub a c n full amt => Sys2Proof.Machine.execSempostSub a c n full amt s
  | .waitTimeout c => Sys2Proof.Machine.execWaitTimeout c s
  | .stall c => Sys2Proof.Machine.execStall c s
  | .coreGate c => Sys2Proof.Machine.execCoreGate c s
  | .coreWake c => Sys2Proof.Machine.execCoreWake c s
  | .coreCollapse c => Sys2Proof.Machine.execCoreCollapse c s
  | .coreUncollapse c => Sys2Proof.Machine.execCoreUncollapse c s
  | .dspCtlHostWrite f d k v => Sys2Proof.Machine.execDspCtlHostWrite f d k v s
  | .sqTailDoorbell f v => Sys2Proof.Machine.execSqTailDoorbell f v s
  | .cqHeadDoorbell f v => Sys2Proof.Machine.execCqHeadDoorbell f v s
  | .ringCfgWrite f v => Sys2Proof.Machine.execRingCfgWrite f v s
  | .cqIrqWrite f v => Sys2Proof.Machine.execCqIrqWrite f v s
  | .submissionFetch f e => Sys2Proof.Machine.execSubmissionFetch f e s
  | .load f cid => Sys2Proof.Machine.execLoad f cid s
  | .abort f cid => Sys2Proof.Machine.execAbort f cid s
  | .setRole f cid => Sys2Proof.Machine.execSetRole f cid s
  | .addMember f cid => Sys2Proof.Machine.execAddMember f cid s
  | .submitJob f cid => Sys2Proof.Machine.execSubmitJob f cid s
  | .completionWrite f => Sys2Proof.Machine.execCompletionWrite f s
  | .cqInterruptTimeout f => Sys2Proof.Machine.execCqInterruptTimeout f s
  | .msixUnmask f v => Sys2Proof.Machine.execMsixUnmask f v s
  | .hostBar2Write f off data ep => Sys2Proof.Machine.execHostBar2Write f off data ep s
  | .hostBar2Read f off len => Sys2Proof.Machine.execHostBar2Read f off len s
  | .registerWrite f w => Sys2Proof.Machine.execRegisterWrite f w s
  | .flrVf n => Sys2Proof.Machine.execFlrVf n s
  | .flrPf => Sys2Proof.Machine.execFlrPf s
  | .workListReceive w => Sys2Proof.Machine.execWorkListReceive w s
  | .mailboxWrite f d second v => Sys2Proof.Machine.execMailboxWrite f d second v s
  | .grpDoneWrite f d v => Sys2Proof.Machine.execGrpDoneWrite f d v s
  | .completionAccept src epoch slot step => Sys2Proof.Machine.execCompletionAccept src epoch slot step s
  | .heartbeatTimer => Sys2Proof.Machine.execHeartbeatTimer s
  | .heartbeatReceive src epoch fault => Sys2Proof.Machine.execHeartbeatReceive src epoch fault s
  | .heartbeatCheck => Sys2Proof.Machine.execHeartbeatCheck s
  | .epochReceive m => Sys2Proof.Machine.execEpochReceive m s
  | .epochAckReceive src epoch => Sys2Proof.Machine.execEpochAckReceive src epoch s
  | .epochAckTimeout => Sys2Proof.Machine.execEpochAckTimeout s
  | .surveyTimer => Sys2Proof.Machine.execSurveyTimer s
  | .surveyRequestReceive src num epoch => Sys2Proof.Machine.execSurveyRequestReceive src num epoch s
  | .surveyReplyReceive src num epoch lo hi count => Sys2Proof.Machine.execSurveyReplyReceive src num epoch lo hi count s
  | .surveyChildTimeout => Sys2Proof.Machine.execSurveyChildTimeout s
  | .surveyDigestTimeout => Sys2Proof.Machine.execSurveyDigestTimeout s
  | .carReceive l fec car => Sys2Proof.Machine.execCarReceive l fec car s
  | .railWrite => Sys2Proof.Machine.execRailWrite s
  | .railRead => Sys2Proof.Machine.execRailRead s
  | .railMcwrite => Sys2Proof.Machine.execRailMcwrite s
  | .railReadResp => Sys2Proof.Machine.execRailReadResp s
  | .railWriteAck => Sys2Proof.Machine.execRailWriteAck s
  | .railErr => Sys2Proof.Machine.execRailErr s
  | .railReduce => Sys2Proof.Machine.execRailReduce s
  | .railBarrier m => Sys2Proof.Machine.execRailBarrier m s
  | .railCtrl m => Sys2Proof.Machine.execRailCtrl m s
  | .replayTimeout l => Sys2Proof.Machine.execReplayTimeout l s
  | .nakRepeat l => Sys2Proof.Machine.execNakRepeat l s
  | .groupPadTimeout l => Sys2Proof.Machine.execGroupPadTimeout l s
  | .messageCloseTimeout c n => Sys2Proof.Machine.execMessageCloseTimeout c n s
  | .responseTimeout tag => Sys2Proof.Machine.execResponseTimeout tag s
  | .linkTrainingComplete l r => Sys2Proof.Machine.execLinkTrainingComplete l r s
  | .linkRetrainTimeout l => Sys2Proof.Machine.execLinkRetrainTimeout l s
  | .linkRetryTimer l => Sys2Proof.Machine.execLinkRetryTimer l s
  | .railIsolationTimeout => Sys2Proof.Machine.execRailIsolationTimeout s
  | .scrub a e => Sys2Proof.Machine.execScrub a e s
  | .eccRateWindow => Sys2Proof.Machine.execEccRateWindow s
  | .vauxPor => Sys2Proof.Machine.execVauxPor s
  | .coldReset low strap => Sys2Proof.Machine.execColdReset low strap s
  | .pwrfail => Sys2Proof.Machine.execPwrfail s
  | .brownout => Sys2Proof.Machine.execBrownout s
  | .sag mv => Sys2Proof.Machine.execSag mv s
  | .sagClear => Sys2Proof.Machine.execSagClear s
  | .sagHoldExpire => Sys2Proof.Machine.execSagHoldExpire s
  | .clkfail => Sys2Proof.Machine.execClkfail s
  | .refclkReturn => Sys2Proof.Machine.execRefclkReturn s
  | .throttle d temp => Sys2Proof.Machine.execThrottle d temp s
  | .hot d temp => Sys2Proof.Machine.execHot d temp s
  | .thermtrip d temp => Sys2Proof.Machine.execThermtrip d temp s
  | .regfault => Sys2Proof.Machine.execRegfault s
  | .perst => Sys2Proof.Machine.execPerst s
  | .activate => Sys2Proof.Machine.execActivate s
  | .warm => Sys2Proof.Machine.execWarm s
  | .dieReset d => Sys2Proof.Machine.execDieReset d s
  | .coreReset c => Sys2Proof.Machine.execCoreReset c s
  | .powerControlStep r => Sys2Proof.Machine.execPowerControlStep r s
  | .pwrCapWrite v => Sys2Proof.Machine.execPwrCapWrite v s
  | .mgmt certOk => Sys2Proof.Machine.execMgmt certOk s
  | .early stack => Sys2Proof.Machine.execEarly stack s
  | .full tf => Sys2Proof.Machine.execFull tf s
  | .bootPushGo len => Sys2Proof.Machine.execBootPushGo len s
  | .bootFailReturn => Sys2Proof.Machine.execBootFailReturn s
  | .getMeasurements r idx nonce => Sys2Proof.Machine.execGetMeasurements r idx nonce s
  | .getCertificate r slot => Sys2Proof.Machine.execGetCertificate r slot s
  | .challenge r nonce => Sys2Proof.Machine.execChallenge r nonce s
  | .keyExchange r peer rootOk debug => Sys2Proof.Machine.execKeyExchange r peer rootOk debug s
  | .setOwner r ec ml => Sys2Proof.Machine.execSetOwner r ec ml s
  | .changeOwner r ec ml a => Sys2Proof.Machine.execChangeOwner r ec ml a s
  | .setPolicy r only a => Sys2Proof.Machine.execSetPolicy r only a s
  | .clearOwner r a => Sys2Proof.Machine.execClearOwner r a s
  | .getDebugNonce r => Sys2Proof.Machine.execGetDebugNonce r s
  | .unlockDebug r t => Sys2Proof.Machine.execUnlockDebug r t s
  | .lockInterface n nonce => Sys2Proof.Machine.execLockInterface n nonce s
  | .getDeviceInterfaceReport n => Sys2Proof.Machine.execGetDeviceInterfaceReport n s
  | .startInterfaceRequest n => Sys2Proof.Machine.execStartInterfaceRequest n s
  | .stopInterfaceRequest n => Sys2Proof.Machine.execStopInterfaceRequest n s
  | .keyProg f => Sys2Proof.Machine.execKeyProg f s
  | .kSetStop f => Sys2Proof.Machine.execKSetStop f s
  | .partitionCreate n w => Sys2Proof.Machine.execPartitionCreate n w s
  | .pldmGetSensorReading id v => Sys2Proof.Machine.execPldmGetSensorReading id v s
  | .pldmSetEffecter v => Sys2Proof.Machine.execPldmSetEffecter v s
  | .pldmGetFruRecord => Sys2Proof.Machine.execPldmGetFruRecord s
  | .pldmUpdateComponent id img => Sys2Proof.Machine.execPldmUpdateComponent id img s
  | .pldmActivateFirmware => Sys2Proof.Machine.execPldmActivateFirmware s
  | .setEndpointId eid => Sys2Proof.Machine.execSetEndpointId eid s
  | .entdaa addr => Sys2Proof.Machine.execEntdaa addr s
  | .setdasa addr => Sys2Proof.Machine.execSetdasa addr s
  | .rstdaa => Sys2Proof.Machine.execRstdaa s
  | .vauxLoss => Sys2Proof.Machine.execVauxLoss s
  | .pwrOkRise strap => Sys2Proof.Machine.execPwrOkRise strap s
  | .brownoutClear => Sys2Proof.Machine.execBrownoutClear s
  | .perstDeassert => Sys2Proof.Machine.execPerstDeassert s
  | .pcieLinkDown => Sys2Proof.Machine.execPcieLinkDown s
  | .dieResetComplete d => Sys2Proof.Machine.execDieResetComplete d s
  | .coreResetComplete c => Sys2Proof.Machine.execCoreResetComplete c s
  | .joinTimeout part => Sys2Proof.Machine.execJoinTimeout part s
  | .delayedEpochRaise => Sys2Proof.Machine.execDelayedEpochRaise s
  | .debugPortAccess a => Sys2Proof.Machine.execDebugPortAccess a s
  | .jctFreePost c => Sys2Proof.Machine.execJctFreePost c s

end Sys2Proof.Machine
end

