-- ==== Sys2Proof/WellFormed.lean ====
section
/-! DEFINITION. Which terms of `Instr` are commands that an agent can send: the operand sizes and codes that the types do not already bound. A meaning is total on the other terms too. -/

namespace Sys2Proof

/-- Lengths of a P-384 and an ML-DSA-87 public key (R466). -/
def keysOk (ec ml : List Byte) : Bool := decide (ec.length = 97 ∧ ml.length = 2592)

/-- The nonce and the two signatures of an owner request (R466, R468). -/
def OwnerAuth.wf (a : OwnerAuth) : Bool := decide (a.nonce.length = 32 ∧ a.ecsig.length = 96 ∧ a.mlsig.length = 4627)

/-- The fields of a debug token (R466, R475). -/
def DbgToken.wf (t : DbgToken) : Bool :=
  decide (t.serial.length = 16 ∧ t.nonce.length = 32 ∧ t.ecsig.length = 96 ∧ t.mlsig.length = 4627) && keysOk t.ecpub t.mlpub

/-- What the host does to registers: an access of 1 to 8 bytes of BAR0, aligned or not (R438, R439), or a value that the PCIe capability can hold (R435, R436, R442). -/
def HostWrite.wf : HostWrite → Bool
  | .bar0 off size v => decide (off < 0x4000000 ∧ 1 ≤ size ∧ size ≤ 8 ∧ v.toNat < 2 ^ (8 * size))
  | .bar0Read off size => decide (off < 0x4000000 ∧ 1 ≤ size ∧ size ≤ 8)
  | .clear _ off size v => decide (off < 0x4000000 ∧ 1 ≤ size ∧ size ≤ 8 ∧ v.toNat < 2 ^ (8 * size))
  | .aer _ => true
  | .lockedSetting => true
  | .prAlloc n => decide (n < 2 ^ 32)
  | .numVfs n => decide (n ≤ 8)
  | .bar2Size b => decide (30 ≤ b ∧ b ≤ 40)
  | .ats _ => true
  | .pri _ => true
  | .ideSecure _ => true

/-- A sequencer instruction is well formed when its words hold no reserved value (R337, R340, R356); an event when its operands have the sizes that the spec gives them. -/
def Instr.wf (i : Instr) : Bool :=
  match i with
  | .transferDeliver _ _ _ data h => decide (h = .good) || data.isEmpty
  | .prgResponse _ prg _ => decide (prg < 512)
  | .atsTranslationComplete _ a size _ _ =>
    decide (size ≠ 0 ∧ size % 4096 = 0 ∧ a.page % size = 0 ∧ a.page + size ≤ 2 ^ 64 ∧ a.dst % size = 0 ∧ a.dst + size ≤ 2 ^ 64)
  | .atsInvalidate _ addr size _ => decide (size ≠ 0 ∧ size % 4096 = 0 ∧ addr % size = 0 ∧ addr + size ≤ 2 ^ 64)
  | .submissionFetch _ e => decide (e.length = 64)
  | .hostBar2Write _ _ data _ => !data.isEmpty
  | .hostBar2Read _ _ len => decide (0 < len)
  | .registerWrite _ w => w.wf
  | .workListReceive w => decide (w.arg.length = 32)
  | .carReceive _ _ car => decide (car.length = 272)
  | .powerControlStep r => decide (r.vin < 65536)
  | .getMeasurements _ _ nonce | .challenge _ nonce | .lockInterface _ nonce => decide (nonce.length = 32)
  | .setOwner _ ec ml => keysOk ec ml
  | .changeOwner _ ec ml a => keysOk ec ml && a.wf
  | .setPolicy _ _ a | .clearOwner _ a => a.wf
  | .unlockDebug _ t => t.wf
  | i => i.encOk

end Sys2Proof
end

