-- ==== Sys2Proof/Certificates/Slice0/Obligations.lean ====
section
/-! DEFINITION. The statements for the provers, with the vocabulary that they share. -/

open Sys2Proof Sys2Proof.Machine

namespace Sys2Proof.Claims

/-- Nothing stands in the way of an instruction: its die exists, its core issues, its words are clean, its predicate reads 1, its encoding is good and no operand is owed. -/
abbrev Free (s : State) (i : Instr) (c : CoreId) (p : Fin 8) : Prop :=
  s.hasDie c.die = true ∧ (s.core c).ready = true ∧ (∀ m ∈ s.ecc, unitHit [(clmAddr c + (s.core c).pc.toNat, 8 * iwords i)] m.1 = false) ∧
    (s.core c).getP p = true ∧ (p = 0 ∨ (s.pendingP c).contains p = false) ∧ (i.encOk && i.accOk) = true ∧ s.owed c i = false

/-- Control runs straight on behind an instruction of `n` words: no loop body ends there and the text does not. -/
abbrev Straight (s : State) (c : CoreId) (n : Nat) : Prop :=
  (∀ r ∈ (s.core c).loops.head?, r.stop ≠ (s.core c).pc.toNat + 8 * n) ∧ (s.core c).pc.toNat + 8 * n < (s.core c).textLen

/-- The state with one core changed by `f` and its PC `n` words further. -/
def after (s : State) (c : CoreId) (n : Nat) (f : Core → Core) : State :=
  s.modCore c (fun k => { f k with pc := BitVec.ofNat 32 (k.pc.toNat + 8 * n) })

/-- The second operand of an ALU instruction: IMM sign-extended, or `rb` (R343). -/
def opB (k : Core) (l : LayA) : Word := if l.im then l.imm.signExtend 64 else k.getG l.rb

/-- The target of a `jmp` or `call` (R341). -/
def target (k : Core) (l : LayA) : Word := if l.im then k.pc.setWidth 64 + l.imm.signExtend 64 else k.getG l.ra

/-- A target that the sequencer may take: inside the text, 8-byte aligned, and for a register target on no extension word (R24). -/
abbrev Lands (s : State) (c : CoreId) (t : Word) (reg : Bool) : Prop :=
  t.toNat < (s.core c).textLen ∧ t.toNat % 8 = 0 ∧ (reg = true → s.isStart c t.toNat = true)

end Sys2Proof.Claims

open Sys2Proof.Claims

/-- R343: each two-operand ALU instruction writes its result to `rd` (a write to `g0` is ignored), advances the PC and changes nothing else. -/
def Sys2Proof.Claims.TwoOperandAlu : Prop :=
  ∀ (s : State) (c : CoreId) (p : Fin 8) (l : LayA), Straight s c 1 →
    let a := (s.core c).getG l.ra
    let b := opB (s.core c) l
    let done (v : Word) : Host.Outcome State Fault Refusal := .next (after s c 1 (fun k => k.setG l.rd v))
    (Free s (.add c p l) c p → exec (.add c p l) s = done (a + b)) ∧
    (Free s (.sub c p l) c p → exec (.sub c p l) s = done (a - b)) ∧
    (Free s (.mul c p l) c p → exec (.mul c p l) s = done (a * b)) ∧
    (Free s (.and c p l) c p → exec (.and c p l) s = done (a &&& b)) ∧
    (Free s (.or c p l) c p → exec (.or c p l) s = done (a ||| b)) ∧
    (Free s (.xor c p l) c p → exec (.xor c p l) s = done (a ^^^ b)) ∧
    (Free s (.shl c p l) c p → exec (.shl c p l) s = done (a <<< (b.toNat % 64))) ∧
    (Free s (.shr c p l) c p → exec (.shr c p l) s = done (a >>> (b.toNat % 64))) ∧
    (Free s (.sar c p l) c p → exec (.sar c p l) s = done (a.sshiftRight (b.toNat % 64))) ∧
    (Free s (.min c p l) c p → exec (.min c p l) s =
      done (if l.u then (if a.toNat < b.toNat then a else b) else (if a.toInt < b.toInt then a else b))) ∧
    (Free s (.max c p l) c p → exec (.max c p l) s =
      done (if l.u then (if a.toNat < b.toNat then b else a) else (if a.toInt < b.toInt then b else a)))

/-- R341, R343, R26: `nop` only advances; `li` writes IMM sign-extended or its extension word; `sel` selects by `ps`; `cmp` writes a predicate with the condition of its code, signed or unsigned. -/
def Sys2Proof.Claims.MoveSelectCompare : Prop :=
  (∀ (s : State) (c : CoreId) (p : Fin 8) (l : LayA),
      (Straight s c 1 → Free s (.nop c p l) c p → exec (.nop c p l) s = .next (after s c 1 id)) ∧
      (Straight s c 1 → Free s (.li c p l none) c p → exec (.li c p l none) s = .next (after s c 1 (fun k => k.setG l.rd (l.imm.signExtend 64)))) ∧
      (∀ x, Straight s c 2 → Free s (.li c p l (some x)) c p → exec (.li c p l (some x)) s = .next (after s c 2 (fun k => k.setG l.rd x))) ∧
      (Straight s c 1 → Free s (.sel c p l) c p → exec (.sel c p l) s =
        .next (after s c 1 (fun k => k.setG l.rd (if k.getP (Fin.ofNat 8 (l.imm.toNat / 2 ^ 29)) then k.getG l.ra else k.getG l.rb)))) ∧
      (∀ cc, Straight s c 1 → Free s (.cmp c p cc l) c p → exec (.cmp c p cc l) s =
        .next (after s c 1 (fun k => k.setP (Fin.ofNat 8 l.rd.val) (holds cc (k.getG l.ra) (opB k l)))))) ∧
  (∀ a b : Word,
      (holds .eq a b = decide (a = b)) ∧ (holds .ne a b = decide (a ≠ b)) ∧
      (holds .lt a b = decide (a.toInt < b.toInt)) ∧ (holds .ge a b = decide (b.toInt ≤ a.toInt)) ∧
      (holds .le a b = decide (a.toInt ≤ b.toInt)) ∧ (holds .gt a b = decide (b.toInt < a.toInt)) ∧
      (holds .ltu a b = decide (a.toNat < b.toNat)) ∧ (holds .geu a b = decide (b.toNat ≤ a.toNat)) ∧
      (holds .leu a b = decide (a.toNat ≤ b.toNat)) ∧ (holds .gtu a b = decide (b.toNat < a.toNat)))

/-- R343: the ALU instructions: the results of the two-operand ones, of `li`, `sel` and `cmp`, and of `nop`; none sets a flag or raises a fault, and nothing but the destination and the PC changes. -/
def Obligations.AluResults : Prop := Claims.TwoOperandAlu ∧ Claims.MoveSelectCompare

/-- R24, R341, R342: where `jmp`, `call`, `ret`, `br`, `loop` and `halt` continue; a taken jump ends the loops whose bodies do not hold its target. Readings and choices of the model that it rests on: log 28, 29. -/
def Obligations.ControlFlow : Prop :=
  ∀ (s : State) (c : CoreId) (p : Fin 8) (l : LayA),
    let k := s.core c
    let t := target k l
    let u := k.pc.setWidth 64 + l.imm.signExtend 64
    (Free s (.jmp c p l) c p → Lands s c t (!l.im) → exec (.jmp c p l) s =
      .next (s.modCore c (fun k => { k with pc := t.setWidth 32, loops := keepLoops t.toNat k.loops }))) ∧
    (Free s (.call c p l) c p → k.ret.length < 16 → Lands s c t (!l.im) → exec (.call c p l) s =
      .next (s.modCore c (fun k => { k with pc := t.setWidth 32, ret := (k.pc + 8) :: k.ret }))) ∧
    (∀ r rest, Free s (.ret c p l) c p → k.ret = r :: rest → Lands s c (r.setWidth 64) false → exec (.ret c p l) s =
      .next (s.modCore c (fun k => { k with pc := r, ret := rest }))) ∧
    (∀ cc, Free s (.br c p cc l) c p → holds cc (k.getG l.ra) (k.getG l.rb) = true → Lands s c u false → exec (.br c p cc l) s =
      .next (s.modCore c (fun k => { k with pc := u.setWidth 32, loops := keepLoops u.toNat k.loops }))) ∧
    (∀ cc, Free s (.br c p cc l) c p → holds cc (k.getG l.ra) (k.getG l.rb) = false → Straight s c 1 → exec (.br c p cc l) s =
      .next (after s c 1 id)) ∧
    (Free s (.loop c p l) c p → Straight s c 1 → k.loops.length < 4 →
      let n := if l.im then l.imm.toNat / 65536 else (k.getG l.ra).toNat % 2 ^ 32
      let stop := k.pc.toNat + 8 + 8 * (l.imm.toNat % 65536)
      (n ≠ 0 → exec (.loop c p l) s = .next (after s c 1 (fun k => { k with loops := ⟨k.pc.toNat + 8, stop, n - 1⟩ :: k.loops }))) ∧
      (n = 0 → (∀ r ∈ k.loops.head?, r.stop ≠ stop) → stop < k.textLen →
        exec (.loop c p l) s = .next (s.modCore c (fun k => { k with pc := BitVec.ofNat 32 stop })))) ∧
    (Free s (.halt c p l) c p → exec (.halt c p l) s = .next (s.modCore c (fun k => { k with run := .halting })))

/-- R24, R340, R341, R342: the stack, loop and branch breaches and `trap` raise ILLEGAL_INSTR with their causes, and none of their effects happens. -/
def Obligations.ControlFaults : Prop :=
  ∀ (s : State) (c : CoreId) (p : Fin 8) (l : LayA),
    let k := s.core c
    let t := target k l
    (Free s (.call c p l) c p → k.ret.length = 16 → exec (.call c p l) s = .next (s.coreFault c ⟨0x0203, k.pc, 0, 0, []⟩)) ∧
    (Free s (.ret c p l) c p → k.ret = [] → exec (.ret c p l) s = .next (s.coreFault c ⟨0x0203, k.pc, 0, 0, []⟩)) ∧
    (Free s (.loop c p l) c p → k.loops.length = 4 → (if l.im then l.imm.toNat / 65536 else (k.getG l.ra).toNat % 2 ^ 32) ≠ 0 →
      exec (.loop c p l) s = .next (s.coreFault c ⟨0x0204, k.pc, 0, 0, []⟩)) ∧
    (Free s (.jmp c p l) c p → ¬Lands s c t (!l.im) → exec (.jmp c p l) s = .next (s.coreFault c ⟨0x0202, k.pc, t.setWidth 32, 0, []⟩)) ∧
    (Free s (.nop c p l) c p → k.loops = [] → k.textLen ≤ k.pc.toNat + 8 →
      exec (.nop c p l) s = .next (s.coreFault c ⟨0x0202, k.pc, BitVec.ofNat 32 k.textLen, 0, []⟩)) ∧
    (Free s (.trap c p l) c p → exec (.trap c p l) s =
      .next (s.coreFault c ⟨0x0212, k.pc, BitVec.ofNat 32 (l.imm.toNat % 65536), 0, leBytes 8 (k.getG l.ra).toNat⟩))

/-- R342: at the end of its body a loop with repeats left continues at its first word with one repeat fewer; without, it ends and the next enclosing loop decides; a jump keeps exactly the loops outside every loop whose body does not hold the target. -/
def Obligations.LoopBodyEnd : Prop :=
  (∀ (s : State) (c : CoreId) (p : Fin 8) (l : LayA) (r : LoopRec) (rest : List LoopRec), Free s (.nop c p l) c p →
      (s.core c).loops = r :: rest → r.stop = (s.core c).pc.toNat + 8 →
      (r.left ≠ 0 → r.start < (s.core c).textLen → exec (.nop c p l) s =
        .next (s.modCore c (fun k => { k with pc := BitVec.ofNat 32 r.start, loops := { r with left := r.left - 1 } :: rest }))) ∧
      (r.left = 0 → (∀ q ∈ rest.head?, q.stop ≠ r.stop) → r.stop < (s.core c).textLen → exec (.nop c p l) s =
        .next (s.modCore c (fun k => { k with pc := BitVec.ofNat 32 r.stop, loops := rest }))) ∧
      (∀ q more, r.left = 0 → rest = q :: more → q.stop = r.stop → q.left ≠ 0 → q.start < (s.core c).textLen → exec (.nop c p l) s =
        .next (s.modCore c (fun k => { k with pc := BitVec.ofNat 32 q.start, loops := { q with left := q.left - 1 } :: more })))) ∧
  (∀ (t : Nat) (ls : List LoopRec), ∃ n, keepLoops t ls = ls.drop n ∧ n ≤ ls.length ∧
      (∀ r ∈ ls.drop n, r.start ≤ t ∧ t < r.stop) ∧ (∀ h : 0 < n ∧ n ≤ ls.length, ¬((ls[n - 1]'(by omega)).start ≤ t ∧ t < (ls[n - 1]'(by omega)).stop)))

/-- R344, R376: a `ld` writes `r` with the bytes at ra + IMM, extended as SX states, from its own CLM, from its own register block, and from a device address, where an access narrower than a register reads its bytes of it; to the host it goes Untranslated, or with ATS through the ATC, asking once for a translation that misses while the function's 1,024 non-posted requests have room. Readings and choices of the model that it rests on: log 31, 133, 154. -/
def Obligations.LdResults : Prop :=
  ∀ (s : State) (c : CoreId) (p : Fin 8) (l : LayL) (h : HostEnd) (v : Word), Free s (.ld c p l h v) c p → Straight s c 1 →
    let a := (memAddr (s.core c) l).toNat
    let n := 2 ^ l.size.toNat
    let clean (x : Nat) : Prop := ∀ m ∈ s.ecc, unitHit [(x, n)] m.1 = false
    let done (w : Word) : Host.Outcome State Fault Refusal := .next (after s c 1 (fun k => k.setG l.r w))
    let reg (f : Fin 9) (b : CoreId) (o : Nat) : Word := extend n l.sx ((s.blockRead f b (o / 8 * 8)).toNat / 2 ^ (8 * (o % 8)))
    a % n = 0 →
    (l.space = 0 → a + n ≤ 2 ^ 23 → clean (clmAddr c + a) → exec (.ld c p l h v) s = done (extend n l.sx (s.mem.readN (clmAddr c + a) n))) ∧
    (l.space = 1 → a < 2 ^ 20 → ∀ x, (s.core c).sect = some x → exec (.ld c p l h v) s = done (s.blockRead (s.fnOf x.part) c a)) ∧
    (∀ x sec, l.space = 2 → s.devAddr a = .loc x → (s.core c).sect = some sec → s.inBounds sec.part x n = true →
      (∀ y, s.region x = .host y → (s.fn (s.fnOf sec.part)).ats = false → h = .good →
        exec (.ld c p l h v) s = .next (after (s.send (.hostRead (s.fnOf sec.part) y n)) c 1 (fun k => k.setG l.r (extend n l.sx v.toNat)))) ∧
      (∀ y, s.region x = .host y → (s.fn (s.fnOf sec.part)).ats = true → h = .good →
        (∀ e, s.atcFind (s.fnOf sec.part) (y / 4096) = some e → e.rd = true → exec (.ld c p l h v) s =
          .next (after ((s.atcUse (s.fnOf sec.part) (y / 4096)).send (.hostReadTr (s.fnOf sec.part) (e.map (y / 4096) * 4096 + y % 4096) n)) c 1
            (fun k => k.setG l.r (extend n l.sx v.toNat)))) ∧
        (s.atcFind (s.fnOf sec.part) (y / 4096) = none → s.pkg.atsAsked.contains (s.fnOf sec.part, y / 4096) = false → s.nonPosted (s.fnOf sec.part) < 1024 → exec (.ld c p l h v) s =
          .next (((s.modCore c (fun k => { k with stalled := some (.ld c p l h v) })).modPkg (fun q => { q with atsAsked := q.atsAsked ++ [(s.fnOf sec.part, y / 4096)] })).send
            (.atsRequest (s.fnOf sec.part) (y / 4096 * 4096) false))) ∧
        (s.atcFind (s.fnOf sec.part) (y / 4096) = none → (s.pkg.atsAsked.contains (s.fnOf sec.part, y / 4096) = true ∨ 1024 ≤ s.nonPosted (s.fnOf sec.part)) →
          exec (.ld c p l h v) s = .next (s.modCore c (fun k => { k with stalled := some (.ld c p l h v) })))) ∧
      (∀ d o, s.region x = .dieReg d o → exec (.ld c p l h v) s = done (reg (s.fnOf sec.part) ⟨d, Fin.ofNat 16 (o / 2 ^ 20)⟩ (o % 2 ^ 20))) ∧
      ((∀ y, s.region x ≠ .host y) → (∀ d o, s.region x ≠ .dieReg d o) → clean x →
        exec (.ld c p l h v) s = .next (after (s.wakeFor x) c 1 (fun k => k.setG l.r (extend n l.sx (s.mem.readN x n))))))

/-- R344, R379: a misaligned `ld` or `st` raises ALIGN, one beyond its space or the partition BOUNDS, and a `ld` of poisoned data UNC_LD; `r` is not written. -/
def Obligations.LdStFaults : Prop :=
  ∀ (s : State) (c : CoreId) (p : Fin 8) (l : LayL) (h : HostEnd) (v : Word),
    let k := s.core c
    let w := memAddr k l
    let n := 2 ^ l.size.toNat
    (Free s (.ld c p l h v) c p → w.toNat % n ≠ 0 → exec (.ld c p l h v) s = .next (s.coreFault c ⟨0x0206, k.pc, w.setWidth 32, w.toNat, []⟩)) ∧
    (Free s (.st c p l) c p → s.storesOut c = false → w.toNat % n ≠ 0 → exec (.st c p l) s = .next (s.coreFault c ⟨0x0206, k.pc, w.setWidth 32, w.toNat, []⟩)) ∧
    (Free s (.ld c p l h v) c p → w.toNat % n = 0 → l.space = 0 → 2 ^ 23 < w.toNat + n →
      exec (.ld c p l h v) s = .next (s.coreFault c ⟨0x0207, k.pc, w.setWidth 32, w.toNat, []⟩)) ∧
    (Free s (.ld c p l h v) c p → w.toNat % n = 0 → l.space = 1 → 2 ^ 20 ≤ w.toNat →
      exec (.ld c p l h v) s = .next (s.coreFault c ⟨0x0207, k.pc, w.setWidth 32, w.toNat, []⟩)) ∧
    (∀ x sec, Free s (.ld c p l h v) c p → w.toNat % n = 0 → l.space = 2 → s.devAddr w.toNat = .loc x → k.sect = some sec → s.inBounds sec.part x n = false →
      exec (.ld c p l h v) s = .next (s.coreFault c ⟨0x0207, k.pc, w.setWidth 32, w.toNat, []⟩)) ∧
    (Free s (.st c p l) c p → s.storesOut c = false → w.toNat % n = 0 →
      let bounds : Prop := exec (.st c p l) s = .next (s.coreFault c ⟨0x0207, k.pc, w.setWidth 32, w.toNat, []⟩)
      (l.space = 0 → 2 ^ 23 < w.toNat + n → bounds) ∧
      (l.space = 1 → (2 ^ 20 ≤ w.toNat ∨ isDspCtl w.toNat = true) → bounds) ∧
      (l.space = 2 → s.devAddr w.toNat = .bad → bounds) ∧
      (∀ x sec, l.space = 2 → s.devAddr w.toNat = .loc x → k.sect = some sec → s.inBounds sec.part x n = false → bounds)) ∧
    (Free s (.ld c p l h v) c p → w.toNat % n = 0 → l.space = 2 → s.devAddr w.toNat = .bad →
      exec (.ld c p l h v) s = .next (s.coreFault c ⟨0x0207, k.pc, w.setWidth 32, w.toNat, []⟩)) ∧
    (∀ u, Free s (.ld c p l h v) c p → w.toNat % n = 0 → l.space = 0 → w.toNat + n ≤ 2 ^ 23 → s.ecc = [(u, .poison)] → unitHit [(clmAddr c + w.toNat, n)] u = true →
      exec (.ld c p l h v) s = .next (s.uncFault c 0x0801 k.pc 0 u))

/-- R344, R25, R376: a `st` stores the low SIZE bytes of `r` in its own CLM above the text region, in a register block or at a device address, which it wakes if it is the CLM of a Collapsed core; below the text region's end it raises TEXT_WRITE. Readings and choices of the model that it rests on: log 24, 32. -/
def Sys2Proof.Claims.StStores : Prop :=
  ∀ (s : State) (c : CoreId) (p : Fin 8) (l : LayL), Free s (.st c p l) c p → Straight s c 1 → s.storesOut c = false →
    let k := s.core c
    let w := memAddr k l
    let a := w.toNat
    let n := 2 ^ l.size.toNat
    let bs := leBytes n (k.getG l.r).toNat
    a % n = 0 →
    (l.space = 0 → s.textRegion c ≤ a → a + n ≤ 2 ^ 23 → exec (.st c p l) s = .next (after (s.memWrite (clmAddr c + a) bs) c 1 id)) ∧
    (l.space = 0 → a < s.textRegion c → a + n ≤ 2 ^ 23 → exec (.st c p l) s = .next (s.coreFault c ⟨0x0205, k.pc, w.setWidth 32, 0, []⟩)) ∧
    (l.space = 1 → a < 2 ^ 20 → isDspCtl a = false → exec (.st c p l) s = .next ((s.blockWrite c a (k.getG l.r)).advance c 1)) ∧
    (∀ x sec, l.space = 2 → s.devAddr a = .loc x → k.sect = some sec → s.inBounds sec.part x n = true →
      (∀ y, s.region x = .tierN y ∨ s.region x = .tierF y → exec (.st c p l) s = .next (after (s.memWrite x bs) c 1 id)) ∧
      (∀ d y, s.region x = .depot d y → exec (.st c p l) s = .next (after (s.memWrite x bs) c 1 id)) ∧
      (∀ d y, s.region x = .clm d y → s.textRegion d ≤ y → exec (.st c p l) s = .next (after ((s.wakeFor x).memWrite x bs) c 1 id)) ∧
      (∀ d o, s.region x = .dieReg d o → isDspCtl (o % 2 ^ 20) = false →
        let b : CoreId := ⟨d, Fin.ofNat 16 (o / 2 ^ 20)⟩
        (n = 8 → exec (.st c p l) s = .next ((s.blockWrite b (o % 2 ^ 20) (k.getG l.r)).advance c 1)) ∧
        (n ≠ 8 → 0x3000 ≤ o % 2 ^ 20 → o % 2 ^ 20 < 0x3200 →
          exec (.st c p l) s = .next (after (s.modCore b (fun k => { k with badPost := satAdd k.badPost 1 })) c 1 id)) ∧
        (n ≠ 8 → ¬(0x3000 ≤ o % 2 ^ 20 ∧ o % 2 ^ 20 < 0x3200) → ¬(0x2000 ≤ o % 2 ^ 20 ∧ o % 2 ^ 20 < 0x2200 ∧ o % 2 ^ 20 % 0x40 < 8) →
          exec (.st c p l) s = .next (after s c 1 id))) ∧
      (∀ y, s.region x = .host y → (s.fn (s.fnOf sec.part)).ats = false →
        exec (.st c p l) s = .next (after (s.send (.hostWrite (s.fnOf sec.part) y bs)) c 1 id)) ∧
      (∀ y e, s.region x = .host y → (s.fn (s.fnOf sec.part)).ats = true → s.atcFind (s.fnOf sec.part) (y / 4096) = some e → e.wr = true →
        exec (.st c p l) s = .next (after ((s.atcUse (s.fnOf sec.part) (y / 4096)).send (.hostWriteTr (s.fnOf sec.part) (e.map (y / 4096) * 4096 + y % 4096) bs)) c 1 id)))

namespace Sys2Proof.Claims

/-- The bytes of memory that a `st` stores: their first address and their number; none for a store to registers, to the host or to another part. -/
def stored (s : State) (c : CoreId) (l : LayL) : Nat × Nat :=
  let a := (memAddr (s.core c) l).toNat
  let n := 2 ^ l.size.toNat
  if l.space = 0 then (clmAddr c + a, n)
  else if l.space = 2 then
    match s.devAddr a with
    | .loc x => (match s.region x with | .tierN _ | .tierF _ | .depot _ _ | .clm _ _ => (x, n) | _ => (0, 0))
    | _ => (0, 0)
  else (0, 0)

end Sys2Proof.Claims

/-- The frame of `st`: when it raises no fault, no general register, legend register, return entry or FLAGS_SUM bit of its core changes, and every byte of memory outside the stored bytes reads as before unless the store goes to a register (a post there may start further work). Readings and choices of the model that it rests on: log 24. -/
def Sys2Proof.Claims.StFrame : Prop :=
  ∀ (s t : State) (c : CoreId) (p : Fin 8) (l : LayL), s.mem.wf = true → exec (.st c p l) s = .next t → (t.core c).fring = (s.core c).fring →
    (t.core c).g = (s.core c).g ∧ (t.core c).d = (s.core c).d ∧ (t.core c).flagsSum = (s.core c).flagsSum ∧ (t.core c).ret = (s.core c).ret ∧
    (l.space ≠ 1 → (∀ x d o, s.devAddr (memAddr (s.core c) l).toNat = .loc x → s.region x ≠ .dieReg d o) →
      ∀ x, (x < (stored s c l).1 ∨ (stored s c l).1 + (stored s c l).2 ≤ x) → t.mem.get x = s.mem.get x)

/-- R27, R8: `csr.rd` reads the eight CSRs into `r`; `csr.wr` to FLAGS_SUM clears the bits written as 1 and changes no other CSR. -/
def Obligations.CsrResults : Prop :=
  ∀ (s : State) (c : CoreId) (p : Fin 8) (l : LayL), Straight s c 1 →
    let k := s.core c
    (Free s (.csrRd c p l) c p →
      let done (v : Word) : Prop := exec (.csrRd c p l) s = .next (after s c 1 (fun k => k.setG l.r v))
      (l.imm = 0 → done (BitVec.ofNat 64 (c.core.val + 16 * c.die.val + 256 * c.pkg))) ∧
      (l.imm = 1 → done (BitVec.ofNat 64 (s.pkg.partId.toNat + 4096 * k.partition.val))) ∧
      (l.imm = 2 → done (BitVec.ofNat 64 (k.cycleQ / 4))) ∧
      (l.imm = 3 → done s.pkg.aclk) ∧
      (l.imm = 4 → done (BitVec.ofNat 64 (k.tsrRing.toNat % 2 ^ 27))) ∧
      (l.imm = 5 → done (k.tsrCount.setWidth 64)) ∧
      (l.imm = 6 → done (k.flagsSum.setWidth 64)) ∧
      (l.imm = 7 → done (k.taskInfo.setWidth 64))) ∧
    (Free s (.csrWr c p l) c p →
      (l.imm = 6 → exec (.csrWr c p l) s = .next (after s c 1 (fun k => { k with flagsSum := k.flagsSum &&& ~~~((k.getG l.ra).setWidth 13) }))) ∧
      (l.imm ≠ 6 → exec (.csrWr c p l) s = .next (after s c 1 id)))

/-- R345, R346, R347: `lg.set` loads a legend from CLM or from the task's legend table, `lg.mod` replaces one field, and `lg.view` writes the moved view, with its extension into the next register for an extended source. -/
def Sys2Proof.Claims.LegendInstructions : Prop :=
  ∀ (s : State) (c : CoreId) (p : Fin 8), Straight s c 1 →
    let k := s.core c
    (∀ l : LaySet, Free s (.lgSet c p l) c p →
      let a := (k.getG l.ra + l.imm.signExtend 64).toNat
      (l.tbl = false → a % 32 = 0 → a + 32 ≤ 2 ^ 23 → (∀ m ∈ s.ecc, unitHit [(clmAddr c + a, 32)] m.1 = false) →
        exec (.lgSet c p l) s = .next (after s c 1 (fun k => k.setD l.dd (BitVec.ofNat 256 (s.mem.readN (clmAddr c + a) 32))))) ∧
      (∀ x t, l.tbl = true → k.sect = some x → s.pkg.legTab.find? (fun e => e.1 = x.task) = some (x.task, t) →
        exec (.lgSet c p l) s = .next (after s c 1 (fun k => k.setD l.dd (t.getD l.imm.toNat 0))))) ∧
    (∀ l : LayMod, Free s (.lgMod c p l) c p →
      exec (.lgMod c p l) s = .next (after s c 1 (fun k => k.setD l.dd
        (setFld (k.getD l.dd) (modField l.field.toNat).1 (modField l.field.toNat).2 (if l.im then l.imm.signExtend 64 else k.getG l.ra).toNat)))) ∧
    (∀ l : LayView, Free s (.lgView c p l) c p →
      let r := legView (k.view l.ds) (ViewOff.ofRegs (k.getG l.ra) (k.getG l.rb) (k.getG l.rc))
      (Leg.extd (k.getD l.ds) = false → exec (.lgView c p l) s = .next (after s c 1 (fun k => k.setD l.dd r.1))) ∧
      (Leg.extd (k.getD l.ds) = true → l.dd ≠ 31 → exec (.lgView c p l) s = .next (after s c 1 (fun k => (k.setD l.dd r.1).setD (l.dd + 1) r.2))) ∧
      (Leg.extd (k.getD l.ds) = true → l.dd = 31 → exec (.lgView c p l) s = .next (s.coreFault c ⟨0x0208, k.pc, 31, 0, []⟩)))

/-- R347, R31: `lg.view` of a dense two-dimensional legend with byte-sized elements advances BASE by o0 elements and o1 rows, shrinks the extents by the offsets and caps them at the limits, and keeps every other field. -/
def Sys2Proof.Claims.DenseView : Prop :=
  ∀ (v : View) (o : ViewOff) (f : Fmt), Leg.sparse v.prim = 0 → Fmt.ofCode (Leg.fmtCode v.prim) = some f → f.bits % 8 = 0 → Leg.ndim v.prim ≤ 2 →
    let r := (legView v o).1
    Leg.base r = (((Leg.base v.prim : Int) + o.o0 * (f.bits / 8) + o.o1 * Leg.stride1 v.prim +
      o.o2 * v.strides.2.1 + o.o3 * v.strides.2.2.1 + o.o4 * v.strides.2.2.2) % 2 ^ 64).toNat ∧
    Leg.ext0 r = (if o.l0 = 0 then Leg.ext0 v.prim - o.o0 else min (Leg.ext0 v.prim - o.o0) o.l0) ∧
    Leg.ext1 r = (if o.l1 = 0 then Leg.ext1 v.prim - o.o1 else min (Leg.ext1 v.prim - o.o1) o.l1) ∧
    Leg.ndim r = Leg.ndim v.prim ∧ Leg.fmtCode r = Leg.fmtCode v.prim ∧ Leg.stride1 r = Leg.stride1 v.prim ∧ Leg.strict r = Leg.strict v.prim ∧
    Leg.scale r = Leg.scale v.prim ∧ Leg.trn r = Leg.trn v.prim ∧ Leg.extd r = Leg.extd v.prim ∧ (legView v o).2 = v.ext

/-- R31, R345, R346, R347: the legend instructions, and what `lg.view` makes of a dense legend. -/
def Obligations.LegendResults : Prop := Claims.LegendInstructions ∧ Claims.DenseView

/-- R344: where `st` puts its bytes, and what it leaves unchanged. -/
def Obligations.StResults : Prop := Claims.StStores ∧ Claims.StFrame

namespace Sys2Proof.Claims

/-- No core of the die holds a wait or a take on a semaphore, its FCLK cycle takes no further update, and no reduction context is enabled: a change of the semaphore starts nothing. -/
abbrev Quiet (s : State) (b : CoreId) (n : Fin 64) : Prop :=
  (s.core b).boxOpen.getLsbD n.val = false ∧ (∀ i : Fin 16, (s.core ⟨b.die, i⟩).waitsOn 1 b.core n = none ∧ (s.core ⟨b.die, i⟩).waitsOn 2 b.core n = none) ∧
    s.pkg.rdctx.toList.all (fun w => !(rdEn w)) = true

/-- The state with one semaphore set; the markers and the bag that its old value admits have observed it (R311). -/
def semSet (s : State) (b : CoreId) (n : Fin 64) (v : BitVec 32) : State :=
  s.modCore b (fun k => { k.noteMet n with sems := vset k.sems n v, moved := k.moved || decide (vget k.sems n ≠ v) })

/-- An instruction of the signal-box queue that nothing holds up: it is free, the queue is empty and no store to another part is unacknowledged. -/
abbrev AtOnce (s : State) (i : Instr) (c : CoreId) (p : Fin 8) : Prop :=
  Free s i c p ∧ (s.core c).qSyn = [] ∧ s.storesOut c = false

/-- The core with its next issue number. -/
def seqUp (k : Core) : Core := { k with seq := k.seq + 1 }

/-- The core with a command at the end of its signal-box queue (R20). -/
def synQueued (x : SynCmd) (k : Core) : Core := { k with qSyn := k.qSyn ++ [.cmd k.seq k.pc x], seq := k.seq + 1 }

/-- An instruction of the signal-box queue issues, and the box then serves it: the state behind both (R22, R307). -/
def Served (s : State) (i : Instr) (c : CoreId) (t : State) : Prop :=
  ∃ u, exec i s = .next u ∧ exec (.engineCommandBegin c .syn) u = .next t

/-- The amount or target of a `sem.*` instruction (R306). -/
def amount (k : Core) (l : LayY) : BitVec 32 := if l.im then l.imm.setWidth 32 else (k.getG l.ra).setWidth 32

/-- The box that a `sem.*` instruction names (R309). -/
def boxOf (c : CoreId) (l : LayY) : CoreId := ⟨c.die, if l.die then l.core else c.core⟩

/-- An agent reaches a port of a core block: the die exists, the access arrives, lies in its bounds, and finds the die out of reset and the core awake. -/
abbrev Reaches (s : State) (a : Agent) (c : CoreId) : Prop :=
  s.hasDie c.die = true ∧ s.arrives a = true ∧ s.reaches a c.die = true ∧ (s.die c.die).resetting = false ∧ (s.core c).pstate ≠ .collapsed

end Sys2Proof.Claims

/-- R20, R307, R316: an instruction of the signal-box queue joins the queue as it issues, with its operands as they stand then; one that holds the sequencer shows its wait from issue on. Readings and choices of the model that it rests on: log 33. -/
def Sys2Proof.Claims.SynIssue : Prop :=
  ∀ (s : State) (c : CoreId) (p : Fin 8), (s.core c).qSyn.length < 8 →
    let k := s.core c
    let queued (x : SynCmd) : Host.Outcome State Fault Refusal := .next (after s c 1 (synQueued x))
    let held (w : Wait) (x : SynCmd) : Host.Outcome State Fault Refusal := .next (s.modCore c (fun k => { synQueued x k with wait := some w }))
    (∀ l : LayY,
      let b := (boxOf c l).core
      let t := (k.getG l.rto).setWidth 32
      (Straight s c 1 →
        (Free s (.semAdd c p l) c p → exec (.semAdd c p l) s = queued (.semAdd b l.sem (amount k l))) ∧
        (Free s (.semSub c p l) c p → exec (.semSub c p l) s = queued (.semSub b l.sem (amount k l))) ∧
        (Free s (.semRead c p l) c p → exec (.semRead c p l) s = queued (.semRead b l.sem l.gd))) ∧
      (Free s (.semWait c p l) c p → exec (.semWait c p l) s =
        held ⟨1, l.sem, b, amount k l, decide (t ≠ 0), l.pd, false⟩ (.semWait b l.sem (amount k l) t l.pd)) ∧
      (Free s (.semTake c p l) c p → exec (.semTake c p l) s =
        held ⟨2, l.sem, b, amount k l, decide (t ≠ 0), l.pd, false⟩ (.semTake b l.sem (amount k l) t l.pd))) ∧
    (∀ l : LayB,
      let t := (k.getG l.rto).setWidth 32
      (Straight s c 1 → Free s (.barArrive c p l) c p → exec (.barArrive c p l) s = queued (.barArrive l.ch)) ∧
      (Free s (.barWait c p l) c p → exec (.barWait c p l) s =
        held ⟨3, Fin.ofNat 64 l.ch.val, c.core, (vget k.bars l.ch).tgt, decide (t ≠ 0), l.pd, false⟩ (.barWait l.ch t l.pd))) ∧
    (∀ l : LayT, Straight s c 1 →
      (Free s (.dspTake c p l) c p → k.takeOut l.k = false → (if l.retire then 0 < s.tickets c l.k else s.tickets c l.k < 4) →
        exec (.dspTake c p l) s = queued (.dspTake l.k l.retire l.gd)) ∧
      (Free s (.dspSetLimit c p l) c p → (k.getG l.ra).toNat ≤ 0xFFFFFFFD → exec (.dspSetLimit c p l) s = queued (.dspLimit l.k ((k.getG l.ra).setWidth 32))) ∧
      (Free s (.dspSetNext c p l) c p → exec (.dspSetNext c p l) s = queued (.dspNext l.k ((k.getG l.ra).setWidth 32))) ∧
      (Free s (.dspSetRetire c p l) c p → k.takeOut l.k = false → 0 < s.tickets c l.k → exec (.dspSetRetire c p l) s = queued (.dspRetire l.k))) ∧
    (∀ l : LayQ, Straight s c 1 →
      (Free s (.qPush c p l) c p → exec (.qPush c p l) s = queued (.qPush l.q l.sop l.eop (k.getG l.ra))) ∧
      (Free s (.qPop c p l) c p → exec (.qPop c p l) s = queued (.qPop l.q l.gd)))

/-- R303, R306, R311, R316: a `sem.add`, a `sem.sub` and a post change the semaphore modulo 2^32 when the box serves them; the posts that reach the box in one FCLK cycle combine into one update; a post to an undeclared semaphore or of another size only counts in BADPOST. Readings and choices of the model that it rests on: log 33, 151, 152. -/
def Obligations.SemaphoreUpdates : Prop :=
  (∀ (s : State) (c : CoreId) (p : Fin 8) (l : LayY), Straight s c 1 → Quiet s (boxOf c l) l.sem →
    let v := s.sem (boxOf c l) l.sem
    (AtOnce s (.semAdd c p l) c p → Served s (.semAdd c p l) c
      (after (semSet (s.modCore c seqUp) (boxOf c l) l.sem (v + amount (s.core c) l)) c 1 id)) ∧
    (AtOnce s (.semSub c p l) c p → Served s (.semSub c p l) c
      (after (semSet (s.modCore c seqUp) (boxOf c l) l.sem (v - amount (s.core c) l)) c 1 id))) ∧
  (∀ (s : State) (a : Agent) (c : CoreId) (n : Fin 64) (amt : BitVec 32) (x : Section), Reaches s a c → (s.core c).sect = some x →
    let bad : State := s.modCore c (fun k => { k with badPost := satAdd k.badPost 1 })
    (∀ ws : List PostAt, Quiet s c n → (∀ w ∈ ws, w.full = true ∧ Reaches s w.agent c) → x.semMask.getLsbD n.val = true →
      let more (v : BitVec 32) : BitVec 32 := ws.foldl (fun v w => if w.sub then v - w.amt else v + w.amt) v
      exec (.sempostAdd a c n ⟨true, ws⟩ amt) s = .next (semSet s c n (more (s.sem c n + amt))) ∧
      exec (.sempostSub a c n ⟨true, ws⟩ amt) s = .next (semSet s c n (more (s.sem c n - amt)))) ∧
    (x.semMask.getLsbD n.val = false → exec (.sempostAdd a c n ⟨true, []⟩ amt) s = .next bad ∧ exec (.sempostSub a c n ⟨true, []⟩ amt) s = .next bad) ∧
    (∀ ws : List PostAt, Quiet s c n → (∀ w ∈ ws, w.full = true ∧ Reaches s w.agent c) → x.semMask.getLsbD n.val = false →
      ∃ t, exec (.sempostAdd a c n ⟨true, ws⟩ amt) s = .next t ∧ (t.core c).sems = (s.core c).sems ∧
        (t.core c).badPost = ws.foldl (fun b _ => satAdd b 1) (satAdd (s.core c).badPost 1)) ∧
    (∀ q, a = .remote q → exec (.sempostAdd a c n ⟨false, []⟩ amt) s = .next bad ∧ exec (.sempostSub a c n ⟨false, []⟩ amt) s = .next bad) ∧
    (∀ f, a = .host f → exec (.sempostAdd a c n ⟨false, []⟩ amt) s = .next
      (bad.modPkg (fun p => { p with fns := vmod p.fns f (fun h => { h with badwr := satAdd h.badwr 1 }) }))))

/-- R304, R306, R307, R311, R312: a `sem.wait` or `sem.take` whose target the value meets by the serial comparison completes with `pd` 1, a take subtracts its target; otherwise the sequencer is held. `sem.read` owes the value to `gd`. Each takes effect when the box serves it. Readings and choices of the model that it rests on: log 33. -/
def Sys2Proof.Claims.WaitsServed : Prop :=
  ∀ (s : State) (c : CoreId) (p : Fin 8) (l : LayY), Straight s c 1 → Quiet s (boxOf c l) l.sem →
    let v := s.sem (boxOf c l) l.sem
    let n := amount (s.core c) l
    let met : Prop := (v - n).toNat < 2 ^ 31
    let w (kind : BitVec 2) : Wait := ⟨kind, l.sem, (boxOf c l).core, n, decide (((s.core c).getG l.rto).setWidth 32 ≠ 0), l.pd, true⟩
    (AtOnce s (.semWait c p l) c p → met → Served s (.semWait c p l) c
      (after s c 1 (fun k => { (seqUp k).setP l.pd true with wait := none }))) ∧
    (AtOnce s (.semWait c p l) c p → ¬met → Served s (.semWait c p l) c (s.modCore c (fun k => { seqUp k with wait := some (w 1) }))) ∧
    (AtOnce s (.semTake c p l) c p → met → ∃ t, Served s (.semTake c p l) c t ∧ t.sem (boxOf c l) l.sem = v - n ∧
      vget (t.core (boxOf c l)).semQ l.sem = c.core + 1 ∧ (t.core c).wait = none ∧ (t.core c).getP l.pd = true ∧
      (t.core c).pc = (s.core c).pc + 8 ∧ t.mem = s.mem ∧ (t.core c).g = (s.core c).g) ∧
    (AtOnce s (.semTake c p l) c p → ¬met → Served s (.semTake c p l) c (s.modCore c (fun k => { seqUp k with wait := some (w 2) }))) ∧
    (AtOnce s (.semRead c p l) c p → Served s (.semRead c p l) c
      (after s c 1 (fun k => { seqUp k with results := k.results ++ [⟨k.seq, l.gd, v.setWidth 64, none⟩] })))

/-- R311: when a semaphore is served, every `sem.wait` that its value meets is released with `pd` 1. -/
def Sys2Proof.Claims.WaitsReleased : Prop :=
  ∀ (s : State) (c d : CoreId) (n : Fin 64) (w : Wait), d.die = c.die → (s.core d).wait = some w → w.kind = 1 → w.core = c.core → w.sem = n →
    w.arrived = true → (s.core c).boxOpen.getLsbD n.val = false → (s.sem c n - w.tgt).toNat < 2 ^ 31 →
    ((s.serveSem c n).core d).wait = none ∧ ((s.serveSem c n).core d).getP w.pd = true

/-- R315, R307, R311: in the deadline cycle of a timed wait that is still held, a condition that holds gives `pd` 1 and one that fails 0, and the sequencer goes on behind the instruction. R330: a core that has shown no activity for STALL_LIMIT cycles raises STALL; one that has shown some, or whose STALL_LIMIT is 0, does not; a cycle of ACLK counts the cycles without activity, and a change of a semaphore is activity whatever its value is at the next cycle. Readings and choices of the model that it rests on: log 2, 152. -/
def Obligations.TimeoutsAndStall : Prop :=
  (∀ (s : State) (c : CoreId), s.hasDie c.die = true →
    let k := s.core c
    (∀ w, k.wait = some w → w.timed = true → w.arrived = true → k.run = .running →
      let b : CoreId := ⟨c.die, w.core⟩
      (w.kind ≠ 3 → ¬(s.sem b w.sem - w.tgt).toNat < 2 ^ 31 → Straight s c 1 →
        exec (.waitTimeout c) s = .next (after s c 1 (fun k => { k.setP w.pd false with wait := none }))) ∧
      (w.kind = 1 → (s.core b).boxOpen.getLsbD w.sem.val = false → (s.sem b w.sem - w.tgt).toNat < 2 ^ 31 →
        ∃ t, exec (.waitTimeout c) s = .next t ∧ (t.core c).wait = none ∧ (t.core c).getP w.pd = true) ∧
      (w.kind = 3 → Straight s c 1 → exec (.waitTimeout c) s = .next (after s c 1 (fun k =>
        { k.setP w.pd (decide (((vget k.bars (Fin.ofNat 8 w.sem.val)).gen - w.tgt).toNat < 2 ^ 31)) with wait := none })))) ∧
    (k.run = .running ∨ k.run = .halting → k.waitCfg.toNat % 2 ^ 32 ≠ 0 → k.waitCfg.toNat % 2 ^ 32 ≤ k.still → k.atWork = false → k.moved = false → k.seen = some k.act →
      exec (.stall c) s = .next (s.coreFault c ⟨0x0600, k.pc, 0, 0, k.stallPayload⟩)) ∧
    (k.waitCfg.toNat % 2 ^ 32 = 0 ∨ k.still < k.waitCfg.toNat % 2 ^ 32 ∨ k.atWork = true ∨ k.moved = true ∨ k.seen ≠ some k.act ∨
      ¬(k.run = .running ∨ k.run = .halting) → exec (.stall c) s = .next s)) ∧
  (∀ k : Core, k.run = .running ∨ k.run = .halting →
    (k.atWork = false → k.moved = false → k.seen = some k.act → k.tick.still = k.still + 1) ∧
    (k.atWork = true ∨ k.moved = true ∨ k.seen ≠ some k.act → k.tick.still = 0) ∧ k.tick.seen = some k.act ∧ k.tick.moved = false) ∧
  (∀ (s : State) (c : CoreId) (n : Fin 64) (v : BitVec 32), v ≠ s.sem c n → ((s.setSem c n v).core c).moved = true)

/-- R320, R322: `bar.arrive` sets ARR and TGT; when every other participant has arrived, the channel completes and GEN of every participant advances with ARR clear. `bar.wait` succeeds when GEN has reached TGT, and else holds the sequencer. Readings and choices of the model that it rests on: log 33. -/
def Obligations.Barriers : Prop :=
  ∀ (s : State) (c : CoreId) (p : Fin 8) (l : LayB), Straight s c 1 →
    let b := vget (s.core c).bars l.ch
    let w : Wait := ⟨3, Fin.ofNat 64 l.ch.val, c.core, b.tgt, decide (((s.core c).getG l.rto).setWidth 32 ≠ 0), l.pd, true⟩
    (∀ t, AtOnce s (.barArrive c p l) c p → b.arr = false → s.coreTask c = some t → t.cores.Nodup → c ∈ s.participants t l.ch → s.crossPart t l.ch = false →
      ((∃ d ∈ s.participants t l.ch, d ≠ c ∧ s.arrived d l.ch = false) → Served s (.barArrive c p l) c
        (after s c 1 (fun k => { seqUp k with bars := vset k.bars l.ch ⟨true, b.gen, b.gen + 1⟩ }))) ∧
      ((∀ d ∈ s.participants t l.ch, d ≠ c → s.arrived d l.ch = true) → ∃ u, Served s (.barArrive c p l) c u ∧
        (∀ d ∈ s.participants t l.ch, (vget (u.core d).bars l.ch).gen = (vget (s.core d).bars l.ch).gen + 1 ∧ (vget (u.core d).bars l.ch).arr = false) ∧
        (u.core c).g = (s.core c).g)) ∧
    (AtOnce s (.barWait c p l) c p → (b.gen - b.tgt).toNat < 2 ^ 31 → Served s (.barWait c p l) c
      (after s c 1 (fun k => { (seqUp k).setP l.pd true with wait := none }))) ∧
    (AtOnce s (.barWait c p l) c p → ¬(b.gen - b.tgt).toNat < 2 ^ 31 → Served s (.barWait c p l) c
      (s.modCore c (fun k => { seqUp k with wait := some w })))

/-- R248 to R253: what `dsp.take` returns and holds, and the three forms of `dsp.set`, as the box serves them; NEXT is refused while a core holds a ticket. Readings and choices of the model that it rests on: log 33. -/
def Obligations.DispatchCounters : Prop :=
  ∀ (s : State) (c : CoreId) (p : Fin 8) (l : LayT), Straight s c 1 →
    let x := s.dsp c.die l.k
    let held := vget x.held c.core
    let give (y : Dispatch) (v : BitVec 32) : Prop := Served s (.dspTake c p l) c
      (after ((s.modCore c seqUp).modDsp c.die l.k (fun _ => { y with ptr := c.core + 1 })) c 1
        (fun k => { k with results := k.results ++ [⟨k.seq - 1, l.gd, v.setWidth 64, some l.k⟩] }))
    let y := if l.retire then { x with held := vset x.held c.core (held.drop 1) } else x
    (AtOnce s (.dspTake c p l) c p → (s.core c).takeOut l.k = false → (if l.retire then 0 < held.length else held.length < 4) →
      (∀ t r, y.requeue = t :: r → give { y with requeue := r, held := vset y.held c.core (vget y.held c.core ++ [t]) } t) ∧
      (y.requeue = [] → y.next.toNat < y.limit.toNat →
        give { y with next := y.next + 1, held := vset y.held c.core (vget y.held c.core ++ [y.next]) } y.next) ∧
      (y.requeue = [] → y.limit.toNat ≤ y.next.toNat → (∃ i, vget y.held i ≠ []) → give y 0xFFFFFFFE) ∧
      (y.requeue = [] → y.limit.toNat ≤ y.next.toNat → (∀ i, vget y.held i = []) → give y 0xFFFFFFFF)) ∧
    (AtOnce s (.dspSetLimit c p l) c p → ((s.core c).getG l.ra).toNat ≤ 0xFFFFFFFD → Served s (.dspSetLimit c p l) c
      (after ((s.modCore c seqUp).modDsp c.die l.k (fun x => { x with limit := ((s.core c).getG l.ra).setWidth 32 })) c 1 id)) ∧
    (AtOnce s (.dspSetNext c p l) c p → x.requeue = [] → (∀ i, vget x.held i = []) → Served s (.dspSetNext c p l) c
      (after ((s.modCore c seqUp).modDsp c.die l.k (fun x => { x with next := ((s.core c).getG l.ra).setWidth 32 })) c 1 id)) ∧
    (AtOnce s (.dspSetNext c p l) c p → (x.requeue ≠ [] ∨ ∃ i, vget x.held i ≠ []) → Served s (.dspSetNext c p l) c
      ((after s c 1 seqUp).coreFault c ⟨0x0211, (s.core c).pc, BitVec.ofNat 32 l.k.val, 0, []⟩)) ∧
    (∀ t r, AtOnce s (.dspSetRetire c p l) c p → (s.core c).takeOut l.k = false → held = t :: r → Served s (.dspSetRetire c p l) c
      (after ((s.modCore c seqUp).modDsp c.die l.k (fun x => { x with held := vset x.held c.core r })) c 1 id)) ∧
    (∀ (f : Fin 9) (v : Word), s.hasDie c.die = true → s.arrives (.host f) = true → s.reaches (.host f) c.die = true → (s.die c.die).resetting = false →
      v.toNat / 2 ^ 32 ≤ 0xFFFFFFFD → (∀ n, s.dieOwner c.die = some n → s.taskOf n = none) →
      exec (.dspCtlHostWrite f c.die l.k v) s =
        .next (s.modDsp c.die l.k (fun x => { x with next := v.setWidth 32, limit := BitVec.ofNat 32 (v.toNat / 2 ^ 32) })))

/-- R294 to R300: `q.push` and a push-port write store a word whose bits [60:56] and VALID are 0 with SOP and EOP; a word that ends its packet makes the packet visible and, with NEN = 1, adds 1 to the notice semaphore (R299); `q.pop` takes the oldest visible word with VALID 1, or returns 0. Readings and choices of the model that it rests on: log 33, 152. -/
def Obligations.Queues : Prop :=
  ∀ (s : State) (c : CoreId),
    let noticed (q : HwQueue) (eop : Bool) (t : State) : Prop := ∀ m, t.sem c m = s.sem c m + (if q.nen = true ∧ eop = true ∧ m = q.nsem then 1 else 0)
    (∀ (p : Fin 8) (l : LayQ), Straight s c 1 →
      let q := vget (s.core c).queues l.q
      let w := ((s.core c).getG l.ra).setWidth 56 |>.setWidth 64 |>.or (BitVec.ofNat 64 (2 ^ 61 * l.sop.toNat + 2 ^ 62 * l.eop.toNat))
      AtOnce s (.qPush c p l) c p → q.words.length < 256 → q.held = [] → (q.nen = true → l.eop = true → Quiet s c q.nsem) →
      ∃ t, Served s (.qPush c p l) c t ∧
        (vget (t.core c).queues l.q).words = q.words ++ [(w, .good)] ∧ (vget (t.core c).queues l.q).wr = q.wr + 1 ∧
        (l.eop = true → (vget (t.core c).queues l.q).vis = q.words.length + 1) ∧ noticed q l.eop t ∧
        (vget (t.core c).queues l.q).opened = !l.eop ∧ (t.core c).pc = (s.core c).pc + 8 ∧ (t.core c).g = (s.core c).g ∧ t.mem = s.mem) ∧
    (∀ (p : Fin 8) (l : LayQ), Straight s c 1 →
      let q := vget (s.core c).queues l.q
      AtOnce s (.qPop c p l) c p → (s.core c).consumes l.q = false → q.held = [] →
      (∀ w r, q.words = (w, .good) :: r → q.vis ≠ 0 → Served s (.qPop c p l) c
        (after s c 1 (fun k => { seqUp k with
          queues := vset k.queues l.q { q with words := r, rd := q.rd + 1, vis := q.vis - 1 }
          results := k.results ++ [⟨k.seq, l.gd, w ||| BitVec.ofNat 64 (2 ^ 63), none⟩]
          moved := true }))) ∧
      (q.vis = 0 → Served s (.qPop c p l) c (after s c 1 (fun k => { seqUp k with results := k.results ++ [⟨k.seq, l.gd, 0, none⟩] })))) ∧
    (∀ (a : Agent) (q : Fin 8) (v : Word),
      let x := vget (s.core c).queues q
      Reaches s a c →
      (x.words.length < 256 → x.held = [] → (x.nen = true → v.getLsbD 62 = true → Quiet s c x.nsem) → ∃ t, exec (.queuePushPortWrite a c q true v) s = .next t ∧
        (vget (t.core c).queues q).words = x.words ++ [(v &&& 0x60FFFFFFFFFFFFFF, .good)] ∧
        (v.getLsbD 62 = true → (vget (t.core c).queues q).vis = x.words.length + 1) ∧ noticed x (v.getLsbD 62) t ∧ t.mem = s.mem) ∧
      (256 ≤ x.words.length ∨ x.held ≠ [] → exec (.queuePushPortWrite a c q true v) s =
        .next (s.modCore c (fun k => { k with queues := vset k.queues q { x with held := x.held ++ [⟨v &&& 0x60FFFFFFFFFFFFFF⟩] } }))) ∧
      (∀ r, a = .remote r → exec (.queuePushPortWrite a c q false v) s =
        .next (s.modCore c (fun k => { k with queues := vset k.queues q { x with badpush := satAdd x.badpush 1 } }))) ∧
      (∀ f, a = .host f → exec (.queuePushPortWrite a c q false v) s =
        .next ((s.modCore c (fun k => { k with queues := vset k.queues q { x with badpush := satAdd x.badpush 1 } })).modPkg
          (fun p => { p with fns := vmod p.fns f (fun h => { h with badwr := satAdd h.badwr 1 }) }))))

/-- R328: a release returns shared bytes to FREE first and then lowers the reserved holding; what exceeds the holding counts in OVERREL, and so does a reservation that the context does not have; a remote part releases nothing (R374). Readings and choices of the model that it rests on: log 152. -/
def Obligations.PoolReleases : Prop :=
  (∀ (s : State) (a : Agent) (f : Fin 9) (v : Word) (x : Pool), a = .host f →
    let r := v.toNat / 2 ^ 32 % 16
    let bytes := v.toNat % 2 ^ 32
    let more (y : Resv) : Pool :=
      { x with
        free := x.free + min bytes y.hs
        resv := x.resv.set r { y with hs := y.hs - min bytes y.hs, hr := y.hr - min (bytes - min bytes y.hs) y.hr }
        overrel := if y.hs + y.hr < bytes then satAdd x.overrel 1 else x.overrel }
    (∀ (c : CoreId) (i : Fin 4), Reaches s a c → vget (s.core c).pools i = some x →
      (∀ y, x.resv[r]? = some y → exec (.poolRelease a (.clm c i) v) s = .next (s.modCore c (fun k => { k with pools := vset k.pools i (some (more y)), moved := true }))) ∧
      (x.resv[r]? = none → exec (.poolRelease a (.clm c i) v) s =
        .next (s.modCore c (fun k => { k with pools := vset k.pools i (some { x with overrel := satAdd x.overrel 1 }), moved := true })))) ∧
    (∀ (d : Fin 8) (i : Fin 8), s.hasDie d = true → s.arrives a = true → s.reaches a d = true → (s.die d).resetting = false → vget (s.die d).pools i = some x →
      ∀ y, x.resv[r]? = some y → exec (.poolRelease a (.depot d i) v) s = .next (s.modDie d (fun k => { k with pools := vset k.pools i (some (more y)) })))) ∧
  (∀ (s : State) (q : BitVec 12) (x : PoolAt) (v : Word), exec (.poolRelease (.remote q) x v) s = .next s)

/-- R333, R334, R487: a core that has waited WAIT_LEND cycles with LEND_EN = 1 is gated; a gated core whose wait is released runs again with the step of its own share, and the running cores of its die go down to theirs first; an idle core without a section collapses and keeps its CLM and the registers of its block, and wakes. Readings and choices of the model that it rests on: log 3, 72, 155. -/
def Obligations.CorePowerStates : Prop :=
  ∀ (s : State) (c : CoreId), s.hasDie c.die = true →
    let k := s.core c
    let woken : Prop := ((s.wakeCore c).core c).pstate = .run ∧ ((s.wakeCore c).core c).step = s.ownStep c ∧ (s.wakeCore c).mem = s.mem ∧
      (∀ o, o ≠ c → (s.wakeCore c).core o = if o.die = c.die ∧ (s.core o).pstate = .run then { s.core o with step := min (s.core o).step (s.ownStep o) } else s.core o)
    (k.wait.isSome = true → k.run = .running → k.unitsIdle = true → k.waitCfg.getLsbD 48 = true → k.waitCfg.toNat / 2 ^ 32 % 2 ^ 16 ≤ k.waited → k.pstate = .run →
      exec (.coreGate c) s = .next (s.modCore c (fun k => { k with pstate := .gated }))) ∧
    (k.waitCfg.getLsbD 48 = false ∨ k.waited < k.waitCfg.toNat / 2 ^ 32 % 2 ^ 16 → exec (.coreGate c) s = .next s) ∧
    (k.pstate = .gated → k.wait = none → exec (.coreWake c) s = .next (s.wakeCore c) ∧ woken) ∧
    (k.sect = none → k.pstate = .run → k.resetting = false → s.pkg.pins.held = false → ∃ t, exec (.coreCollapse c) s = .next t ∧ (t.core c).pstate = .collapsed ∧
      (t.core c).flagsSum = k.flagsSum ∧ (t.core c).tsrCount = k.tsrCount ∧ (t.core c).slots = k.slots ∧ (t.core c).queues = k.queues ∧ (t.core c).sems = k.sems ∧
      (t.core c).badPost = k.badPost ∧ (t.core c).bars = k.bars ∧ (t.core c).pools = k.pools ∧ (t.core c).fring = k.fring ∧ (t.core c).waitCfg = k.waitCfg ∧ (t.core c).routeCsr = k.routeCsr ∧ (t.core c).routeB8 = k.routeB8 ∧ (t.core c).routeB16 = k.routeB16 ∧
      (t.core c).routeBmp = k.routeBmp ∧ (t.core c).routeDot = k.routeDot ∧ (∀ o, o ≠ c → t.core o = s.core o) ∧ t.mem = s.mem ∧ t.pkg = s.pkg ∧ t.dies = s.dies) ∧
    (k.pstate = .collapsed → exec (.coreUncollapse c) s = .next (s.wakeCore c) ∧ woken)

/-- R20, R304, R306, R307, R311, R312: how the instructions of the signal-box queue issue, what `sem.wait`, `sem.take` and `sem.read` do as they are served, and that a served semaphore releases every wait that it meets. -/
def Obligations.SemaphoreWaits : Prop := Claims.SynIssue ∧ Claims.WaitsServed ∧ Claims.WaitsReleased

namespace Sys2Proof.Claims

/-- A free instruction that finds room in the queue of its engine (R20). -/
abbrev Fits (s : State) (i : Instr) (c : CoreId) (p : Fin 8) (e : Engine) : Prop := Free s i c p ∧ (s.core c).queued e < queueDepth e

/-- A semaphore operand under its enable bit. -/
def semOf (en : Bool) (n : Fin 64) : SemOpt := if en then some n else none

/-- The operands that an `arr.mm` or a junction tile command captures at issue (R21). -/
def tileCmd (k : Core) (l : LayP) : MmCmd :=
  ⟨l.start, l.fin, k.view l.da, k.view l.db, k.view l.dc, k.getG l.rk, k.getG l.ro, k.getG l.rt, semOf l.den l.done, semOf l.fen l.free⟩

/-- Bits [31:0] of a general register. -/
def low (k : Core) (r : Fin 32) : BitVec 32 := (k.getG r).setWidth 32

/-- The state with one more command in the queue of a grid array and the PC behind the instruction. -/
def gaQueued (s : State) (c : CoreId) (a : Fin 2) (x : ArrCmd) : State :=
  after s c 1 (fun k => { seqUp k with qGa := vmod k.qGa a (fun q => q ++ [.cmd k.seq k.pc x]) })

/-- The same for the junction engine. -/
def jxQueued (s : State) (c : CoreId) (n : Nat) (x : JctCmd) : State :=
  after s c n (fun k => { seqUp k with qJx := k.qJx ++ [.cmd k.seq k.pc x] })

/-- The same for the vector unit. -/
def vecQueued (s : State) (c : CoreId) (x : VecCmd) : State :=
  after s c 1 (fun k => { seqUp k with qVec := k.qVec ++ [.cmd k.seq k.pc x] })

/-- The same for the sketch queue. -/
def sktQueued (s : State) (c : CoreId) (x : SktCmd) : State :=
  after s c 1 (fun k => { seqUp k with qSkt := k.qSkt ++ [.cmd k.seq k.pc x] })

/-- The same for the stream engine. -/
def strQueued (s : State) (c : CoreId) (n : Nat) (x : StrCmd) : State :=
  after s c n (fun k => { seqUp k with qStr := k.qStr ++ [.cmd k.seq k.pc x] })

/-- The output legend of a drain is one that R155 admits: valid, dense, untransposed, at most 128 × 128, in the CLM, and of a format that OVF allows. -/
abbrev Drains (c : CoreId) (ovf : Bool) (o : View) : Prop :=
  o.valid = true ∧ Leg.sparse o.prim = 0 ∧ Leg.nmpat o.prim = 0 ∧ Leg.trn o.prim = false ∧ Leg.ndim o.prim ≤ 2 ∧ o.rows ≤ 128 ∧ Leg.ext0 o.prim ≤ 128 ∧
    viewInClm c o = true ∧ (ovf = true → o.fmt = .e5m2 ∨ o.fmt = .fp16)

/-- An ExW region of one tile fits in the section's region at a multiple of 64 (R107). -/
abbrev ExwFits (k : Core) (off : BitVec 32) : Prop := off.toNat % 64 = 0 ∧ off.toNat + 786432 ≤ (k.sect.map Section.exwLen).getD 0

end Sys2Proof.Claims

open Sys2Proof.Claims

/-- R20, R21, R144, R155 to R158, R349, R352: an `arr.*` instruction that passes its checks puts one command with its operands as they stand at issue behind the others of its array, and control goes straight on. Readings and choices of the model that it rests on: log 37, 38. -/
def Sys2Proof.Claims.ArrayQueued : Prop :=
  ∀ (s : State) (c : CoreId) (p : Fin 8), Straight s c 1 →
    let k := s.core c
    (∀ l, Fits s (.arrCfg c p l) c p (gaEngine l.array) → (l.exact' = true → ExwFits k (low k l.rx)) →
      exec (.arrCfg c p l) s = .next (gaQueued s c l.array (.cfg l (low k l.rx) (low k l.re)))) ∧
    (∀ l, Fits s (.arrMm c p l) c p (gaEngine l.array) → mmBad c (k.cfgAt l.array l.ctx) l.fin (k.view l.da) (k.view l.db) (k.view l.dc) = none →
      exec (.arrMm c p l) s = .next (gaQueued s c l.array (.mm l.ctx (tileCmd k l)))) ∧
    (∀ l : LayR,
      let x := l.ctx
      let cfg := k.cfgAt l.array x
      let o := k.view l.d
      let ovf := (cfg.map LayC.ovf).getD false
      let done := semOf l.den l.done
      let rec' := saveLen (Acc.ofCode ((cfg.map (fun q => q.acc.toNat)).getD 2))
      let e := gaEngine l.array
      let src := low k l.rs
      let dst := low k l.rd
      (Fits s (.arrDrainPlain c p l) c p e → Drains c ovf o → exec (.arrDrainPlain c p l) s =
        .next (gaQueued s c l.array (.drain x o (k.getG l.ro) (k.getG l.rt) done))) ∧
      (Fits s (.arrDrainExw c p l) c p e → Drains c ovf o → ExwFits k src → exec (.arrDrainExw c p l) s =
        .next (gaQueued s c l.array (.drainExw x o src (k.getG l.ro) (k.getG l.rt) done))) ∧
      (Fits s (.arrDrainExwAdd c p l) c p e → o.valid = true → Leg.ndim o.prim ≤ 2 → o.rows ≤ 128 → Leg.ext0 o.prim ≤ 128 → ExwFits k src → ExwFits k dst →
        (src = dst ∨ src.toNat + 786432 ≤ dst.toNat ∨ dst.toNat + 786432 ≤ src.toNat) → exec (.arrDrainExwAdd c p l) s =
        .next (gaQueued s c l.array (.drainAdd x o src dst (k.getG l.rt) done))) ∧
      (Fits s (.arrSave c p l) c p e → (low k l.d).toNat % 64 = 0 → (low k l.d).toNat + rec' ≤ 2 ^ 23 → exec (.arrSave c p l) s =
        .next (gaQueued s c l.array (.save x (low k l.d) done))) ∧
      (Fits s (.arrLoad c p l) c p e → (low k l.d).toNat % 64 = 0 → (low k l.d).toNat + rec' ≤ 2 ^ 23 → exec (.arrLoad c p l) s =
        .next (gaQueued s c l.array (.load x (low k l.d) done))))

/-- R35, R67, R107, R144, R170, R558: what an `arr.mm` and the ExW drain forms refuse at issue, with the register number or the offset as detail; nothing is queued. Readings and choices of the model that it rests on: log 37, 41. -/
def Sys2Proof.Claims.ArrayIssueFaults : Prop :=
  ∀ (s : State) (c : CoreId) (p : Fin 8),
    let k := s.core c
    let bad (cause : BitVec 16) (detail : BitVec 32) : Host.Outcome State Fault Refusal := .next (s.coreFault c ⟨cause, k.pc, detail, 0, []⟩)
    (∀ l : LayP, Fits s (.arrMm c p l) c p (gaEngine l.array) →
      let a := k.view l.da
      let b := k.view l.db
      let o := k.view l.dc
      let reg (r : Fin 32) : BitVec 32 := BitVec.ofNat 32 r.val
      let cfg := k.cfgAt l.array l.ctx
      let fa := arrFmt a ((cfg.map LayC.ace).getD false) ((cfg.map LayC.acvt).getD 0)
      let fb := arrFmt b ((cfg.map LayC.bce).getD false) ((cfg.map LayC.bcvt).getD 0)
      let narrow : Prop := Leg.sparse a.prim ≠ 6 ∧ Leg.sparse b.prim ≠ 6 ∧ fa.cls ≠ .wide ∧ fb.cls ≠ .wide
      let blocks : Prop := Leg.scale a.prim = 0 ∨ Leg.scale b.prim = 0 ∨ a.blk = b.blk
      let valid : Prop := a.valid = true ∧ b.valid = true ∧ (l.fin = true → o.valid = true)
      let okA : Prop := a.lanes ≤ 128 ∧ Leg.ndim a.prim ≤ 2 ∧ viewInClm c a = true
      let okB : Prop := b.lanes ≤ 128 ∧ Leg.ndim b.prim ≤ 2 ∧ b.kExt = a.kExt ∧ viewInClm c b = true
      let shapes : Prop := valid ∧ narrow ∧ blocks ∧ okA ∧ okB ∧ (l.fin = true → outShape c o a.lanes b.lanes = true)
      (a.valid = false → exec (.arrMm c p l) s = bad 0x0208 (reg l.da)) ∧
      (a.valid = true → b.valid = false → exec (.arrMm c p l) s = bad 0x0208 (reg l.db)) ∧
      (a.valid = true → b.valid = true → l.fin = true → o.valid = false → exec (.arrMm c p l) s = bad 0x0208 (reg l.dc)) ∧
      (valid → Leg.sparse a.prim = 6 ∨ fa.cls = .wide → exec (.arrMm c p l) s = bad 0x0209 (reg l.da)) ∧
      (valid → Leg.sparse a.prim ≠ 6 → fa.cls ≠ .wide → Leg.sparse b.prim = 6 ∨ fb.cls = .wide → exec (.arrMm c p l) s = bad 0x0209 (reg l.db)) ∧
      (valid → narrow → ¬blocks → exec (.arrMm c p l) s = bad 0x0209 (reg l.db)) ∧
      (valid → narrow → blocks → ¬okA → exec (.arrMm c p l) s = bad 0x020A (reg l.da)) ∧
      (valid → narrow → blocks → okA → ¬okB → exec (.arrMm c p l) s = bad 0x020A (reg l.db)) ∧
      (valid → narrow → blocks → okA → okB → l.fin = true → outShape c o a.lanes b.lanes = false → exec (.arrMm c p l) s = bad 0x020A (reg l.dc)) ∧
      (∀ q, cfg = some q → shapes →
        (q.aclass ≠ fa.cls.code → exec (.arrMm c p l) s = bad 0x0209 (reg l.da)) ∧
        (q.aclass = fa.cls.code → q.bclass ≠ fb.cls.code → exec (.arrMm c p l) s = bad 0x0209 (reg l.db)))) ∧
    (∀ l : LayR, Fits s (.arrDrainExw c p l) c p (gaEngine l.array) → Drains c (((k.cfgAt l.array l.ctx).map LayC.ovf).getD false) (k.view l.d) →
      ¬ExwFits k (low k l.rs) → exec (.arrDrainExw c p l) s = bad 0x020C (low k l.rs)) ∧
    (∀ l : LayR, Fits s (.arrDrainPlain c p l) c p (gaEngine l.array) → (k.view l.d).valid = true → viewInClm c (k.view l.d) = false →
      exec (.arrDrainPlain c p l) s = bad 0x020A (BitVec.ofNat 32 l.d.val))

/-- R186, R192, R211, R217, R222: a `jct.*` or `skt.*` instruction that passes its checks puts one command with its operands as they stand at issue behind the others of its engine; `skt.pass` stands in two queues under one issue number. Readings and choices of the model that it rests on: log 37, 44, 48. -/
def Obligations.JunctionAndSketchIssue : Prop :=
  ∀ (s : State) (c : CoreId) (p : Fin 8),
    let k := s.core c
    (∀ l, Straight s c 1 → Fits s (.jctRoute c p l) c p .jx → routeBad c l.kind (k.view l.ds) (k.view l.d2) = none →
      exec (.jctRoute c p l) s = .next (jxQueued s c 1 (.route l (k.view l.ds) (k.view l.d2) ((k.getG l.rt).setWidth 16)))) ∧
    (∀ (l : LayP) (d : LayD), Straight s c 2 →
      let ok (op : JOp) : Prop := s.jmBad c op l.wgt d (low k d.rx) l.fin (k.view l.da) (k.view l.db) (k.view l.dc) = none
      let x (op : JOp) : JctCmd := .mm op (tileCmd k l) d (low k d.rx) (low k d.re) l.wgt
      (Fits s (.jctSpmm c p l d) c p .jx → ok .spmm → exec (.jctSpmm c p l d) s = .next (jxQueued s c 2 (x .spmm))) ∧
      (Fits s (.jctSpdot c p l d) c p .jx → ok .spdot → exec (.jctSpdot c p l d) s = .next (jxQueued s c 2 (x .spdot))) ∧
      (Fits s (.jctBag c p l d) c p .jx → ok .bag → exec (.jctBag c p l d) s = .next (jxQueued s c 2 (x .bag)))) ∧
    (∀ l : LayR, Straight s c 1 → Fits s (.jctDrain c p l) c p .jx → Drains c k.jctOvf (k.view l.d) →
      exec (.jctDrain c p l) s = .next (jxQueued s c 1 (.drain (k.view l.d) (k.getG l.ro) (k.getG l.rt) (semOf l.den l.done)))) ∧
    (∀ l : LayK, Straight s c 1 →
      (Fits s (.sktPass c p l) c p .skt → k.queued (gaEngine l.array) < 8 → k.sktBad c l.array (k.view l.da) (k.view l.db) l.ace l.acvt = none →
        exec (.sktPass c p l) s = .next (after s c 1 (fun k => { seqUp k with
          qSkt := k.qSkt ++ [.cmd k.seq k.pc (.pass l.array)]
          qGa := vmod k.qGa l.array (fun q => q ++ [.cmd k.seq k.pc
            (.skt (k.view l.da) (k.view l.db) (low k l.rd) l.ace l.acvt (k.getG l.ro) (k.getG l.rt) (semOf l.den l.done))]) }))) ∧
      (Fits s (.sktSelect c p l) c p .skt → exec (.sktSelect c p l) s = .next (sktQueued s c (.select (low k l.rd) (semOf l.den l.done)))) ∧
      (Fits s (.sktAudit c p l) c p .skt → exec (.sktAudit c p l) s = .next (sktQueued s c (.audit (low k l.rd) (k.getG l.rt) (semOf l.den l.done)))))

namespace Sys2Proof.Claims

/-- The operands that a `v.*` instruction captures at issue (R21, R354); `v.cvt` with OPT = 1 takes RMODE and OVF from `dz`. -/
def vecCmd (k : Core) (op : VOp) (l : LayV) : VecCmd :=
  let reg : Bool := decide (op = .cvt ∧ l.opt = 1)
  { op := op, d := k.view l.dd, x := k.view l.dx, y := k.view l.dy, z := k.view l.dz, scal := l.scal,
    sval := low k (if op = .st then l.dx else l.dy),
    rmode := if reg then (k.getG l.dz).toNat % 4 else l.rmode.toNat, ovf := if reg then (k.getG l.dz).getLsbD 2 else l.ovf, seed := low k l.rs,
    stw := if l.stw then some (low k l.rw) else none, done := semOf l.den l.done, opt := l.opt, gd := l.dd, index := k.getG l.dy }

end Sys2Proof.Claims

/-- R354: a `v.*` instruction that passes its checks puts one command with its operands as they stand at issue behind the others of the vector unit. Readings and choices of the model that it rests on: log 53. -/
def Obligations.VectorIssue : Prop :=
  ∀ (s : State) (c : CoreId) (p : Fin 8) (l : LayV), Straight s c 1 →
    let x (op : VOp) : VecCmd := vecCmd (s.core c) op l
    let ok (i : Instr) (op : VOp) : Prop := Fits s i c p .vec ∧ vecBad c (x op) l.rw = none
    let put (op : VOp) : Host.Outcome State Fault Refusal := .next (vecQueued s c (x op))
    (ok (.vAdd c p l) .add → exec (.vAdd c p l) s = put .add) ∧ (ok (.vMul c p l) .mul → exec (.vMul c p l) s = put .mul) ∧
    (ok (.vFma c p l) .fma → exec (.vFma c p l) s = put .fma) ∧ (ok (.vMax c p l) .max → exec (.vMax c p l) s = put .max) ∧
    (ok (.vExp c p l) .exp → exec (.vExp c p l) s = put .exp) ∧ (ok (.vRsqrt c p l) .rsqrt → exec (.vRsqrt c p l) s = put .rsqrt) ∧
    (ok (.vCvt c p l) .cvt → (x .cvt).rmode ≠ 3 → exec (.vCvt c p l) s = put .cvt) ∧
    (ok (.vReduce c p l) .reduce → exec (.vReduce c p l) s = put .reduce) ∧
    (ok (.vNorm2 c p l) .norm2 → exec (.vNorm2 c p l) s = put .norm2) ∧ (ok (.vLd c p l) .ld → exec (.vLd c p l) s = put .ld) ∧
    (ok (.vSt c p l) .st → exec (.vSt c p l) s = put .st)

/-- R259, R271, R282, R289, R348: a `str.*` instruction that passes its checks puts one command behind the others of the stream engine; `str.resume` of a slot that has not stopped for a fault or a stop request raises the stream cause. Readings and choices of the model that it rests on: log 63. -/
def Obligations.StreamIssue : Prop :=
  ∀ (s : State) (c : CoreId) (p : Fin 8) (l : LayS),
    let k := s.core c
    let ok (i : Instr) (x : Option LayX) (kd : StrKind) : Prop :=
      Fits s i c p .str ∧ Straight s c (iwords i) ∧ s.moveBad c l.slot (k.moveOf kd l x) (((i.words.bind Prod.snd).getD 0).setWidth 32) = none
    let put (i : Instr) (x : Option LayX) (kd : StrKind) : Prop := exec i s = .next (strQueued s c (iwords i) (.move l.slot (k.moveOf kd l x)))
    (∀ x, ok (.strLoad c p l x) x .load → put (.strLoad c p l x) x .load) ∧ (∀ x, ok (.strStore c p l x) x .store → put (.strStore c p l x) x .store) ∧
    (∀ x, ok (.strGather c p l x) x .gather → put (.strGather c p l x) x .gather) ∧
    (∀ x, ok (.strMcast c p l x) (some x) .mcast → put (.strMcast c p l x) (some x) .mcast) ∧
    (Straight s c 1 →
      (Fits s (.strRate c p l) c p .str → exec (.strRate c p l) s = .next (strQueued s c 1 (.rate l.slot ((k.getG l.src).setWidth 28)))) ∧
      (Fits s (.strAbort c p l) c p .str → exec (.strAbort c p l) s = .next (strQueued s c 1 (.abort l.slot))) ∧
      (Fits s (.strResume c p l) c p .str →
        let x := vget k.slots l.slot
        (x.st = .stopped → x.cause = 1 ∨ x.cause = 2 ∨ x.cause = 6 → exec (.strResume c p l) s = .next (strQueued s c 1 (.resume l.slot))) ∧
        (x.st ≠ .stopped ∨ (x.cause ≠ 1 ∧ x.cause ≠ 2 ∧ x.cause ≠ 6) → exec (.strResume c p l) s =
          .next (s.coreFault c ⟨0x020F, k.pc, BitVec.ofNat 32 l.slot.val, 0, []⟩))))

namespace Sys2Proof.Claims

/-- A grid array of a core has a command issued before number `n` that has not completed (R285). -/
def ArrUnfinished (k : Core) (a : Fin 2) (n : Nat) : Prop :=
  let g := vget k.ga a
  (∃ i pc x, QItem.cmd i pc x ∈ vget k.qGa a ∧ i < n) ∨ (∃ f ∈ g.frees, f.2.1 < n) ∨ (∃ j ∈ g.todo ++ g.jobs, j.seq < n) ∨
    (∃ r, g.saving = some r ∧ r.seq < n) ∨ (∃ r, g.skt = some r ∧ r.seq < n) ∨ g.fault ≠ none

/-- An engine of a core has a command issued before number `n` that has not completed: in its queue or at work; a stopped stream counts as completed, and an aborted one until its slot is idle (R285, R289). -/
def Unfinished (k : Core) (n : Nat) : Engine → Prop
  | .str => (∃ i pc x, QItem.cmd i pc x ∈ k.qStr ∧ i < n) ∨ ∃ j : Fin 16, let x := vget k.slots j
      (∃ i pc m, x.cmd = some (i, pc, m) ∧ i < n ∧ x.st ≠ .idle ∧ x.st ≠ .stopped) ∨ (x.cmd = none ∧ x.st = .aborting ∧ ∃ i, x.aborted = some i ∧ i < n)
  | .ga0 => ArrUnfinished k 0 n
  | .ga1 => ArrUnfinished k 1 n
  | .jx => (∃ i pc x, QItem.cmd i pc x ∈ k.qJx ∧ i < n) ∨ (∃ f ∈ k.jx.frees, f.1 < n) ∨ (∃ j ∈ k.jx.todo ++ k.jx.jobs, j.seq < n) ∨
      (∃ r, k.jx.bag = some r ∧ r.seq < n) ∨ (∃ r ∈ k.jx.routes, r.1 < n) ∨ k.jx.fault ≠ none
  | .vec => (∃ i pc x, QItem.cmd i pc x ∈ k.qVec ∧ i < n) ∨ ∃ v, k.vec = some v ∧ v.1 < n
  | .skt => (∃ i pc x, QItem.cmd i pc x ∈ k.qSkt ∧ i < n) ∨ (∃ v, k.skt = some v ∧ v.1 < n) ∨ ∃ a : Fin 2, ∃ r, (vget k.ga a).skt = some r ∧ r.seq < n
  | .syn => (∃ i pc x, QItem.cmd i pc x ∈ k.qSyn ∧ i < n) ∨ ∃ r ∈ k.results, r.seq < n

end Sys2Proof.Claims

/-- R284, R285, R286, R311: a `fence.k` places one marker in the queue of each engine of its mask; a marker at the head of a queue whose condition holds opens, and one whose condition does not hold stays; a SEM marker holds once a value of its semaphore has met the target since the engine reached it; a DRAIN marker holds once every earlier command of its mask has completed. Readings and choices of the model that it rests on: log 61. -/
def Obligations.Fences : Prop :=
  ∀ (s : State) (c : CoreId),
    (∀ (p : Fin 8) (l : LayF), Straight s c 1 → (∀ e ∈ maskEngines l.mask, (s.core c).queued e < queueDepth e) →
      let place (f : FenceCond) : Host.Outcome State Fault Refusal :=
        .next (after s c 1 (fun k => (maskEngines l.mask).foldl (fun q e => q.mark e k.seq f) (seqUp k)))
      (Free s (.fenceKSem c p l) c p → exec (.fenceKSem c p l) s = place (.sem l.sem (low (s.core c) l.ra))) ∧
      (Free s (.fenceKDrain c p l) c p → exec (.fenceKDrain c p l) s = place (.drain l.mask))) ∧
    (s.hasDie c.die = true → ∀ n f,
      let k := s.core c
      let opens (e : Engine) (put : Core → Core) : Prop :=
        (s.fenceHolds c e n f = true → exec (.fenceOpen c e) s = .next (s.modCore c (fun k => { put k with met := k.met.erase (e, n) }))) ∧
        (s.fenceHolds c e n f = false → exec (.fenceOpen c e) s = .next (s.modCore c id))
      (∀ pre rest, (∀ x ∈ pre, ∃ q pc y, x = QItem.cmd q pc y) → k.qStr = pre ++ .fence n f :: rest → opens .str (fun k => { k with qStr := pre ++ rest })) ∧
      (∀ rest, vget k.qGa 0 = .fence n f :: rest → opens .ga0 (fun k => { k with qGa := vset k.qGa 0 rest })) ∧
      (∀ rest, vget k.qGa 1 = .fence n f :: rest → opens .ga1 (fun k => { k with qGa := vset k.qGa 1 rest })) ∧
      (∀ rest, k.qJx = .fence n f :: rest → opens .jx (fun k => { k with qJx := rest })) ∧
      (∀ rest, k.qVec = .fence n f :: rest → opens .vec (fun k => { k with qVec := rest })) ∧
      (∀ pre rest, (∀ x ∈ pre, ∃ q pc a, x = QItem.cmd q pc (SktCmd.pass a)) → k.qSkt = pre ++ .fence n f :: rest → opens .skt (fun k => { k with qSkt := pre ++ rest })) ∧
      (∀ rest, k.qSyn = .fence n f :: rest → opens .syn (fun k => { k with qSyn := rest }))) ∧
    (∀ (e : Engine) (n : Nat) (m : Fin 64) (v : BitVec 32),
      (s.fenceHolds c e n (.sem m v) = decide ((e, n) ∈ (s.core c).met ∨ (s.sem c m - v).toNat < 2 ^ 31)) ∧
      ((s.core c).marker e = some (n, .sem m v) → (s.sem c m - v).toNat < 2 ^ 31 → (e, n) ∈ ((s.core c).noteMet m).met)) ∧
    (∀ (e : Engine) (n : Nat) (mask : BitVec 7), s.fenceHolds c e n (.drain mask) = true ↔
      ∀ x ∈ [(Engine.str, 0), (.ga0, 1), (.ga1, 2), (.jx, 3), (.vec, 4), (.skt, 5), (.syn, 6)], mask.getLsbD x.2 = true → ¬Unfinished (s.core c) n x.1)

/-- R19: a predicate that reads false at issue lets the sequencer pass the instruction, whichever it is, with no effect; `p0` always reads true. -/
def Obligations.FalsePredicates : Prop :=
  (∀ (s : State) (c : CoreId) (p : Fin 8) (cls op n : Nat) (x : Option Word) (i : Instr), readG1 c p cls op n x = some i →
    s.hasDie c.die = true → (s.core c).ready = true → (∀ m ∈ s.ecc, unitHit [(clmAddr c + (s.core c).pc.toNat, 8 * iwords i)] m.1 = false) →
    (p = 0 ∨ (s.pendingP c).contains p = false) → (s.core c).getP p = false → Straight s c (iwords i) → exec i s = .next (after s c (iwords i) id)) ∧
  (∀ k : Core, k.getP 0 = true)

/-- R20, R23, R339, R340: a predicate of 0 skips an instruction; a full queue or a pending register stalls it; a reserved value raises ENCODING; QUEUE_ROOM_ISSUE tries the stalled instruction again, which issues once its queue has room; a result lands in its register. Readings and choices of the model that it rests on: log 26, 34. -/
def Sys2Proof.Claims.StallsAndSkips : Prop :=
  ∀ (s : State) (c : CoreId) (p : Fin 8) (l : LayK),
    let i : Instr := .sktSelect c p l
    let k := s.core c
    let clean : Prop := ∀ m ∈ s.ecc, unitHit [(clmAddr c + k.pc.toNat, 8)] m.1 = false
    (s.hasDie c.die = true → k.ready = true → clean → (p = 0 ∨ (s.pendingP c).contains p = false) → k.getP p = false → Straight s c 1 →
      exec i s = .next (after s c 1 id)) ∧
    (s.hasDie c.die = true → k.ready = true → clean → p ≠ 0 → (s.pendingP c).contains p = true → exec i s = .next (s.modCore c (fun k => { k with stalled := some i }))) ∧
    (s.hasDie c.die = true → k.ready = true → clean → (p = 0 ∨ (s.pendingP c).contains p = false) → k.getP p = true → (i.encOk && i.accOk) = false →
      exec i s = .next (s.coreFault c ⟨0x0201, k.pc, badWord i, 0, []⟩)) ∧
    (Free s i c p → k.queued .skt = 4 → exec i s = .next (s.modCore c (fun k => { k with stalled := some i }))) ∧
    (s.hasDie c.die = true → k.ready = true → clean → (p = 0 ∨ (s.pendingP c).contains p = false) → k.getP p = true → (i.encOk && i.accOk) = true →
      l.rd ≠ 0 → (s.pendingG c).contains l.rd = true → exec i s = .next (s.modCore c (fun k => { k with stalled := some i }))) ∧
    (s.hasDie c.die = true → k.run = .running → k.pstate = .run → k.wait = none → k.resetting = false →
      (k.stalled = some i → exec (.queueRoomIssue c) s = exec i (s.modCore c (fun k => { k with stalled := none }))) ∧
      (k.stalled = none → exec (.queueRoomIssue c) s = .next s) ∧
      (let u := s.modCore c (fun k => { k with stalled := none })
       k.stalled = some i → Fits u i c p .skt → Straight u c 1 →
        exec (.queueRoomIssue c) s = .next (sktQueued u c (.select (low k l.rd) (semOf l.den l.done))))) ∧
    (∀ (r : Fin 32) (x : Result) (rest : List Result), s.hasDie c.die = true → k.results = x :: rest → x.rd = r → k.stalled = none →
      exec (.pendingResultArrive c r) s = .next (s.modCore c (fun k => ({ k with results := rest } : Core).setG r x.val)))

/-- R22, R126, R282, R332, R349: when an engine takes the next command of its queue: a vector command and a select occupy their units, an `arr.cfg` configures its context, a rate is set, a signal-box command is served; the engines on CCLK begin nothing while the core does not run. Readings and choices of the model that it rests on: log 38, 68. -/
def Sys2Proof.Claims.EngineBegins : Prop :=
  ∀ (s : State) (c : CoreId) (n : Nat) (pc : BitVec 32), s.hasDie c.die = true →
    let k := s.core c
    (k.pstate = .run →
      (∀ x rest, k.qVec = .cmd n pc x :: rest → k.vec = none → exec (.engineCommandBegin c .vec) s =
        .next (s.modCore c (fun k => { k with qVec := rest, vec := some (n, pc, x) }))) ∧
      (∀ x rest, k.qSkt = .cmd n pc x :: rest → x.isPass = false → k.skt = none → exec (.engineCommandBegin c .skt) s =
        .next (s.modCore c (fun k => { k with qSkt := dropSeq k.qSkt n, skt := some (n, pc, x) }))) ∧
      (∀ (a : Fin 2) (l : LayC) (off desc : BitVec 32) rest, vget k.qGa a = .cmd n pc (.cfg l off desc) :: rest → (vget k.ga a).ready (.cfg l off desc) = true →
        (vget (vget k.ga a).ctx l.ctx).tile = none → l.dual = (vget k.ga a).dual → desc.toNat % 64 = 0 → desc.toNat + 64 ≤ 2 ^ 23 → s.ecc = [] →
        let bs := s.mem.read (clmAddr c + desc.toNat) 64
        epiOk bs = true → exec (.engineCommandBegin c (.ga a)) s = .next (s.modCore c (fun k =>
          { k with qGa := vset k.qGa a rest, ga := vmod k.ga a (fun g => { g with ctx := vmod g.ctx l.ctx (fun x => { x with cfg := some ⟨l, off.toNat, desc, bs, false⟩ }) }) }))) ∧
      (∀ (a : Fin 2) (x : Fin 2) (m : MmCmd) rest, vget k.qGa a = .cmd n pc (.mm x m) :: rest → (vget k.ga a).ready (.mm x m) = true →
        ((vget (vget k.ga a).ctx x).cfg = none ∨ m.start ≠ (vget (vget k.ga a).ctx x).tile.isNone ∨ (x = 1 ∧ (vget k.ga a).dual = false)) →
        exec (.engineCommandBegin c (.ga a)) s = .next ((s.modCore c (fun k => { k with qGa := vset k.qGa a rest })).coreFault c
          ⟨0x020B, pc, BitVec.ofNat 32 (x.val + 2 * a.val), 0, []⟩))) ∧
    (k.pstate ≠ .run → ∀ a, exec (.engineCommandBegin c (.ga a)) s = .next s ∧ exec (.engineCommandBegin c .jx) s = .next s ∧
      exec (.engineCommandBegin c .vec) s = .next s ∧ exec (.engineCommandBegin c .skt) s = .next s) ∧
    (∀ (b : Fin 16) (m : Fin 64) (amt : BitVec 32) rest, k.qSyn = .cmd n pc (.semAdd b m amt) :: rest → s.storesOut c = false → Quiet s ⟨c.die, b⟩ m → exec (.engineCommandBegin c .syn) s =
      .next (semSet (s.modCore c (fun k => { k with qSyn := rest })) ⟨c.die, b⟩ m (s.sem ⟨c.die, b⟩ m + amt))) ∧
    (∀ (i : Fin 16) (v : BitVec 28) rest, k.qStr = .cmd n pc (.rate i v) :: rest → exec (.engineCommandBegin c (.slot i)) s =
      .next (s.modCore c (fun k => { k with
        qStr := dropSeq k.qStr n
        slots := vmod k.slots i (fun x => { x with rate := v.setWidth 16, burst := v.extractLsb' 16 12, bucket := 65536 * ((v.extractLsb' 16 12).toNat + 1) }) })))

/-- The commands of a grid array as they issue: those that are queued, and the breaches that raise ILLEGAL_INSTR. -/
def Obligations.ArrayIssue : Prop := Claims.ArrayQueued ∧ Claims.ArrayIssueFaults

namespace Sys2Proof.Claims

/-- The state after the post of 1 to an optional semaphore of a core that nothing waits for. -/
def posted (s : State) (c : CoreId) (d : SemOpt) : State :=
  match d with
  | some n => semSet s c n (s.sem c n + 1)
  | none => s

/-- Nothing waits for an optional semaphore. -/
abbrev QuietOpt (s : State) (c : CoreId) (d : SemOpt) : Prop := ∀ n ∈ d, Quiet s c n

/-- The state with one grid array of a core changed. -/
def withArr (s : State) (c : CoreId) (a : Fin 2) (f : GridArray → GridArray) : State := s.modCore c (fun k => { k with ga := vmod k.ga a f })

/-- The state with the junction engine of a core changed. -/
def withJx (s : State) (c : CoreId) (f : Junction → Junction) : State := s.modCore c (fun k => { k with jx := f k.jx })

/-! ### The sums of a tile command (R92, R97, R99, R203 to R206)

A command adds units to its bank in order: blocks at a grid array, windows at the junction engine. -/

/-- The cells of a tile after units `lo` to `hi − 1` of a command; `part` adds one unit to the cell of a row and a column, of which the operands have `rows` and `cols`. -/
def unitsIn (t : Tile) (part : Nat → Nat → Nat → Cell → Cell) (rows cols lo hi : Nat) : List Cell :=
  if hi ≤ lo then t.cells
  else ((raster t.m t.n).zip t.cells).map (fun p =>
    if p.1.1 < rows ∧ p.1.2 < cols then ((List.range (hi - lo)).map (fun i => lo + i)).foldl (fun x u => part u p.1.1 p.1.2 x) p.2 else p.2)

/-- Where the chunks of an EXACT tile end among the first `hi` units of a command: behind a unit whose last block is the last of a global 4,096, unless it ends the tile (R99). -/
def chunkEnds (ex : Bool) (kb hi : Nat) (blockOf : Nat → Nat) (last : Option Nat) : List Nat :=
  ((List.range hi).filter (fun u => ex && decide ((kb + blockOf u) % 4096 = 4095) && decide (last ≠ some (blockOf u)))).map (fun u => u + 1)

/-- The unit with which chunk `i` of a command begins. -/
def chunkStart (ends : List Nat) (i : Nat) : Nat := if i = 0 then 0 else ends.getD (i - 1) 0

/-- The bank with which chunk `i` of a command begins: the first goes on with the tile's, the others are zero (R99). -/
def chunkBank (t : Tile) (i : Nat) : Tile := if i = 0 then t else { t with cells := List.replicate (t.m * t.n) Cell.zero }

/-- The bank of chunk `i` of a command at its end, or at unit `hi` if it goes on there. -/
def chunkSum (t : Tile) (part : Nat → Nat → Nat → Cell → Cell) (rows cols : Nat) (ends : List Nat) (hi i : Nat) : Tile :=
  { chunkBank t i with cells := unitsIn (chunkBank t i) part rows cols (chunkStart ends i) (ends.getD i hi) }

/-- What a tile command leaves for the drain unit: one chunk job for each chunk that it ends, in order, each with the sums of its own units. -/
def ChunkJobs (t : Tile) (part : Nat → Nat → Nat → Cell → Cell) (rows cols m n : Nat) (ends : List Nat) (hi : Nat) (js : List DrainJob) : Prop :=
  ∀ i, i < ends.length → ∃ j, js[i]? = some j ∧ j.kind = .chunk ∧ j.first = (decide (i = 0) && !t.firstDone) ∧ j.info.acc = t.info.acc ∧
    j.info.m = m ∧ j.info.n = n ∧ j.cells = (chunkSum t part rows cols ends hi i).slice m n

/-- The job that ends a tile: the sums since its last chunk end, over the extents of the command that ends it, with the command's output and report. -/
def EndsTile (t : Tile) (part : Nat → Nat → Nat → Cell → Cell) (rows cols m n : Nat) (ends : List Nat) (hi : Nat) (x : MmCmd) (j : DrainJob) : Prop :=
  j.kind = .final ∧ j.first = (decide (ends = []) && !t.firstDone) ∧ j.info.acc = t.info.acc ∧ j.info.m = m ∧ j.info.n = n ∧
    j.cells = (chunkSum t part rows cols ends hi ends.length).slice m n ∧ j.o = x.o ∧ j.origin = x.origin ∧ j.tag = x.tag ∧ j.done = x.done

/-- The tile that a command leaves in progress. -/
def Continues (t : Tile) (part : Nat → Nat → Nat → Cell → Cell) (rows cols : Nat) (ends : List Nat) (hi : Nat) (u : Tile) : Prop :=
  u.cells = (chunkSum t part rows cols ends hi ends.length).cells ∧ u.m = t.m ∧ u.n = t.n ∧ u.firstDone = (t.firstDone || !ends.isEmpty) ∧
    u.info.acc = t.info.acc ∧ u.b16 = t.b16 ∧ u.loaded = false

/-- Elements that the violations of a tile's STRICT-free reports remove (R176, R177). -/
def removed (vs : List Viol) : Nat :=
  ((vs.filter (fun v => !v.strict && decide (v.kind ≠ .metaDup) && decide (v.kind ≠ .outside))).map Viol.count).sum

end Sys2Proof.Claims

open Sys2Proof.Claims

/-- R92, R97, R99, R121, R126, R129, R138, R180, R351: an `arr.mm` that begins adds the block partials of its operands to the bank of its tile, one block after another: from zero where it opens the tile, onto what the bank holds where it continues it. It ends the chunks of an EXACT tile at the global boundaries; with END it hands the bank to the drain unit, else it leaves the tile in progress; FREE is owed. A strict violation stops it before the block of its K-step, and its fault point stands. Readings and choices of the model that it rests on: log 35, 36, 142, 168. -/
def Sys2Proof.Claims.ArraySums : Prop :=
  ∀ (s : State) (c : CoreId) (n : Nat) (pc : BitVec 32), s.hasDie c.die = true → s.ecc = [] →
    let k := s.core c
    k.pstate = .run → ∀ (a x : Fin 2) (m : MmCmd) (q : CtxCfg) rest,
      let g := vget k.ga a
      let cx := vget g.ctx x
      let blk := blockSize m.a m.b
      let rows := m.a.lanes
      let cols := m.b.lanes
      let kb := m.kbase.toNat
      vget k.qGa a = .cmd n pc (.mm x m) :: rest → g.ready (.mm x m) = true → (x = 0 ∨ g.dual = true) → cx.cfg = some q → m.start = cx.tile.isNone →
      (∀ t, cx.tile = some t → t.b16 = decide (blk = 16) ∧ (t.loaded = true → t.knext = kb)) → (m.fin = true → epiReach q.epi m.origin rows cols = true) →
        let ca := cvtOf m.a q.l.ace q.l.acvt
        let cb := cvtOf m.b q.l.bce q.l.bcvt
        let aNm := m.a.nm && !m.b.nm
        let ra := s.opRows c m.a false aNm ca blk
        let rb := s.opRows c m.b true m.b.nm cb blk
        let viols := ra.1.flatMap OpRow.viols ++ ra.2 ++ rb.1.flatMap OpRow.viols ++ rb.2
        let step := kStep (ca.getD m.a.fmt) (cb.getD m.b.fmt) (aNm || m.b.nm)
        let fp := faultAt viols step m.a.reg m.b.reg x pc m.tag
        let nb := ceilDiv m.a.kExt blk
        let hi := (fp.map (fun p => min nb (p.1 * step / blk))).getD nb
        let t0 := (cx.tile.getD (Tile.open' (q.info g.dual) rows cols (decide (blk = 16)) kb)).continued rows cols
        let part (b i j : Nat) (w : Cell) : Cell := accAdd t0.info.acc w (partAt ra.1 rb.1 blk b i j)
        let ends := chunkEnds t0.info.exact' kb hi id (if m.fin then some (nb - 1) else none)
        ∃ t js, exec (.engineCommandBegin c (.ga a)) s = .next t ∧ (t.core c).qGa = vset k.qGa a rest ∧ t.mem = s.mem ∧
          (vget (t.core c).ga a).todo = g.todo ++ js ∧ ChunkJobs t0 part rows cols rows cols ends hi js ∧
          (fp = none → (vget (t.core c).ga a).fault = g.fault ∧ (vget (t.core c).ga a).frees = g.frees ++ [(x, n, m.free)]) ∧
          (∀ p, fp = some p → (vget (t.core c).ga a).fault = some p.2) ∧
          (fp = none → m.fin = true → (vget (vget (t.core c).ga a).ctx x).tile = none ∧ js.length = ends.length + 1 ∧
            vget (vget (t.core c).ga a).owed x = 0 ∧ (js.map DrainJob.left).sum = vget g.owed x + nb ∧
            ∃ j, js[ends.length]? = some j ∧ EndsTile t0 part rows cols rows cols ends hi m j ∧ j.info.viol = t0.info.viol + removed viols) ∧
          (fp ≠ none ∨ m.fin = false → js.length = ends.length ∧ (js.map DrainJob.left).sum + vget (vget (t.core c).ga a).owed x = vget g.owed x + hi ∧
            ∃ u, (vget (vget (t.core c).ga a).ctx x).tile = some u ∧ Continues t0 part rows cols ends hi u ∧ (0 < hi → u.knext = kb + hi) ∧
              (ends = [] → 0 < hi → u.cnt.toNat = min 4097 (t0.cnt.toNat + hi)))

/-- R126, R150, R155 to R158, R216 to R218: when a plain `arr.drain`, an `arr.save`, an `arr.load` or a `skt.pass` begins: the bank goes to the drain unit, into a save record, or comes from one that fits the configuration; one that does not raises SEQUENCE; a sketch pass sums its blocks in a CF32 bank of its own. Readings and choices of the model that it rests on: log 43, 138, 146, 176. -/
def Sys2Proof.Claims.ArrayBegins : Prop :=
  ∀ (s : State) (c : CoreId) (n : Nat) (pc : BitVec 32), s.hasDie c.die = true →
    let k := s.core c
    k.pstate = .run → ∀ (a x : Fin 2) rest,
      let g := vget k.ga a
      let cx := vget g.ctx x
      let took (f : GridArray → GridArray) : State := s.modCore c (fun k => { k with qGa := vset k.qGa a rest, ga := vmod k.ga a f })
      let run (u : State) : Prop := exec (.engineCommandBegin c (.ga a)) s = .next u
      (x = 0 ∨ g.dual = true) →
      (∀ o origin tag done q t, vget k.qGa a = .cmd n pc (.drain x o origin tag done) :: rest → g.ready (.drain x o origin tag done) = true → cx.cfg = some q → cx.tile = some t →
        (epiReach q.epi origin o.rows (Leg.ext0 o.prim) = true → run (took (fun g => { g with
          ctx := vmod g.ctx x (fun y => { y with tile := none }), bank := vmod g.bank x (fun b => !b), owed := vset g.owed x 0,
          todo := g.todo ++ [endJob x n pc t o.rows (Leg.ext0 o.prim) o origin tag done (vget g.owed x)] }))) ∧
        (epiReach q.epi origin o.rows (Leg.ext0 o.prim) = false → run ((took (fun g => { g with ctx := vmod g.ctx x (fun y => { y with tile := none }) })).coreFault c
          ⟨0x020D, pc, q.desc, 0, []⟩))) ∧
      (∀ off done q t, vget k.qGa a = .cmd n pc (.save x off done) :: rest → g.ready (.save x off done) = true → cx.cfg = some q → cx.tile = some t →
        run (took (fun g => { g with
          ctx := vmod g.ctx x (fun y => { y with tile := none }), bank := vmod g.bank x (fun b => !b), saving := some ⟨n, pc, x, off.toNat, saveRecord q t, done⟩ }))) ∧
      (∀ off done q, vget k.qGa a = .cmd n pc (.load x off done) :: rest → g.ready (.load x off done) = true → cx.cfg = some q → cx.tile = none → s.ecc = [] →
        let bs := s.mem.read (clmAddr c + off.toNat) (saveLen (Acc.ofCode q.l.acc.toNat))
        let fits : Prop := d8 bs 0 = q.l.acc.toNat ∧ d8 bs 1 = q.l.kind.toNat ∧ d8 bs 2 = q.l.aclass.toNat + 4 * q.l.bclass.toNat ∧
          d8 bs 3 < 16 ∧ d8 bs 3 % 8 = q.l.exact'.toNat + 2 * q.l.exwMode.toNat ∧ d16 bs 0x12 = 0 ∧ d32 bs 0x14 < 2 ^ 13 ∧ dZero bs 0x18 40 = true
        (fits → QuietOpt s c done → run (posted (took (fun g => { g with ctx := vmod g.ctx x (fun y => { y with tile := some (loadTile q g.dual bs) }) })) c done)) ∧
        (¬fits → run ((took id).coreFault c ⟨0x020B, pc, BitVec.ofNat 32 (x.val + 2 * a.val), 0, []⟩))) ∧
      (∀ va vb desc ace acvt origin tag done, vget k.qGa a = .cmd n pc (.skt va vb desc ace acvt origin tag done) :: rest →
        g.ready (.skt va vb desc ace acvt origin tag done) = true → k.passHeld n = false → s.ecc = [] → desc.toNat % 64 = 0 → desc.toNat + 64 ≤ 2 ^ 23 →
        let bs := s.mem.read (clmAddr c + desc.toNat) 64
        let ra := (s.opRows c va false false (cvtOf va ace acvt) vb.blk).1
        let rb := (s.opRows c vb true false none vb.blk).1
        sktDescOk bs (origin.toNat % 2 ^ 32) va.lanes (origin.toNat / 2 ^ 32) vb.lanes = true →
          ∃ t r, run t ∧ (vget (t.core c).ga a).skt = some r ∧ (t.core c).qGa = vset k.qGa a rest ∧ (t.core c).qSkt = dropSeq k.qSkt n ∧ t.mem = s.mem ∧
            r.seq = n ∧ r.tag = tag ∧ r.origin = origin ∧ r.done = done ∧ r.desc = bs ∧
            r.cells = (raster va.lanes vb.lanes).map (fun p =>
              (List.range (ceilDiv va.kExt vb.blk)).foldl (fun w b => accAdd .cf32 w (partAt ra rb vb.blk b p.1 p.2)) Cell.zero))

/-- R149, R150, R180, R192 to R195, R198 to R206, R351, R353: a `jct.spmm` or `jct.spdot` that begins adds its windows to the bank of its tile, each as the segments of its rows; it opens the tile with the epilogue descriptor that its start form names, or continues one that its declarations fit; a `jct.bag` reads its index list and waits with the entries that it does not skip. What does not fit raises SEQUENCE. Readings and choices of the model that it rests on: log 35, 36, 142, 168. -/
def Sys2Proof.Claims.JunctionSums : Prop :=
  ∀ (s : State) (c : CoreId) (n : Nat) (pc : BitVec 32), s.hasDie c.die = true → s.ecc = [] →
    let k := s.core c
    k.pstate = .run → ∀ (op : JOp) (m : MmCmd) (d : LayD) (off desc : BitVec 32) (w : Bool) rest,
      let cmd : JctCmd := .mm op m d off desc w
      let cols := jctCols op m.b
      let bs := s.mem.read (clmAddr c + desc.toNat) 64
      let b16 := decide (op ≠ .bag) && decide (blockSize m.a m.b = 16)
      let opens (t : Tile) (q : JctDecl) : Prop := k.jx.tile = none ∧ m.start = true ∧ desc.toNat % 64 = 0 ∧ desc.toNat + 64 ≤ 2 ^ 23 ∧ epiOk bs = true ∧
        t = Tile.open' (jctInfo d off bs) m.a.rows cols b16 m.kbase.toNat ∧ q = ⟨op, d, off, desc, m.a.rows, cols, List.replicate m.a.rows 0⟩
      let goesOn (t : Tile) (q : JctDecl) : Prop := k.jx.tile = some (t, q) ∧ m.start = false ∧ jctFits t q op m d off = true
      k.qJx = .cmd n pc cmd :: rest → k.jx.ready cmd = true →
      ((m.start = false ∧ k.jx.tile = none) ∨ (∃ t q, k.jx.tile = some (t, q) ∧ (m.start = true ∨ jctFits t q op m d off = false)) →
        exec (.engineCommandBegin c .jx) s = .next ((s.modCore c (fun k => { k with qJx := rest })).coreFault c ⟨0x020B, pc, 4, 0, []⟩)) ∧
      (∀ t1 q, opens t1 q ∨ goesOn t1 q → (m.fin = true → epiReach t1.info.epi m.origin m.a.rows cols = true) →
        let t0 := t1.continued m.a.rows cols
        (op ≠ .bag →
          let blk := blockSize m.a m.b
          let kb := m.kbase.toNat
          let ra := (s.opRows c m.a false false none blk).1
          let rb := (s.opRows c m.b true false none blk).1
          let viols := ra.flatMap OpRow.viols ++ rb.flatMap OpRow.viols
          let len := windowOf m.a.fmt m.b.fmt
          let nb := ceilDiv (Leg.ext0 m.a.prim) blk
          let wins := windowsOf (len / blk) kb nb
          let fp := jctFault viols (fun i => (kb * blk + i) / len - kb * blk / len) m.a.reg m.b.reg pc m.tag
          let hi := (fp.map (fun p => min wins.length p.1)).getD wins.length
          let part (u i j : Nat) (x : Cell) : Cell :=
            windowCell t0.info.acc ra rb blk (wins.getD u []) (segmentsOf (ra.getD i ⟨[], [], [], 0⟩) blk (wins.getD u [])) i j x
          let ends := chunkEnds t0.info.exact' kb hi (fun u => (wins.getD u []).foldl max 0) (if m.fin then some (nb - 1) else none)
          ∃ t js, exec (.engineCommandBegin c .jx) s = .next t ∧ (t.core c).qJx = rest ∧ t.mem = s.mem ∧ (t.core c).jx.todo = k.jx.todo ++ js ∧
            ChunkJobs t0 part ra.length rb.length m.a.rows cols ends hi js ∧
            (fp = none → (t.core c).jx.fault = none ∧ (t.core c).jx.frees = k.jx.frees ++ [(n, m.free)]) ∧ (∀ p, fp = some p → (t.core c).jx.fault = some p.2) ∧
            (fp = none → m.fin = true → (t.core c).jx.tile = none ∧ js.length = ends.length + 1 ∧
              ∃ j, js[ends.length]? = some j ∧ EndsTile t0 part ra.length rb.length m.a.rows cols ends hi m j ∧ j.info.viol = t0.info.viol + removed viols) ∧
            (fp ≠ none ∨ m.fin = false → js.length = ends.length ∧
              ∃ u, (t.core c).jx.tile = some (u, q) ∧ Continues t0 part ra.length rb.length ends hi u)) ∧
        (op = .bag →
          let ws := (List.range m.a.rows).map (fun i => s.bagEntries c m.a m.b w i)
          jctFault (ws.flatMap BagWalk.viols) (fun _ => 0) m.a.reg m.b.reg pc m.tag = none →
            ∃ t u, exec (.engineCommandBegin c .jx) s = .next t ∧ (t.core c).qJx = rest ∧ t.mem = s.mem ∧
              (t.core c).jx.bag = some ⟨n, pc, m, ws.map BagWalk.ents, d.rowsem⟩ ∧ (t.core c).jx.tile = some (u, q) ∧ u.cells = t0.cells ∧ u.m = t0.m ∧ u.n = t0.n))

/-- R259, R260, R264, R265, R271 to R273, R287, R289: when a stream slot takes a command: a load, a store, a multicast or a gather is planned as requests in stream order, those of a copy at once, those of a gather as its offsets and indices; `str.resume` lets a slot that stopped for a fault or a stop request go on; `str.abort` forgets the position and leaves the slot idle, or aborting while transfers are outstanding. Readings and choices of the model that it rests on: log 63. -/
def Sys2Proof.Claims.StreamBegins : Prop :=
  ∀ (s : State) (c : CoreId) (i : Fin 16) (n : Nat) (pc : BitVec 32), s.hasDie c.die = true →
    let k := s.core c
    let run (t : State) : Prop := exec (.engineCommandBegin c (.slot i)) s = .next t
    let took (f : Slot → Slot) : State := s.modCore c (fun k => { k with qStr := dropSeq k.qStr n, slots := vmod k.slots i f })
    let slot := vget k.slots i
    (∀ (m : MoveCmd) rest, k.qStr = .cmd n pc (.move i m) :: rest → slot.st = .idle →
      let bases := s.strBases c m
      let sp := Leg.sparse m.src.prim
      let begun (runs : List Run) (ended : Bool) : Slot → Slot := fun x =>
        let units := runs.filterMap (fun r => if r.run = noRun ∨ r.index.isSome ∨ m.kind = .gather then none else some (r.run, r.reqs.length, 0))
        { x.cleared with
          st := .running, cmd := some (n, pc, m), plan := runs.flatMap Run.reqs, runs := units,
          gather := { off0 := none, offN := none, idx := [], next := 0, ended := ended, rows := units.length } }
      0 < m.pgran →
      (m.kind ≠ .gather → sp = 0 → 0 < Leg.ext0 m.src.prim → (elemRuns m.src m.dst bases).flatMap Run.reqs ≠ [] → run (took (begun (elemRuns m.src m.dst bases ++ scaleRuns m.src m.dst bases) true))) ∧
      (m.kind ≠ .gather → sp = 5 → (sparseHead m.src m.dst bases ++ sparseScale m.src m.dst bases).flatMap Run.reqs ≠ [] →
        run (took (begun (sparseHead m.src m.dst bases ++ sparseScale m.src m.dst bases) true))) ∧
      (m.kind ≠ .gather → sp ≠ 0 → sp ≠ 5 → s.isNear (addr64 m.src.aux0Addr) = false → (sparseHead m.src m.dst bases).flatMap Run.reqs ≠ [] →
        run (took (begun (sparseHead m.src m.dst bases) false))) ∧
      (m.kind ≠ .gather → sp ≠ 0 → sp ≠ 5 → s.isNear (addr64 m.src.aux0Addr) = true → s.ecc = [] →
        (∀ r ∈ headReads (s.localView m.src), s.inBounds (s.strPart c) r.1 r.2 = true) →
        let f := s.headFacts (s.localView m.src)
        let runs := sparseHead m.src m.dst bases ++ sparseTail m.src m.dst bases f.1 f.2.1 f.2.2
        runs.flatMap Run.reqs ≠ [] → ∃ t, run t ∧ t.mem = s.mem ∧ (t.core c).qStr = dropSeq k.qStr n ∧ vget (t.core c).slots i = begun runs true slot) ∧
      (∀ v, m.kind = .gather → m.idx = some v → run (took (begun (offsetRuns v) false))) ∧
      (∀ q, m.kind = .gather → m.idx = none → m.queue = some q → m.count ≠ 0 → run (took (begun [] false))) ∧
      (∀ q, m.kind = .gather → m.idx = none → m.queue = some q → m.count = 0 → QuietOpt s c m.msem → QuietOpt s c m.done →
        run (posted (posted (took (fun x => { x.cleared with st := .idle })) c m.msem) c m.done))) ∧
    (∀ rest, k.qStr = .cmd n pc (.resume i) :: rest →
      (slot.st = .stopped → slot.cause = 1 ∨ slot.cause = 2 ∨ slot.cause = 6 → run (took (fun x =>
        { x with st := .running, failing := none, redo := x.redo.map (fun t => { t with hostFault := false }) }))) ∧
      (slot.st ≠ .stopped ∨ (slot.cause ≠ 1 ∧ slot.cause ≠ 2 ∧ slot.cause ≠ 6) → run (took id))) ∧
    (∀ rest, k.qStr = .cmd n pc (.abort i) :: rest →
      (slot.out = [] → run ((s.unwait c i).modCore c (fun k => { k with qStr := dropSeq k.qStr n, slots := vmod k.slots i (fun x => { x.cleared with st := .idle }) }))) ∧
      (slot.out ≠ [] → ∃ t, run t ∧ (t.core c).qStr = dropSeq k.qStr n ∧ t.mem = s.mem ∧
        (vget (t.core c).slots i).st = .aborting ∧ (vget (t.core c).slots i).out = slot.out ∧ (vget (t.core c).slots i).cmd = none ∧
        (vget (t.core c).slots i).plan = [] ∧ (vget (t.core c).slots i).redo = [] ∧
        (∀ q pc' m, slot.cmd = some (q, pc', m) → (vget (t.core c).slots i).aborted = some q)))

/-- R20, R22, R339: full queues and pending results hold the sequencer, and an engine begins the command at the head of its queue. -/
def Obligations.StallsAndBegins : Prop :=
  Claims.StallsAndSkips ∧ Claims.EngineBegins ∧ Claims.ArrayBegins ∧ Claims.StreamBegins


open Sys2Proof.Claims

/-- R127, R129, R138, R156, R180, R181: the events of a grid array: the FREE post, the blocks that the feeders issue up to the bank switch, with two ready contexts in turn, the end of a save, and the fault points, which wait for the chunks of their context that ended before them. Readings and choices of the model that it rests on: log 35, 36. -/
def Sys2Proof.Claims.ArrayPasses : Prop :=
  ∀ (s : State) (c : CoreId) (a : Fin 2), s.hasDie c.die = true →
    let g := vget (s.core c).ga a
    (∀ x q f rest, g.frees = (x, q, f) :: rest → QuietOpt s c f → exec (.arrFreePost c ⟨a, x⟩) s = .next (posted (withArr s c a (fun g => { g with frees := rest })) c f)) ∧
    (∀ j rest dry, g.todo = j :: rest → j.left = 0 → g.jobs = [] → exec (.arrBankSwitch c ⟨a, dry⟩) s = .next (withArr s c a (fun g => { g with todo := rest, jobs := [j] }))) ∧
    (∀ j, g.todo = [j] → g.jobs = [] → ∃ t, exec (.arrBankSwitch c ⟨a, []⟩) s = .next t ∧ (vget (t.core c).ga a).todo = [] ∧
      (vget (t.core c).ga a).jobs = [{ j with left := 0 }] ∧ t.mem = s.mem ∧ (t.core c).g = (s.core c).g ∧ (t.core c).sems = (s.core c).sems) ∧
    (∀ dry, (∀ j ∈ g.todo, j.left = 0 ∧ ∃ q ∈ g.jobs, q.ctx = j.ctx) → exec (.arrBankSwitch c ⟨a, dry⟩) s = .next s) ∧
    (∀ i j, g.todo = [i, j] → i.ctx = 0 → j.ctx = 1 → i.left ≠ 0 → j.left ≠ 0 →
      (g.last = 0 → g.boundary 0 = { g with last := 1, todo := [i, { j with left := j.left - 1 }] }) ∧
      (g.last = 1 → g.boundary 0 = { g with last := 0, todo := [{ i with left := i.left - 1 }, j] })) ∧
    (∀ j, g.todo = [j] → j.ctx = 0 → j.left ≠ 0 → vget g.owed 1 ≠ 0 →
      (g.last = 0 → g.boundary 0 = { g with last := 1, owed := vmod g.owed 1 (fun n => n - 1) }) ∧
      (g.last = 1 → g.boundary 0 = { g with last := 0, todo := [{ j with left := j.left - 1 }] }) ∧
      g.boundary 3 = { g with pipe := g.pipe.bubble }) ∧
    (∀ r, g.saving = some r → s.ecc = [] → QuietOpt s c r.done → exec (.arrSaveComplete c a) s =
      .next (posted ({ withArr s c a (fun g => { g with saving := none }) with mem := s.mem.write (clmAddr c + r.off) r.bytes }) c r.done)) ∧
    (∀ f : FaultPt, g.fault = some f →
      let e : Engine := if a = 0 then .ga0 else .ga1
      let recs := f.recs.map (fun r => (⟨r.1, f.pc, r.2, 0, if r.1 = 0x020A then [] else leBytes 1 a.val ++ leBytes 7 0 ++ leBytes 8 f.tag.toNat⟩ : FRec))
      ((∀ j ∈ g.todo, j.ctx ≠ f.ctx) → (∃ r ∈ f.recs, r.1 ≠ 0x0400) → exec (.strictViolationFault c e) s = .next (s.coreFaults c recs f.suppressed)) ∧
      ((∀ j ∈ g.todo, j.ctx ≠ f.ctx) → (∃ r ∈ f.recs, r.1 = 0x0400) → exec (.metaErr c e) s = .next (s.coreFaults c recs f.suppressed)) ∧
      ((∃ j ∈ g.todo, j.ctx = f.ctx) → exec (.strictViolationFault c e) s = .next s ∧ exec (.metaErr c e) s = .next s))

/-- R92, R97, R127, R129, R138, R156, R180: what an `arr.mm` leaves in the banks as it begins, and the events of a grid array that follow. -/
def Obligations.ArrayEvents : Prop := Claims.ArrayPasses ∧ Claims.ArraySums

/-- R108, R109: the addition of a finished chunk into its ExW region, at either grid array or at the junction engine, gives every in-bounds element the element's exact word, added to what the region held unless this is the first chunk of a tile that overwrites; no byte outside the region changes. Readings and choices of the model that it rests on: log 35. -/
def Obligations.ExwChunkAdded : Prop :=
  ∀ (s : State) (c : CoreId) (e : Engine) (j : DrainJob) (rest : List DrainJob), s.hasDie c.die = true → j.kind = .chunk →
    (∃ a : Fin 2, e = gaEngine a ∧ (vget (s.core c).ga a).jobs = j :: rest) ∨ (e = .jx ∧ (s.core c).jx.jobs = j :: rest) →
    s.ecc = [] → s.mem.wf = true → j.cells.length = j.info.m * j.info.n → j.info.m ≤ 128 → j.info.n ≤ 128 →
    ∃ t, exec (.exwChunkAddComplete c e) s = .next t ∧ (∀ a : Fin 2, e = gaEngine a → (vget (t.core c).ga a).jobs = rest) ∧ (e = .jx → (t.core c).jx.jobs = rest) ∧
      (∀ m n, m < j.info.m → n < j.info.n → ∃ x, j.cells[m * j.info.n + n]? = some x ∧
        t.mem.read (s.exwAddr c j.info.exwOff m n) 48 =
          ((if j.first = true ∧ j.info.exwMode.getLsbD 0 = false then ExW.zero
           else ExW.ofBytes (s.mem.read (s.exwAddr c j.info.exwOff m n) 48)).take (x.contrib j.info.acc)).bytes) ∧
      (∀ x, (x < s.exwAddr c j.info.exwOff 0 0 ∨ s.exwAddr c j.info.exwOff 0 0 + 786432 ≤ x) → t.mem.get x = s.mem.get x)

/-- R156, R157, R158: `arr.load` restores what `arr.save` saved: every bank element with its saturation bit, the block count, the next block, the block size, the flags, and whether a chunk of the tile has reached its ExW region. Readings and choices of the model that it rests on: log 43, 138, 169, 173, 174, 175. -/
def Obligations.SaveLoadRoundTrip : Prop :=
  ∀ (cfg : CtxCfg) (t : Tile) (dual : Bool), t.info.acc = Acc.ofCode cfg.l.acc.toNat → t.knext < 2 ^ 64 →
    let bs := saveRecord cfg t
    let u := loadTile cfg dual bs
    bs.length = saveLen t.info.acc ∧
    (∀ m n, m < 128 → n < 128 →
      (u.cell m n).w0 = (t.cell m n).w0 ∧ (u.cell m n).sat = (t.cell m n).sat ∧
      (t.info.acc = .cf32 ∨ t.info.acc = .i48 → (u.cell m n).w1 = (t.cell m n).w1)) ∧
    u.cnt = (if t.cnt.toNat ≤ 4096 then t.cnt else 4096) ∧ u.knext = t.knext ∧ u.b16 = t.b16 ∧ u.loaded = true ∧
    u.info.flags = flagIf (t.flags &&& ~~~(flagIf (flagIf 0 .exact' true) .dual true)) .eccCorr cfg.corr ∧ u.firstDone = hasFlag t.flags .exact' ∧
    (hasFlag t.info.flags .exact' = false → u.firstDone = t.firstDone) ∧
    (hasFlag t.info.flags .dual = false → (cfg.corr = true → hasFlag t.info.flags .eccCorr = true) → u.flags = t.flags)

namespace Sys2Proof.Claims

/-- Memory with the codes of a row written from an address, element `i` at bit `w·i`; the rest of a last byte that the row shares stays (R56, R147). -/
def elemsMem (q : Memory) (a w : Nat) (codes : List Nat) : Memory :=
  let total := codes.foldr (fun x acc => x % 2 ^ w + 2 ^ w * acc) 0
  let bits := w * codes.length
  if w % 8 = 0 then q.write a (codes.flatMap (fun x => leBytes (w / 8) x))
  else if bits % 8 = 0 then q.write a (leBytes (bits / 8) total)
  else (q.write a (leBytes (bits / 8) total)).setBits (a + bits / 8) 0 (bits % 8) (total / 2 ^ (bits / 8 * 8))

/-- Memory with one run of a view written: its elements, and its scale bytes where the view has scales (R32). -/
def runMem (q : Memory) (o : View) (a run : Nat) (codes scales : List Nat) : Memory :=
  let q := elemsMem q a o.bits codes
  if Leg.scale o.prim = 0 then q else q.write (o.scaleAddr.toNat + run * o.scaleDims.1) (scales.map (fun x => BitVec.ofNat 8 x))

end Sys2Proof.Claims

/-- R28, R109, R115, R117, R124, R127, R147, R150, R151, R154, R209, R506: when the bank of a tile has drained, at a grid array or at the junction engine, its output view holds every element that the epilogue gives, converted to the view's format with its scales, the bottom row written first, unless EXW_MODE says that it has none; an EXACT tile's bank has first entered its ExW region, whose elements then are the values. The TSR stands in the next slot of the status ring with the tile's tag, counts and flags, TSR_COUNT is one more, FLAGS_SUM has taken the flags in, and DONE is posted. Readings and choices of the model that it rests on: log 35. -/
def Obligations.DrainReports : Prop :=
  ∀ (s : State) (c : CoreId) (j : DrainJob) (rest : List DrainJob) (i : Instr), s.hasDie c.die = true → j.kind = .final →
    s.ecc = [] → s.mem.wf = true → QuietOpt s c j.done → j.cells.length = j.info.m * j.info.n →
    ((∃ a, i = .arrDrainComplete c a ∧ (vget (s.core c).ga a).jobs = j :: rest) ∨ (i = .jctDrainComplete c ∧ (s.core c).jx.jobs = j :: rest)) →
    let f := j.info
    let u : State := if f.exact' then s.exwAddBank c j else s
    let value (m n : Nat) : Val := if f.exact' then (u.exwGet c f.exwOff m n).val else (j.cells.getD (m * f.n + n) Cell.zero).value f.acc
    let e4 (m n : Nat) : Val × Bool := u.epiValue c f.epi j.origin m n (value m n)
    let draws := tileDraws f.rmode j.tag f.m f.n
    let row (m : Nat) : List Nat × List Conv := convRow j.o f.rmode f.ovf ((List.range f.n).map (fun n => ((e4 m n).1, draws.getD (128 * m + n) 0)))
    let output := (List.range f.m).reverse.foldl (fun q m => runMem q j.o (j.o.rowAddr m 0 0 0).toNat m ((row m).2.map Conv.code) (row m).1) u.mem
    let noOut := f.exact' && f.exwMode.getLsbD 1
    let slot := clmAddr c + tsrOff (s.core c).tsrRing (s.core c).tsrCount.toNat
    ∃ (t : State) (r : Tsr), exec i s = .next t ∧ r.tag = j.tag ∧ r.violCnt = f.viol ∧ r.vpos = f.vpos ∧
      r.satCnt = (if f.exact' then ((raster f.m f.n).filter (fun p => (u.exwGet c f.exwOff p.1 p.2).sat)).length else (j.cells.filter Cell.sat).length) ∧
      (f.dual = true → hasFlag r.flags .dual = true) ∧ (f.exact' = true → hasFlag r.flags .exact' = true) ∧
      (f.exact' = false → j.cells.any Cell.sat = true → hasFlag r.flags .sat = true) ∧ (∀ n, f.flags.getLsbD n = true → r.flags.getLsbD n = true) ∧
      (noOut = true → t.mem = u.mem.write slot r.bytes ∧ r.convCnt = f.conv) ∧
      (noOut = false → t.mem = output.write slot r.bytes ∧ r.amax = amaxOf ((raster f.m f.n).map (fun p => (e4 p.1 p.2).1)) ∧
        r.convCnt = f.conv + (((raster f.m f.n).filter (fun p => (e4 p.1 p.2).2)).length + (((List.range f.m).flatMap (fun m => (row m).2)).filter Conv.sat).length)) ∧
      t.mem.read slot 32 = r.bytes ∧
      (t.core c).tsrCount = (s.core c).tsrCount + 1 ∧ (t.core c).flagsSum = (s.core c).flagsSum ||| r.flags ∧
      (∀ n ∈ j.done, t.sem c n = s.sem c n + 1) ∧ (t.core c).g = (s.core c).g ∧ (t.core c).pc = (s.core c).pc

/-- R187, R188, R190, R192, R195, R209: the events of the junction engine: a route step counts the stored entries of a CSR operand and tests them against its threshold, its result lands in `pd` and `gc`; FREE is posted; the tile bank becomes the shadow bank; a bag waits until ROWSEM admits its rows. Readings and choices of the model that it rests on: log 35, 51, 143. -/
def Sys2Proof.Claims.JunctionPasses : Prop :=
  ∀ (s : State) (c : CoreId), s.hasDie c.die = true →
    let j := (s.core c).jx
    (∀ n pc (l : LayJ) (a b : View) thr rest, (s.core c).qJx = .cmd n pc (.route l a b thr) :: rest → j.fault = none → s.ecc = [] → (s.core c).pstate = .run →
      l.kind = 0#2 → l.tsrc = true → Leg.sparse a.prim = 1 →
      let cnt := s.ptrAt a a.rows - s.ptrAt a 0
      exec (.engineCommandBegin c .jx) s = .next (s.modCore c (fun k => { k with
        qJx := rest
        jx := { k.jx with routes := k.jx.routes ++
          [(n, l.pd, l.gc, decide (65536 * (cnt * a.vblk) ≤ thr.toNat * Leg.ext0 a.prim * a.rows), BitVec.ofNat 64 (cnt * a.vblk))] } }))) ∧
    (∀ q pd gc v n rest, j.routes = (q, pd, gc, v, n) :: rest → exec (.jctRouteComplete c) s =
      .next (s.modCore c (fun k => (({ k with jx := { k.jx with routes := rest } } : Core).setP pd v).setG gc n))) ∧
    (∀ x rest, j.todo = x :: rest → j.jobs = [] → exec (.jctTileEnd c) s = .next (withJx s c (fun j => { j with todo := rest, jobs := [{ x with left := 0 }] }))) ∧
    (∀ q f rest, j.frees = (q, f) :: rest → QuietOpt s c f → exec (.jctFreePost c) s = .next (posted (withJx s c (fun j => { j with frees := rest })) c f)) ∧
    (∀ r t q, j.frees = [] → j.bag = some r → j.tile = some (t, q) →
      ((s.core c).rowsIn r = false → exec (.jctFreePost c) s = .next s) ∧
      ((s.core c).rowsIn r = true → s.ecc = [] → QuietOpt s c r.m.free → ∃ u, exec (.jctFreePost c) s = .next u ∧ (u.core c).jx.bag = none ∧ u.mem = s.mem ∧
        (u.core c).g = (s.core c).g ∧ (∀ n ∈ r.m.free, u.sem c n = s.sem c n + 1) ∧
        (let cols := Leg.ext0 r.m.b.prim
         let sums := ((raster t.m t.n).zip t.cells).map (fun p =>
           if p.1.1 < r.ents.length ∧ p.1.2 < cols then s.bagCell t.info.acc r.m.b (r.ents.getD p.1.1 []) p.1.2 p.2 else p.2)
         (r.m.fin = false → (u.core c).jx.todo = j.todo ∧ ∃ x y, (u.core c).jx.tile = some (x, y) ∧ x.cells = sums ∧ x.m = t.m ∧ x.n = t.n ∧
           y.counts = (q.counts.zip (r.ents.map List.length)).map (fun p => p.1 + p.2)) ∧
         (r.m.fin = true → (u.core c).jx.tile = none ∧ ∃ x, (u.core c).jx.todo = j.todo ++ [x] ∧ x.kind = .final ∧ x.info.m = r.m.a.rows ∧ x.info.n = cols ∧
           x.cells = ({ t with cells := sums } : Tile).slice r.m.a.rows cols ∧ x.o = r.m.o ∧ x.origin = r.m.origin ∧ x.tag = r.m.tag ∧ x.done = r.m.done)))) ∧
    (∀ r, (s.core c).rowsIn r = true ↔ (Engine.jx, r.seq) ∈ (s.core c).met ∨
      ∀ j ∈ r.ents.flatMap (fun es => es.map Prod.fst), (∀ k ∈ r.ents.flatMap (fun es => es.map Prod.fst), k ≤ j) →
        (vget (s.core c).sems r.rowsem - ((r.m.kbase).setWidth 32 + BitVec.ofNat 32 (j + 1))).toNat < 2 ^ 31)

/-- R187 to R195, R198 to R209: what a tile command leaves in the bank of the junction engine as it begins, and the events that follow. -/
def Obligations.JunctionEvents : Prop := Claims.JunctionPasses ∧ Claims.JunctionSums

namespace Sys2Proof.Claims

/-- Element `i` of run `r` of what an elementwise command, `v.cvt` or `v.st` computes, before its conversion into D (R354). -/
def vecValue (s : State) (v : VecCmd) (r : (Nat × Nat × Nat × Nat) × Nat) (i : Nat) : Val :=
  let x := (s.vecAt v.x r i).1
  let y := if v.scal then f32Val v.sval else (s.vecAt v.y r i).1
  match v.op with
  | .add => f32Val (f32Of .rne (x.add y))
  | .mul => f32Val (f32Of .rne (x.mul y))
  | .fma => f32Val (f32Of .rne ((x.mul y).add (s.vecAt v.z r i).1))
  | .max => maxVal x y
  | .exp => f32Val (expFn (f32Of .rne x))
  | .rsqrt => f32Val (rsqrtFn (f32Of .rne x))
  | .cvt => s.scaledAt v.x r i
  | .st => f32Val v.sval
  | _ => x

/-- The value of run `r` that `v.reduce` or `v.norm2` computes (R354). -/
def vecFold (s : State) (v : VecCmd) (r : (Nat × Nat × Nat × Nat) × Nat) : Val :=
  let xs := (List.range (Leg.ext0 v.x.prim)).map (fun i => (s.vecAt v.x r i).1)
  if v.op = .reduce then vecReduce v.opt xs else vecNorm (v.opt.getLsbD 0) xs

/-- The rows of values that a command computes: one value for each row of X under `v.reduce` and `v.norm2`, D's extent of the scalar under `v.st`. -/
def vecValues (s : State) (v : VecCmd) : List (List Val) :=
  if v.op = .reduce ∨ v.op = .norm2 then v.x.runs.map (fun r => [vecFold s v r])
  else if v.op = .st then v.d.runs.map (fun _ => List.replicate (Leg.ext0 v.d.prim) (f32Val v.sval))
  else v.x.runs.map (fun r => (List.range (Leg.ext0 v.x.prim)).map (fun i => vecValue s v r i))

end Sys2Proof.Claims

/-- R63, R73 to R87, R354, R355: the command in the vector unit completes: it leaves the unit; `v.ld` writes `gd` with the FP32 bits of its element; every other command writes the runs of D in order with its values, converted to D's format with its scales, a `v.cvt` between views of one format with the codes of its source; the status word, where asked for, holds the saturations and whether a value is not finite; DONE is posted; without an ECC mark none faults. Readings and choices of the model that it rests on: log 52, 54, and log 57 where `v.ld` takes 0 for dimensions 2 to 4. -/
def Sys2Proof.Claims.VecCompletes : Prop :=
  ∀ (s : State) (c : CoreId), s.hasDie c.die = true → s.ecc = [] → s.mem.wf = true →
    let k := s.core c
    ∀ n pc v, k.vec = some (n, pc, v) →
      let left : State := s.modCore c (fun k => { k with vec := none })
      let status (q : Memory) (sats : Nat) (nf : Bool) : Memory :=
        match v.stw with
        | some o => q.write (clmAddr c + o.toNat) (leBytes 8 (min sats (2 ^ 32 - 1) + 2 ^ 32 * Bool.toNat nf))
        | none => q
      (∃ t, exec (.vecComplete c) s = .next t ∧ (t.core c).vec = none) ∧
      (QuietOpt s c v.done →
        (v.op = .ld →
          let i0 := v.index.toNat % 2 ^ 32
          let i1 := v.index.toNat / 2 ^ 32
          let x := s.vecAt v.x ((i1, 0, 0, 0), i1) i0
          let w : BitVec 32 := if v.x.fmt = .fp32 then BitVec.ofNat 32 (s.codeAt v.x (i1, 0, 0, 0) i0) else f32Of .rne x.1
          exec (.vecComplete c) s = .next (posted
            { left.modCore c (fun k => k.setG v.gd (w.setWidth 64)) with mem := status s.mem x.2 (!(f32Val w).isFin) } c v.done)) ∧
        (v.op ≠ .ld →
          let out := s.vecOut v (s.vecRows v).1
          let mem := (v.d.runs.zip out.1).foldl (fun q p => runMem q v.d (v.d.rowAddr p.1.1.1 p.1.1.2.1 p.1.1.2.2.1 p.1.1.2.2.2).toNat p.1.2 p.2.2 p.2.1) s.mem
          exec (.vecComplete c) s = .next (posted { left with mem := status mem ((s.vecRows v).2 + out.2.1) out.2.2 } c v.done) ∧
          ((∀ x ∈ v.sources, Leg.ext0 x.prim = Leg.ext0 v.x.prim) → (s.vecRows v).1 = vecValues s v) ∧
          ((∀ x ∈ v.sources, Leg.ext0 x.prim = Leg.ext0 v.x.prim) → v.copies = false → Leg.scale v.d.prim = 0 → ∀ r i row x, (vecValues s v)[r]? = some row → row[i]? = some x →
            let w := Leg.ext0 v.d.prim
            let draw := if v.rmode = 2 then (lfsrDraws (w * (vecValues s v).length) (seedOf v.seed)).getD (if v.op = .st then 0 else w * r + i) 0 else 0
            ∃ codes, out.1[r]? = some ([], codes) ∧ codes[i]? = some (convert v.d.fmt (rmodeOf v.rmode draw) v.ovf x).code) ∧
          (v.copies = true → ∀ (r : Nat) (q : (Nat × Nat × Nat × Nat) × Nat), v.x.runs[r]? = some q → ∃ scl : List Nat, out.1[r]? = some (scl,
            (List.range (Leg.ext0 v.d.prim)).map (fun i => if v.x.fmt.badTern (s.codeAt v.x q.1 i) then 0 else s.codeAt v.x q.1 i)))))

/-- R221: a sketch pass completes: its TSR carries the command's tag, TSR_COUNT is one more, DONE is posted and the array is free of it. Readings and choices of the model that it rests on: log 59. -/
def Sys2Proof.Claims.SktPassCompletes : Prop :=
  ∀ (s : State) (c : CoreId), s.hasDie c.die = true → s.ecc = [] → s.mem.wf = true →
    ∀ a r, (vget (s.core c).ga a).skt = some r → QuietOpt s c r.done → ∃ (t : State) (x : Tsr), exec (.sktPassComplete c a) s = .next t ∧
      (vget (t.core c).ga a).skt = none ∧ x.tag = r.tag ∧ t.mem.read (clmAddr c + tsrOff (s.core c).tsrRing (s.core c).tsrCount.toNat) 32 = x.bytes ∧
      (t.core c).tsrCount = (s.core c).tsrCount + 1 ∧ (∀ m ∈ r.done, t.sem c m = s.sem c m + 1)

/-- R222, R227: a select whose descriptor keeps R222 and whose regions lie in the CLM writes its statistics, posts DONE and leaves the unit; one that breaks a rule, or whose column list or exact values leave the CLM, raises SKETCH. Readings and choices of the model that it rests on: log 59, 145. -/
def Sys2Proof.Claims.SktSelectCompletes : Prop :=
  ∀ (s : State) (c : CoreId), s.hasDie c.die = true → s.ecc = [] → s.mem.wf = true →
    ∀ n pc desc done, (s.core c).skt = some (n, pc, .select desc done) →
      let bs := s.mem.read (clmAddr c + desc.toNat) 64
      let d := SelDesc.ofBytes bs
      let rows := (List.range d.rows).map (fun m => s.selectRow c d m)
      let uni := unionCols d.cols (rows.map RowSel.keep ++ auditRows d rows)
      let inClm : Prop := d.ulist + alignUp (2 * uni.length) 64 ≤ 2 ^ 23 ∧ (uni ≠ [] → d.exactv + (d.rows - 1) * d.estride + 4 * uni.length ≤ 2 ^ 23)
      (2 ^ 23 < desc.toNat + 64 ∨ selOk bs = false ∨ ¬inClm → exec (.sktSelectComplete c) s =
        .next ((s.modCore c (fun k => { k with skt := none })).coreFault c ⟨0x020E, pc, desc, 0, []⟩)) ∧
      (desc.toNat + 64 ≤ 2 ^ 23 → selOk bs = true → inClm → QuietOpt s c done → ∃ t, exec (.sktSelectComplete c) s = .next t ∧
        (t.core c).skt = none ∧ (∀ m ∈ done, t.sem c m = s.sem c m + 1) ∧
        t.mem.readN (clmAddr c + d.stat) 4 = rows.foldl (fun n r => n + r.keep.length) 0 ∧
        t.mem.readN (clmAddr c + d.stat + 8) 4 = rows.foldl (fun n r => n + r.skipped.length) 0 ∧
        t.mem.readN (clmAddr c + d.stat + 16) 2 = uni.length)

/-- R222, R229, R230: an audit whose descriptor keeps R222 and whose regions lie in the CLM writes a TSR with the command's tag, whose SKETCH_MISS says whether any output was missed, posts DONE and leaves the unit. Readings and choices of the model that it rests on: log 59, 145. -/
def Sys2Proof.Claims.SktAuditCompletes : Prop :=
  ∀ (s : State) (c : CoreId), s.hasDie c.die = true → s.ecc = [] → s.mem.wf = true →
    ∀ n pc desc tag done, (s.core c).skt = some (n, pc, .audit desc tag done) → QuietOpt s c done →
      let bs := s.mem.read (clmAddr c + desc.toNat) 64
      let d := SelDesc.ofBytes bs
      selOk bs = true → desc.toNat + 64 ≤ 2 ^ 23 → d.ulist + alignUp (2 * d.cols) 64 ≤ 2 ^ 23 → d.exactv + (d.rows - 1) * d.estride + 4 * d.cols ≤ 2 ^ 23 →
        ∃ (t : State) (x : Tsr), exec (.sktAuditComplete c) s = .next t ∧ (t.core c).skt = none ∧ x.tag = tag ∧ hasFlag x.flags .sketchMiss = decide (x.missCnt ≠ 0) ∧
          t.mem.read (clmAddr c + tsrOff (s.core c).tsrRing (s.core c).tsrCount.toNat) 32 = x.bytes ∧ (t.core c).tsrCount = (s.core c).tsrCount + 1 ∧
          (∀ m ∈ done, t.sem c m = s.sem c m + 1)

/-- R221, R227, R230, R355: the command in the vector unit, a sketch pass, a select and an audit complete: each leaves its unit, writes its results and posts DONE. -/
def Obligations.UnitCompletes : Prop :=
  Claims.VecCompletes ∧ Claims.SktPassCompletes ∧ Claims.SktSelectCompletes ∧ Claims.SktAuditCompletes

namespace Sys2Proof.Claims

/-- Every format of R55. -/
def allFmts : List Fmt := [.int8, .uint8, .int4, .uint4, .int2, .tern, .e4m3, .e5m2, .e2m3, .e3m2, .e2m1, .bf16, .fp16, .fp32]

/-- The rounding modes of a conversion. -/
def modes : List RMode := [.rne, .rtz, .sr 0, .sr 65535]

/-- `x` in units of `2^q`, for `q` at most the exponent of the value. -/
def units (q : Int) (m : Nat) (e : Int) : Nat := m * 2 ^ (e - q).toNat

/-- The sum of the products of two lists of elements of a block, in units of `2^−32`; a padded position gives nothing. -/
def dot (as bs : List (Option Int)) : Int :=
  ((as.zip bs).map (fun p => (match p with | (some a, some b) => a * b | _ => 0))).sum

/-- A value held to the range of 320 signed bits. -/
def held (v : Int) : Int := max (-(2 ^ 319)) (min v (2 ^ 319 - 1))

/-- A product that is NaN: of a NaN, or of an infinity and 0 (R90). -/
def NanProduct (a b : El) : Prop := a = .nan ∨ b = .nan ∨ (∃ s, a = .inf s ∧ b = .num 0) ∨ (∃ s, a = .num 0 ∧ b = .inf s)

/-- A product that is infinite, negative or not (R90). -/
def InfProduct (neg : Bool) (a b : El) : Prop :=
  (∃ s t : Bool, a = .inf s ∧ b = .inf t ∧ neg = xor s t) ∨ (∃ (s : Bool) (y : Int), a = .inf s ∧ b = .num y ∧ y ≠ 0 ∧ neg = xor s (decide (y < 0))) ∨
    (∃ (s : Bool) (x : Int), a = .num x ∧ b = .inf s ∧ x ≠ 0 ∧ neg = xor s (decide (x < 0)))

/-- Two lists of positions have a pair of elements at one place with a property. -/
def Meets (us vs : List (Option El)) (p : El → El → Prop) : Prop := ∃ (i : Nat) (a b : El), us[i]? = some (some a) ∧ vs[i]? = some (some b) ∧ p a b

/-- Elements that are numbers. -/
def nums (as : List (Option Int)) : List (Option El) := as.map (fun o => o.map El.num)

end Sys2Proof.Claims

open Sys2Proof.Claims

/-- R60, R61, R74, R80: decoding a finite element code of a format of at most 16 bits and converting the value back to the same format gives the code again, in every rounding mode and with either OVF, and counts no saturation. -/
def Obligations.ConvertRoundTrip : Prop :=
  ∀ (f : Fmt) (rm : RMode) (ovf : Bool) (c : Nat), f ∈ allFmts → f ≠ .fp32 → rm ∈ modes → c < 2 ^ f.bits → f.badTern c = false → (f.decode c).isFin = true →
    convert f rm ovf (f.decode c) = ⟨c, false, false⟩

/-- R74: the rounding of a finite magnitude on a grid of step 2^q: nearest with ties to even, toward zero, and stochastic by the draw's carry; the result is one of the two neighbours, and it is exact for a value on the grid. -/
def Sys2Proof.Claims.Roundings : Prop :=
  ∀ (neg : Bool) (m : Nat) (e q : Int), e ≤ q →
    let d := 2 ^ (q - e).toNat
    let lo := m / d
    (roundGrid .rtz neg m e q = lo) ∧
    (roundGrid .rne neg m e q = lo ∨ roundGrid .rne neg m e q = lo + 1) ∧
    (2 * (m - d * lo) < d → roundGrid .rne neg m e q = lo) ∧ (d < 2 * (m - d * lo) → roundGrid .rne neg m e q = lo + 1) ∧
    (2 * (m - d * lo) = d → roundGrid .rne neg m e q % 2 = 0) ∧
    (∀ draw, draw < 65536 → roundGrid (.sr draw) neg m e q = if (m % d * 65536) / d + draw ≥ 65536 then lo + 1 else lo) ∧
    (m % d = 0 → ∀ rm ∈ modes, roundGrid rm neg m e q = lo)

/-- R74: RMODE 0, 1 and 2 name the three modes; a finite value whose rounded magnitude lies beyond a format's largest finite one becomes that one and counts a saturation under OVF = 0, and an infinity under OVF = 1, which E5M2 and FP16 alone take. -/
def Sys2Proof.Claims.Overflows : Prop :=
  (∀ draw, rmodeOf 0 draw = .rne ∧ rmodeOf 1 draw = .rtz ∧ rmodeOf 2 draw = .sr draw) ∧
  (∀ (f : Fmt) (sp : FpSpec) (rm : RMode) (neg : Bool) (m : Nat) (e : Int), f.fp = some sp → sp.maxCode < fpCode sp rm neg m e →
    let sign := if neg then 2 ^ (sp.eb + sp.mb) else 0
    convert f rm false (.fin neg m e) = ⟨sign + sp.maxCode, true, false⟩ ∧
    (f = .e5m2 ∨ f = .fp16 → convert f rm true (.fin neg m e) = ⟨sign + (2 ^ sp.eb - 1) * 2 ^ sp.mb, false, true⟩)) ∧
  (∀ f : Fmt, ovfOk true f = true ↔ f = .e5m2 ∨ f = .fp16)

/-- R76: the conversion of infinities and of NaN: to formats with infinities, to E4M3, to the formats without either, and to the integer formats. -/
def Sys2Proof.Claims.NonFiniteConversions : Prop :=
  ∀ (rm : RMode) (ovf : Bool) (neg : Bool),
    (convert .e5m2 rm ovf (.inf neg) = ⟨if neg then 0xFC else 0x7C, false, false⟩ ∧ convert .e5m2 rm ovf .nan = ⟨0x7E, false, false⟩) ∧
    (convert .bf16 rm ovf (.inf neg) = ⟨if neg then 0xFF80 else 0x7F80, false, false⟩ ∧ convert .bf16 rm ovf .nan = ⟨0x7FC0, false, false⟩) ∧
    (convert .fp16 rm ovf (.inf neg) = ⟨if neg then 0xFC00 else 0x7C00, false, false⟩ ∧ convert .fp16 rm ovf .nan = ⟨0x7E00, false, false⟩) ∧
    (convert .fp32 rm ovf (.inf neg) = ⟨if neg then 0xFF800000 else 0x7F800000, false, false⟩ ∧ convert .fp32 rm ovf .nan = ⟨0x7FC00000, false, false⟩) ∧
    (convert .e4m3 rm ovf (.inf neg) = ⟨if neg then 0xFE else 0x7E, true, false⟩ ∧ convert .e4m3 rm ovf .nan = ⟨0x7F, false, false⟩) ∧
    (convert .e2m3 rm ovf (.inf neg) = ⟨if neg then 0x3F else 0x1F, true, false⟩ ∧ convert .e2m3 rm ovf .nan = ⟨0, true, false⟩) ∧
    (convert .e3m2 rm ovf (.inf neg) = ⟨if neg then 0x3F else 0x1F, true, false⟩ ∧ convert .e3m2 rm ovf .nan = ⟨0, true, false⟩) ∧
    (convert .e2m1 rm ovf (.inf neg) = ⟨if neg then 0xF else 0x7, true, false⟩ ∧ convert .e2m1 rm ovf .nan = ⟨0, true, false⟩) ∧
    (convert .int8 rm ovf (.inf neg) = ⟨if neg then 0x80 else 0x7F, true, false⟩ ∧ convert .int8 rm ovf .nan = ⟨0, true, false⟩) ∧
    (convert .uint8 rm ovf (.inf neg) = ⟨if neg then 0 else 0xFF, true, false⟩ ∧ convert .uint8 rm ovf .nan = ⟨0, true, false⟩) ∧
    (convert .int4 rm ovf (.inf neg) = ⟨if neg then 0x8 else 0x7, true, false⟩ ∧ convert .int4 rm ovf .nan = ⟨0, true, false⟩) ∧
    (convert .uint4 rm ovf (.inf neg) = ⟨if neg then 0 else 0xF, true, false⟩ ∧ convert .uint4 rm ovf .nan = ⟨0, true, false⟩) ∧
    (convert .int2 rm ovf (.inf neg) = ⟨if neg then 2 else 1, true, false⟩ ∧ convert .int2 rm ovf .nan = ⟨0, true, false⟩) ∧
    (convert .tern rm ovf (.inf neg) = ⟨if neg then 3 else 1, true, false⟩ ∧ convert .tern rm ovf .nan = ⟨0, true, false⟩)

/-- R88, R89, R90, R92: the partial of a block of numbers is their exact sum of products times the two scales, reported as SCALE_HI or SCALE_LO only where it leaves the range of FP32; one NaN product in either operand's place, or infinite products of both signs, or a NaN scale make it NaN, and infinite products of one sign make it that infinity. -/
def Sys2Proof.Claims.BlockPartials : Prop :=
  ∀ (as bs : List (Option Int)) (sa sb : Nat), sa < 0xFF → sb < 0xFF →
    let x := dot as bs
    let e : Int := (sa : Int) + sb - 286
    (x = 0 → blockPartial (nums as) (nums bs) sa sb = ⟨.fin false 0 0, false, false⟩) ∧
    (x ≠ 0 → -149 ≤ (Nat.log2 x.natAbs : Int) + e → (Nat.log2 x.natAbs : Int) + e < 128 →
      blockPartial (nums as) (nums bs) sa sb = ⟨.fin (decide (x < 0)) x.natAbs e, false, false⟩) ∧
    (x ≠ 0 → 128 ≤ (Nat.log2 x.natAbs : Int) + e → blockPartial (nums as) (nums bs) sa sb = ⟨.fin (decide (x < 0)) (2 ^ 24 - 1) 104, true, false⟩) ∧
    (x ≠ 0 → (Nat.log2 x.natAbs : Int) + e < -149 → blockPartial (nums as) (nums bs) sa sb = ⟨.fin false 0 0, false, true⟩) ∧
    (∀ us vs : List (Option El),
      (Meets us vs NanProduct → blockPartial us vs sa sb = ⟨.nan, false, false⟩) ∧
      (Meets us vs (InfProduct false) → Meets us vs (InfProduct true) → blockPartial us vs sa sb = ⟨.nan, false, false⟩) ∧
      (∀ neg, Meets us vs (InfProduct neg) → ¬Meets us vs NanProduct → ¬Meets us vs (InfProduct (!neg)) → blockPartial us vs sa sb = ⟨.inf neg, false, false⟩)) ∧
    (∀ us vs : List (Option El), blockPartial us vs 0xFF sb = ⟨.nan, false, false⟩ ∧ blockPartial us vs sa 0xFF = ⟨.nan, false, false⟩)

/-- R94, R97, R112: an integer accumulator that no addition takes out of its range holds the exact sum of what was added, and it has not set SAT; one addition out of range holds the nearer bound and sets SAT. -/
def Sys2Proof.Claims.IntegerAccumulators : Prop :=
  (∀ (xs : List Int), (∀ n, -(2 : Int) ^ 31 ≤ (xs.take n).sum ∧ (xs.take n).sum < 2 ^ 31) →
    let c := xs.foldl (fun c x => accAdd .i32 c ⟨.ofInt x, false, false⟩) Cell.zero
    c.int .i32 = xs.sum ∧ c.sat = false) ∧
  (∀ (xs : List Int), (∀ n, -(2 : Int) ^ 47 ≤ (xs.take n).sum ∧ (xs.take n).sum < 2 ^ 47) →
    let c := xs.foldl (fun c x => accAdd .i48 c ⟨.ofInt x, false, false⟩) Cell.zero
    c.int .i48 = xs.sum ∧ c.sat = false) ∧
  (∀ (c : Cell) (x : Int), (2 : Int) ^ 31 ≤ c.int .i32 + x → (accAdd .i32 c ⟨.ofInt x, false, false⟩).int .i32 = 2 ^ 31 - 1 ∧ (accAdd .i32 c ⟨.ofInt x, false, false⟩).sat = true) ∧
  (∀ (c : Cell) (x : Int), c.int .i32 + x < -(2 : Int) ^ 31 → (accAdd .i32 c ⟨.ofInt x, false, false⟩).int .i32 = -(2 ^ 31) ∧ (accAdd .i32 c ⟨.ofInt x, false, false⟩).sat = true) ∧
  (∀ (c : Cell) (x : Int), (2 : Int) ^ 47 ≤ c.int .i48 + x → (accAdd .i48 c ⟨.ofInt x, false, false⟩).int .i48 = 2 ^ 47 - 1 ∧ (accAdd .i48 c ⟨.ofInt x, false, false⟩).sat = true) ∧
  (∀ (c : Cell) (x : Int), c.int .i48 + x < -(2 : Int) ^ 47 → (accAdd .i48 c ⟨.ofInt x, false, false⟩).int .i48 = -(2 ^ 47) ∧ (accAdd .i48 c ⟨.ofInt x, false, false⟩).sat = true)

/-- R106, R108: an exact word survives its 48 bytes; the addition of exact words commutes, is associative as long as no sum leaves the 320-bit range, and combines classes as IEEE 754 addition does; a finished CF32 element adds s and then e, each step held to the 320-bit range with SAT, and adds nothing to VALUE where s is not finite. -/
def Obligations.ExactWords : Prop :=
  (∀ x : ExW, -(2 : Int) ^ 319 ≤ x.value → x.value < 2 ^ 319 → ExW.ofBytes x.bytes = x) ∧
  (∀ x : ExW, x.bytes.length = 48) ∧
  (∀ x y : ExW, x.add y = y.add x) ∧
  (∀ x y z : ExW, (∀ v ∈ [x.value + y.value, y.value + z.value, x.value + y.value + z.value], -(2 : Int) ^ 319 ≤ v ∧ v < 2 ^ 319) → (x.add y).add z = x.add (y.add z)) ∧
  (∀ x y : ExW, x.cls = 1 → y.cls = 2 → (x.add y).cls = 3) ∧ (∀ x y : ExW, x.cls = 3 → (x.add y).cls = 3) ∧ (∀ x y : ExW, x.cls = 0 → (x.add y).cls = y.cls) ∧
  (∀ (x : ExW) (c : Cell), (f32Val c.w0).isFin = true →
    (x.take (c.contrib .cf32)).value = held (held (x.value + exwUnits (f32Val c.w0)) + exwUnits (f32Val c.w1)) ∧ (x.take (c.contrib .cf32)).cls = x.cls ∧
    (held (x.value + exwUnits (f32Val c.w0)) ≠ x.value + exwUnits (f32Val c.w0) → (x.take (c.contrib .cf32)).sat = true)) ∧
  (∀ (x : ExW) (c : Cell), (f32Val c.w0).isFin = false → (x.take (c.contrib .cf32)).value = x.value)

/-- R74, R76 (chapter 3): the rounding modes, the overflow modes, and the conversion of values that are not finite. -/
def Obligations.Conversions : Prop := Claims.Roundings ∧ Claims.Overflows ∧ Claims.NonFiniteConversions

/-- Chapter 4: the block partial, and the integer accumulators with their saturation. -/
def Obligations.Accumulators : Prop := Claims.BlockPartials ∧ Claims.IntegerAccumulators

namespace Sys2Proof.Claims

/-- A running slot of an existing core, with its command; the whole plan is known, nothing waits for a merge or to be issued again, and no progress is posted. -/
abbrev Moving (s : State) (c : CoreId) (n : Fin 16) (m : MoveCmd) : Prop :=
  s.hasDie c.die = true ∧ (∃ q pc, (s.slot c n).cmd = some (q, pc, m)) ∧ (s.slot c n).st = .running ∧ (s.slot c n).failing = none ∧
    (s.slot c n).redo = [] ∧ (s.slot c n).gather.ended = true ∧ (s.slot c n).gather.idx = [] ∧ m.kind = .load ∧ m.prog = none ∧ m.msem = none

/-- The trackers of R277 and the window of R278 have room for the next transfer of a slot. -/
abbrev RoomFor (s : State) (c : CoreId) (n : Fin 16) : Prop :=
  (s.slot c n).next < (s.slot c n).oldest + 512 ∧ (s.core c).outstanding < 512 ∧ s.tracked c.die < 4096

/-- Every place of a transfer lies in the memory of the part, inside the bounds, and no text region is written. -/
abbrev Local (s : State) (c : CoreId) (x : Xfer) : Prop :=
  s.xferBad c x = none ∧ s.isNear x.lo = true ∧ ∀ r ∈ x.reqs, ∀ d ∈ r.dsts, s.isNear d = true

/-- No slot before this one in the rotating order from the lead has a transfer ready (R261). -/
abbrev Turn (s : State) (c : CoreId) (n : Fin 16) : Prop := ∀ i ∈ slotsBefore (s.core c).lead n, s.slotReady c i = false

/-- The slot after it has issued a transfer. -/
def issued (x : Slot) (t : Xfer) (lite : Bool) : Slot :=
  let y := ({ x with next := t.no + 1, bucket := if x.rate = 0 then x.bucket else x.bucket - 256 * t.charge lite, poolWait := false } : Slot).noteRuns t
  { y with out := y.out.filter (fun z => z.no ≠ t.no) ++ [t] }

end Sys2Proof.Claims

open Sys2Proof.Claims

/-- R261, R264, R277, R278, R280, R283, R287: a running slot whose turn it is issues its next request, or a closed merge, as the transfer of the next number when the trackers and the window have room and its bucket holds the fabric charge, and the slot behind it takes the lead; a slot before it with a transfer ready goes first; a merge that must wait stays closed; a transfer outside the bounds fails the stream and is not performed. Readings and choices of the model that it rests on: log 3, 62, 63, 66, and log 153 for the turn of a slot and the lead, which are the model's choice. -/
def Obligations.TransferIssues : Prop :=
  ∀ (s : State) (c : CoreId) (n : Fin 16) (m : MoveCmd), Moving s c n m →
    let x := s.slot c n
    (∀ r rest, x.merge = [] → x.plan = r :: rest → m.merge = false → RoomFor s c n → Turn s c n →
      let t : Xfer := .new x.next [r]
      (Local s c t → s.poolDues c n t = [] → x.rate = 0 ∨ 256 * t.charge m.lite ≤ x.bucket →
        ∃ u, exec (.transferIssue c n) s = .next u ∧ u.slot c n = issued { x with plan := rest } t m.lite ∧ (u.core c).lead = n + 1 ∧ u.mem = s.mem ∧ (u.core c).g = (s.core c).g) ∧
      (Local s c t → x.rate ≠ 0 → x.bucket < 256 * t.charge m.lite → ∃ u, exec (.transferIssue c n) s = .next u ∧ u.slot c n = x ∧ (u.core c).lead = (s.core c).lead ∧ u.mem = s.mem) ∧
      (∀ f, s.xferBad c t = some f → s.npFree c t = true → ∃ u, exec (.transferIssue c n) s = .next u ∧ (u.slot c n).out = x.out ∧ (u.slot c n).failing = some f ∧ u.mem = s.mem)) ∧
    ((∃ i ∈ slotsBefore (s.core c).lead n, s.slotReady c i = true) → exec (.transferIssue c n) s = .next s) ∧
    (x.merge ≠ [] → RoomFor s c n →
      let t : Xfer := .new x.next x.merge
      let v := s.modSlot c n (fun x => { x with closed := true })
      ((∃ i ∈ slotsBefore (s.core c).lead n, v.slotReady c i = true) → exec (.mergeCloseTimeout c n) s = .next v) ∧
      (Turn v c n → Local s c t → s.poolDues c n t = [] → x.rate = 0 ∨ 256 * t.charge m.lite ≤ x.bucket →
        ∃ u, exec (.mergeCloseTimeout c n) s = .next u ∧ u.slot c n = issued { x with merge := [], closed := false } t m.lite ∧ (u.core c).lead = n + 1 ∧ u.mem = s.mem) ∧
      (Turn v c n → Local s c t → x.rate ≠ 0 → x.bucket < 256 * t.charge m.lite →
        ∃ u, exec (.mergeCloseTimeout c n) s = .next u ∧ u.slot c n = { x with closed := true } ∧ (u.core c).lead = (s.core c).lead ∧ u.mem = s.mem)) ∧
    (x.merge = [] → exec (.mergeCloseTimeout c n) s = .next s)

/-- R264, R267, R277, R293: a delivered transfer has its source bytes at its destination and every other byte of memory as before, its length in DELIVERED, and is no longer outstanding; with the last one of a command DONE is posted and the slot is idle. Readings and choices of the model that it rests on: log 62. -/
def Obligations.TransferDelivers : Prop :=
  ∀ (s : State) (c : CoreId) (n : Fin 16) (m : MoveCmd) (t : Xfer) (r : Req) (d : Nat) (data : List Byte) (h : HostEnd), Moving s c n m → s.ecc = [] → s.mem.wf = true →
    s.pkg.invals = [] → (s.slot c n).out.find? (fun x => x.no = t.no) = some t → t.ats = false → t.owed = 0 → t.reqs = [r] → r.dsts = [d] → r.lo = 0 → r.bits = 8 →
    r.index = none → 0 < r.len → r.src < 2 ^ 48 → d < 2 ^ 48 → s.isNear r.src = true → s.isNear d = true → QuietOpt s c m.done →
    let x := s.slot c n
    let left := x.out.filter (fun y => y.no ≠ t.no)
    ∃ u, exec (.transferDeliver c n t.no data h) s = .next u ∧
      u.mem.read d r.len = s.mem.read r.src r.len ∧ (∀ a, (a < d ∨ d + r.len ≤ a) → u.mem.get a = s.mem.get a) ∧
      (u.slot c n).bytes = x.bytes + BitVec.ofNat 48 r.len ∧ (u.slot c n).out = left ∧ (u.core c).g = (s.core c).g ∧ (u.core c).pc = (s.core c).pc ∧
      (x.plan = [] ∧ x.merge = [] ∧ left = [] → (u.slot c n).st = .idle ∧ (u.slot c n).cmd = none ∧ ∀ k ∈ m.done, u.sem c k = s.sem c k + 1) ∧
      (¬(x.plan = [] ∧ x.merge = [] ∧ left = []) → (u.slot c n).st = .running ∧ (u.slot c n).cmd = x.cmd ∧ ∀ k, u.sem c k = s.sem c k)

/-- R288, R289, R290: a paging slot with nothing outstanding saves its position and notes the pages that host-faulted, or fails with HOST_FAULT without page requests; it takes a PRG index and sends one request a page; Success returns it to RUNNING, another response fails it with HOST_DENIED; a failing stream with nothing outstanding is STOPPED with its cause, and adds to ESEM or faults the core. Readings and choices of the model that it rests on: log 67. -/
def Obligations.StreamPauses : Prop :=
  ∀ (s : State) (c : CoreId) (n : Fin 16), s.hasDie c.die = true →
    let x := s.slot c n
    let f := s.fnOf (s.strPart c)
    (x.st = .paging → x.out = [] → x.failing = none → x.pages = [] → x.prg = none →
      ((s.fn f).ats = true → (s.fn f).pri = true →
        exec (.slotPagingSave c n) s = .next (s.modSlot c n (fun x => { x.save with pages := s.faultPages x }))) ∧
      ((s.fn f).ats = false ∨ (s.fn f).pri = false → ∃ u, exec (.slotPagingSave c n) s = .next u ∧ (u.slot c n).failing.map Prod.fst = some 2 ∧
        (u.slot c n).resumeNo = x.save.resumeNo)) ∧
    (∀ g, x.st = .paging → x.failing = none → x.pages ≠ [] → x.prg = none → (s.fn f).freePrg = some g →
      ((s.fn f).prgs.map Prod.snd).foldl (· + ·) 0 + x.pages.length ≤ min (s.fn f).prAlloc 512 →
      ∃ u, exec (.pageRequestSend c n) s = .next u ∧ (u.slot c n).prg = some (f.val, g) ∧ (u.fn f).prgs = (s.fn f).prgs ++ [(g, x.pages.length)] ∧
        (s.tlpOk f = true → u.outbox.length = s.outbox.length + x.pages.length) ∧ u.mem = s.mem) ∧
    (∀ (h : Fin 9) (g : Nat), x.st = .paging → x.prg = some (h.val, g) → (∀ d k, (s.slot d k).prg = some (h.val, g) → d = c ∧ k = n) →
      (∃ u, exec (.prgResponse h g true) s = .next u ∧ (u.slot c n).st = .running ∧ (u.slot c n).prg = none ∧ (u.slot c n).redo = x.redo.map (fun t => { t with hostFault := false })) ∧
      (∃ u, exec (.prgResponse h g false) s = .next u ∧ (u.slot c n).st = .paging ∧ (u.slot c n).failing.map Prod.fst = some 1)) ∧
    (∀ q pc m cause a, x.cmd = some (q, pc, m) → x.failing = some (cause, a) → x.st = .running ∨ x.st = .paging → x.out = [] →
      (∀ e, m.esem = some e → Quiet s c e → ∃ u, exec (.streamStop c n) s = .next u ∧ (u.slot c n).st = .stopped ∧ (u.slot c n).cause = cause ∧
        u.sem c e = s.sem c e + 1 ∧ (u.core c).run = (s.core c).run ∧ u.mem = s.mem) ∧
      (m.esem = none → (s.core c).run = .running → (s.core c).fring.faulted = false → ∃ u, exec (.streamStop c n) s = .next u ∧ (u.core c).run = .faulting ∧ (u.core c).fring.faulted = true))

/-- R376, R377, R395, R434: a translation enters the ATC of its function, which keeps the 4,096 most recently used ones; each use puts an entry first, and a new one goes in before all others, so that the last of 4,097 is the least recently used; an invalidation removes the entries that it overlaps and is completed when no transfer that used one is left, and a function has at most 32 of them open; the open message of a slot closes and is sent with the next tag. Readings and choices of the model that it rests on: log 3, 8, 156, and log 154 for what a `ld` or `st` has asked for. -/
def Obligations.TranslationsAndMessages : Prop :=
  ∀ (s : State),
    (∀ (f : Fin 9) (a size dst : Nat) (rd wr : Bool), (s.fn f).ats = true → (∀ c n, ∀ t ∈ (s.slot c n).out, t.ats = false) →
      ∃ u, exec (.atsTranslationComplete f ⟨a, dst⟩ size rd wr) s = .next u ∧ u.pkg.atc.head? = some ⟨f, a, size, dst, rd, wr⟩ ∧ u.pkg.atc.length ≤ 4096 ∧
        u.pkg.atc = (⟨f, a, size, dst, rd, wr⟩ :: s.pkg.atc.filter (fun e => !decide (e.fn = f ∧ e.page = a ∧ e.size = size))).take 4096 ∧
        (∀ q, q ∈ u.pkg.atsAsked ↔ q ∈ s.pkg.atsAsked ∧ ¬(q.1 = f ∧ a ≤ q.2 * 4096 ∧ q.2 * 4096 < a + size)) ∧ u.mem = s.mem) ∧
    (∀ (f : Fin 9) (page : Nat) (e : AtcEntry), s.atcFind f page = some e → (s.atcUse f page).pkg.atc = e :: s.pkg.atc.erase e) ∧
    (∀ (f : Fin 9) (a size tag : Nat), (s.pkg.invals.filter (fun v => decide (v.1 = f))).length = 32 → exec (.atsInvalidate f a size tag) s = .next s) ∧
    (∀ (f : Fin 9) (a size tag : Nat), s.pkg.invals = [] → ∃ u, exec (.atsInvalidate f a size tag) s = .next u ∧
      (∀ e, e ∈ u.pkg.atc ↔ e ∈ s.pkg.atc ∧ ¬(e.fn = f ∧ e.page < a + size ∧ a < e.page + e.size)) ∧
      ((∀ c n, (s.slot c n).out = []) → u.pkg.invals = [] ∧ (s.tlpOk f = true → u.outbox = s.onStream (.invalidateComplete f tag) :: s.outbox))) ∧
    (∀ (c : CoreId) (n : Fin 16), s.hasDie c.die = true →
      (s.openOf c n = none → exec (.messageCloseTimeout c n) s = .next s) ∧
      (∀ o l dl, s.openOf c n = some o → s.route o.part none = some (l, dl) → ∃ u, exec (.messageCloseTimeout c n) s = .next u ∧ u.openOf c n = none ∧
        u.pkg.pends = s.pkg.pends ++ [⟨s.pkg.nextTag, o.part, l, o.addr, .writes c n o.ts⟩] ∧ u.pkg.nextTag = s.pkg.nextTag + 1 ∧ u.mem = s.mem))

/-- R47, R48, R49, R251, R253, R510: a core whose commands are all complete, or that has nothing left after a fault, reports itself halted; `halt` removes its tickets and a fault requeues them; when every core has halted the task ends with its record, its cores are idle without a section, and the Tier N and Tier F ranges of its partition read zero. Readings and choices of the model that it rests on: log 3, 81. -/
def Obligations.HaltsAndTaskEnd : Prop :=
  ∀ (s : State),
    (∀ (c : CoreId), s.hasDie c.die = true → (s.core c).run = .halting → s.allDone c = true →
      ∃ u, exec (.haltComplete c) s = .next u ∧ (u.core c).run = .halted ∧ (u.core c).fring.halted = true ∧
        ((∀ d w, (s.core d).wait = some w → w.kind ≠ 3) → u.mem = s.mem) ∧
        ∀ k, vget (u.dsp c.die k).held c.core = [] ∧ (u.dsp c.die k).requeue = (s.dsp c.die k).requeue) ∧
    (∀ (c : CoreId), s.hasDie c.die = true → (s.core c).run = .faulting → s.quiet c = true →
      ∃ u, exec (.coreHaltReport c) s = .next u ∧ (u.core c).run = .halted ∧ (u.core c).fring.halted = true ∧
        ((∀ d w, (s.core d).wait = some w → w.kind ≠ 3) → u.mem = s.mem) ∧
        ∀ k, vget (u.dsp c.die k).held c.core = [] ∧ (u.dsp c.die k).requeue = (s.dsp c.die k).requeue ++ vget (s.dsp c.die k).held c.core) ∧
    (∀ (c : CoreId), s.hasDie c.die = true → (s.core c).run = .running → exec (.haltComplete c) s = .next s ∧ exec (.coreHaltReport c) s = .next s) ∧
    (∀ (n : Fin 8) (t : Task), s.taskOf n = some t → t.part = n →
      (s.taskHalted t = false → exec (.taskEnd n) s = .next s) ∧
      (s.taskHalted t = true → s.ecc = [] → s.mem.wf = true → ∃ u, exec (.taskEnd n) s = .next u ∧ u.taskOf n = none ∧
        (∀ c ∈ t.cores, (u.core c).run = .idle ∧ (u.core c).sect = none) ∧
        (∀ a, gib * fldN (s.partMem n) 0 10 ≤ a → a < gib * fldN (s.partMem n) 10 10 → u.mem.get a = 0) ∧
        (∀ a, tierFBase + gib * fldN (s.partMem n) 20 12 ≤ a → a < tierFBase + gib * fldN (s.partMem n) 32 12 → u.mem.get a = 0) ∧
        (t.discard = false → ∃ e, (u.fn t.fn).held = (s.fn t.fn).held ++ [e] ∧ e.cid = 0xFFFF ∧ e.kind = 1 ∧ e.task = t.num ∧ e.aborted = t.aborted ∧
          e.faulted = BitVec.ofNat 16 (t.cores.filter (fun c => (s.core c).fring.faulted)).length) ∧
        (t.discard = true → (u.fn t.fn).held = (s.fn t.fn).held)))

/-- R443, R446: the doorbells and the ring registers: a tail or a head inside its ring is taken, another sets RINGERR and a bad tail also clears SQ_EN; an EN that sets resets its ring; a CQ_IRQ write that names a fixed vector, or one that the function does not have, is not performed and sets RINGERR; one that lowers ITHRESH to the entries already written makes the vector due at once (R451). -/
def Obligations.Rings : Prop :=
  ∀ (s : State) (f : Fin 9) (v : Word),
    (s.fnTlp f = false → exec (.sqTailDoorbell f v) s = .next s ∧ exec (.cqHeadDoorbell f v) s = .next s ∧ exec (.ringCfgWrite f v) s = .next s ∧ exec (.cqIrqWrite f v) s = .next s) ∧
    (s.fnTlp f = true →
    let h := s.fn f
    let i := v.toNat % 2 ^ 12
    (h.sqEn = true ∧ i < 2 ^ h.sqSize.toNat → exec (.sqTailDoorbell f v) s = .next (s.modFn f (fun h => { h with sqTail := BitVec.ofNat 12 i }))) ∧
    (¬(h.sqEn = true ∧ i < 2 ^ h.sqSize.toNat) → exec (.sqTailDoorbell f v) s = .next (s.modFn f (fun h => { h with ringErr := true, sqEn := false }))) ∧
    (let n := 2 ^ h.cqSize.toNat
     let used := (h.cqTail.toNat + n - h.cqHead.toNat) % n
     (i < n ∧ (i + n - h.cqHead.toNat) % n ≤ used → exec (.cqHeadDoorbell f v) s = .next (s.modFn f (fun h => { h with cqHead := BitVec.ofNat 12 i }))) ∧
     (¬(i < n ∧ (i + n - h.cqHead.toNat) % n ≤ used) → exec (.cqHeadDoorbell f v) s = .next (s.modFn f (fun h => { h with ringErr := true })))) ∧
    (∃ u, exec (.ringCfgWrite f v) s = .next u ∧
      let k := u.fn f
      (h.sqEn = true → k.sqSize = h.sqSize ∧ k.sqTail = h.sqTail ∧ k.sqHead = h.sqHead) ∧ (h.sqEn = false → k.sqSize.toNat = v.toNat % 16) ∧
      (h.cqEn = false → k.cqSize.toNat = v.toNat / 256 % 16) ∧
      (k.sqEn = true ↔ v.getLsbD 4 = true ∧ 4 ≤ k.sqSize.toNat ∧ k.sqSize.toNat ≤ 12) ∧
      (k.cqEn = true ↔ v.getLsbD 12 = true ∧ 4 ≤ k.cqSize.toNat ∧ k.cqSize.toNat ≤ 12) ∧
      (h.sqEn = false → k.sqEn = true → k.sqHead = 0 ∧ k.sqTail = 0) ∧ (h.cqEn = false → k.cqEn = true → k.cqHead = 0 ∧ k.cqTail = 0 ∧ k.phase = true) ∧
      k.apBase = h.apBase ∧ (∀ g, g ≠ f → u.fn g = s.fn g) ∧ u.mem = s.mem) ∧
    (let x := v.toNat % 128
     let bad : Prop := if f = 0 then 1 ≤ x ∧ x ≤ 5 else x = 1 ∨ 16 ≤ x
     let due (g : HostFn) : Prop := g.since ≠ 0 ∧ (g.ithresh.toNat ≤ g.since ∨ g.itime = 0)
     let taken : HostFn := { h with vector := BitVec.ofNat 7 x, ithresh := BitVec.ofNat 8 (v.toNat / 256), itime := BitVec.ofNat 16 (v.toNat / 65536) }
     (bad → ¬due h → exec (.cqIrqWrite f v) s = .next (s.modFn f (fun h => { h with ringErr := true }))) ∧
     (¬bad → ¬due taken → exec (.cqIrqWrite f v) s = .next (s.modFn f (fun _ => taken))) ∧
     (¬bad → due taken → h.msixMask.getLsbD x = false →
       exec (.cqIrqWrite f v) s = .next ((s.modFn f (fun _ => { taken with since := 0 })).send (.msix f x))) ∧
     (¬bad → due taken → h.msixMask.getLsbD x = true →
       exec (.cqIrqWrite f v) s = .next (s.modFn f (fun _ => { taken with since := 0, msixPend := h.msixPend ||| (1 <<< x) })))))

/-- R444, R445, R446: functions are served in rotating order: the first, from the one after the function served last, that holds a new entry is fetched at its SQ_HEAD, which advances round the ring; a reserved opcode completes with BAD_OPCODE, a reserved byte or an argument out of range with BAD_FIELD, and every other command waits for its turn. Below level 2 nothing is fetched. Readings and choices of the model that it rests on: log 10, 73. -/
def Obligations.SubmissionFetched : Prop :=
  ∀ (s : State) (f : Fin 9) (e : List Byte),
    let h := s.fn f
    let ready (g : Fin 9) : Prop := s.fnTlp g = true ∧ 2 ≤ s.pkg.level.toNat ∧ (s.fn g).sqEn = true ∧ (s.fn g).sqHead ≠ (s.fn g).sqTail
    (¬ready f → exec (.submissionFetch f e) s = .next s) ∧
    (∀ g, ready g → g - s.pkg.fetchTurn < f - s.pkg.fetchTurn → exec (.submissionFetch f e) s = .next s) ∧
    (ready f → (∀ g, g - s.pkg.fetchTurn < f - s.pkg.fetchTurn → ¬ready g) →
      let x := Submission.ofBytes e
      let known : Prop := x.op ∈ ([0x01, 0x02, 0x10, 0x11, 0x12] : List Byte)
      let good : Bool := entryClean e && x.partOk f && x.argsOk
      ∃ u, exec (.submissionFetch f e) s = .next u ∧ (u.fn f).sqHead.toNat = (h.sqHead.toNat + 1) % 2 ^ h.sqSize.toNat % 4096 ∧ u.mem = s.mem ∧ u.pkg.fetchTurn = f + 1 ∧
        (¬known → (u.fn f).fetched = h.fetched ∧ (u.fn f).held = h.held ++ [⟨x.cid, 0, false, false, 0x0100, 0, 0, 0, 0, none⟩]) ∧
        (known → good = false → (u.fn f).fetched = h.fetched ∧ (u.fn f).held = h.held ++ [⟨x.cid, 0, false, false, 0x0101, 0, 0, 0, 0, none⟩]) ∧
        (known → good = true → (u.fn f).fetched = h.fetched ++ [x] ∧ (u.fn f).held = h.held))

/-- R43 to R46, R463, R470, R556, R557: a LOAD that passes step 1 holds its partition, so that another LOAD of the partition is BUSY; one whose image passes every check is held as it was checked; its placement completes with OK and its task number, the task is in the partition, its cores run at the entry words of their sections, and PM_n has taken the image's digest. A LOAD that a check refuses completes with the code and the detail word of that check and changes no memory and no core; an abort makes one being checked BUSY, and ends the task of one being placed at once. Readings and choices of the model that it rests on: log 17, 74, 75, 76. -/
def Obligations.Loads : Prop :=
  ∀ (s : State) (f : Fin 9) (cid : BitVec 16),
    let done (mute : Bool) (st : Nat) (detail : Nat) (task : BitVec 16) (u : State) : Prop :=
      (mute = true → (u.fn f).held = (s.fn f).held) ∧
      (mute = false → ∃ e, (u.fn f).held = (s.fn f).held ++ [e] ∧ e.cid = cid ∧ e.status = BitVec.ofNat 16 st ∧ e.detail = BitVec.ofNat 32 detail ∧ e.task = task)
    let kept (u : State) : Prop := u.mem = s.mem ∧ u.cores = s.cores
    (∀ t x, s.loadJob f cid = none → s.takeSub f 0x01 cid = some (x, t) →
      let n := x.partition f
      let busy := (s.taskOf n).isSome || (fins 9).any (fun g => (s.fn g).held.any (fun e => decide (e.part = some n))) ||
        s.pkg.loads.any (fun j => decide (j.part = n)) || s.pkg.sec.stopping.getLsbD n.val || s.pkg.sec.unlock.isSome
      ∃ u, exec (.load f cid) s = .next u ∧ kept u ∧
        (f = 0 ∧ s.guarded n = true → done x.mute 0x0102 0 0 u) ∧
        (¬(f = 0 ∧ s.guarded n = true) →
          (partEn (s.partMem n) = false → done x.mute 1 0 0 u) ∧
          (partEn (s.partMem n) = true → s.inTierN n x.arg0.toNat x.arg1.toNat = false → done x.mute 0x0101 0 0 u) ∧
          (partEn (s.partMem n) = true → s.inTierN n x.arg0.toNat x.arg1.toNat = true →
            (busy = true → done x.mute 2 0 0 u ∧ u.pkg.loads = s.pkg.loads) ∧
            (busy = false → (u.fn f).held = (s.fn f).held ∧ u.pkg.loads = s.pkg.loads ++ [⟨f, x, n, none, x.mute, x.mute⟩])))) ∧
    (∀ j, s.loadJob f cid = some j → s.ecc = [] → j.checked = none →
      let n := j.part
      let img : Img := ⟨s.mem, j.sub.arg0.toNat, j.sub.arg1.toNat⟩
      let args := img.base + j.sub.arg2.toNat
      let len := img.argBytes * img.secCount
      ∃ u, exec (.load f cid) s = .next u ∧ kept u ∧
        (j.aborted = true → done j.sub.mute 2 0 0 u) ∧
        (j.aborted = false →
          (∀ code detail, img.step2.orElse (fun _ => img.step3) = some (code, detail) → done j.sub.mute code detail 0 u) ∧
          (img.step2 = none → img.step3 = none →
            (len ≠ 0 ∧ s.inTierN n args len = false → done j.sub.mute 0x0101 0 0 u) ∧
            (len = 0 ∨ s.inTierN n args len = true →
              (sha384 (img.bytes 0 img.imageBytes) ≠ img.digest → done j.sub.mute 6 img.imageBytes 0 u) ∧
              (sha384 (img.bytes 0 img.imageBytes) = img.digest →
                (∀ code detail, s.checks img n = some (code, detail) → done j.sub.mute code detail 0 u ∧ ∀ k ∈ u.pkg.loads, k.part ≠ n) ∧
                (s.checks img n = none → (u.fn f).held = (s.fn f).held ∧ u.pkg.loads = s.pkg.loads.map (fun k =>
                  if k.part = n then { k with checked := some (s.mem.within img.base (img.base + img.len) args (args + len)) } else k))))))) ∧
    (∀ j m, s.loadJob f cid = some j → s.ecc = [] → j.checked = some m →
      let n := j.part
      let img : Img := ⟨m, j.sub.arg0.toNat, j.sub.arg1.toNat⟩
      ∃ u, exec (.load f cid) s = .next u ∧ (∀ k ∈ u.pkg.loads, k.part ≠ n) ∧ vget u.pkg.sec.pm n = sha384 (vget s.pkg.sec.pm n ++ img.digest) ∧
        (j.aborted = true → u.taskOf n = none ∧
          (j.sub.mute = false → ∃ e rest, (u.fn f).held = (s.fn f).held ++ e :: rest ∧ e.cid = cid ∧ e.status = 0 ∧ e.task = s.pkg.nextTask)) ∧
        (j.aborted = false → done j.sub.mute 0 0 s.pkg.nextTask u ∧ ∃ k, u.pkg.tasks = s.pkg.tasks ++ [k] ∧ k.part = n ∧ k.fn = f ∧ k.num = s.pkg.nextTask ∧
          k.cores = img.secs.map (fun i => s.secPlace img n i) ∧
          (∀ c ∈ k.cores, (u.core c).run = .running ∧ (u.core c).pstate = .run ∧ ∃ i ∈ img.secs, c = s.secPlace img n i ∧ (u.core c).pc = BitVec.ofNat 32 (img.entry i) ∧
            (u.core c).sect.map (fun y => y.part) = some n ∧ (u.core c).fring.faulted = false)))

/-- R50, R435, R445: an ABORT that names the running task stops each of its running cores as at a fault, without a record, and completes with OK; one that names no running task completes with NOT_RUNNING. A function level reset does the same to the task of its partition, drops the task-end record, and returns the page of the function to its reset values; the commands of it that were fetched complete without an entry. Readings and choices of the model that it rests on: log 80, 85. -/
def Obligations.AbortsAndFunctionResets : Prop :=
  (∀ (s t : State) (f : Fin 9) (cid : BitVec 16) (x : Submission), s.takeSub f 0x02 cid = some (x, t) →
    let n := x.partition f
    (f = 0 ∧ s.guarded n = true → exec (.abort f cid) s = .next (t.finish f x 0x0102)) ∧
    (¬(f = 0 ∧ s.guarded n = true) →
      (∀ k, s.taskOf n = some k → k.num.toNat = x.arg0.toNat % 2 ^ 16 → s.taskHalted k = false → ∃ u, exec (.abort f cid) s = .next u ∧ u.mem = s.mem ∧
        (∀ c ∈ k.cores, (s.core c).run = .running ∨ (s.core c).run = .halting → (u.core c).run = .faulting ∧ (u.core c).fring = (s.core c).fring ∧ (u.core c).qSyn = []) ∧
        (∀ c, c ∉ k.cores → u.core c = { s.core c with pools := (u.core c).pools }) ∧ (x.mute = true → (u.fn f).held = (s.fn f).held) ∧
        (x.mute = false → ∃ e, (u.fn f).held = (s.fn f).held ++ [e] ∧ e.cid = cid ∧ e.status = 0)) ∧
      ((s.taskOf n = none ∨ ∃ k, s.taskOf n = some k ∧ (k.num.toNat ≠ x.arg0.toNat % 2 ^ 16 ∨ s.taskHalted k = true)) →
        exec (.abort f cid) s = .next (t.finish f x 0x0103)))) ∧
  (∀ (s : State) (n : Fin 8), n.val < s.pkg.numVfs → ∃ u, exec (.flrVf n) s = .next u ∧
    u.fn (vfFn n) = { HostFn.reset with fetched := (s.fn (vfFn n)).fetched.map (fun x => { x with mute := true }) } ∧ (∀ e ∈ u.pkg.atc, e.fn ≠ vfFn n) ∧
    (∀ j ∈ u.pkg.loads, j.fn = vfFn n → j.sub.mute = true) ∧ (∀ j ∈ u.pkg.grp.joins, j.fn = vfFn n → j.mute = true) ∧
    (∀ k, s.taskOf n = some k → ∀ c ∈ k.cores, (s.core c).run = .running → (u.core c).run = .faulting) ∧ (∀ g, g ≠ vfFn n → u.fn g = s.fn g)) ∧
  (∀ (s : State), s.pkg.pcieUp = true → ∃ u, exec .flrPf s = .next u ∧ u.pkg.numVfs = 0 ∧ u.pkg.atc = [] ∧
    (∀ f, u.fn f = { HostFn.reset with fetched := (s.fn f).fetched.map (fun x => { x with mute := true }) }) ∧
    (∀ j ∈ u.pkg.loads, j.sub.mute = true) ∧ (∀ j ∈ u.pkg.grp.joins, j.mute = true) ∧
    ∀ n k, s.taskOf n = some k → ∀ c ∈ k.cores, (s.core c).run = .running → (u.core c).run = .faulting)

/-- R447, R448, R451: the oldest held entry of a function goes to its completion ring as 32 bytes that begin with CID, KIND and the flags with PHASE; CQ_TAIL advances and PHASE inverts when it wraps; a full or disabled ring holds every entry; the vector of the ring, when masked, stays pending and is sent when its mask clears. Readings and choices of the model that it rests on: log 83. -/
def Obligations.Completions : Prop :=
  ∀ (s : State) (f : Fin 9),
    let h := s.fn f
    let size := 2 ^ h.cqSize.toNat
    (∀ e rest, h.held = e :: rest → s.fnTlp f = true → h.cqEn = true → (h.cqTail.toNat + size - h.cqHead.toNat) % size + 1 < size →
      ∃ u, exec (.completionWrite f) s = .next u ∧ (u.fn f).held = rest ∧ (u.fn f).cqTail = BitVec.ofNat 12 ((h.cqTail.toNat + 1) % size) ∧
        (u.fn f).phase = (if (h.cqTail.toNat + 1) % size = 0 then !h.phase else h.phase) ∧ u.mem = s.mem ∧
        (∃ bs, s.onStream (.hostWrite f (h.cqBase.toNat * 4096 + 32 * h.cqTail.toNat) bs) ∈ u.outbox ∧ bs.length = 32 ∧
          ofLE (bs.take 2) = e.cid.toNat ∧ bs.getD 2 0 = e.kind ∧ (bs.getD 3 0).getLsbD 0 = h.phase ∧ ofLE ((bs.drop 4).take 2) = e.status.toNat)) ∧
    (s.fnTlp f = false ∨ h.cqEn = false ∨ size ≤ (h.cqTail.toNat + size - h.cqHead.toNat) % size + 1 → exec (.completionWrite f) s = .next s) ∧
    (h.since ≠ 0 → h.msixMask.getLsbD h.vector.toNat = false → exec (.cqInterruptTimeout f) s =
      .next { s.modFn f (fun h => { h with since := 0 }) with outbox := if s.tlpOk f then s.onStream (.msix f h.vector.toNat) :: s.outbox else s.outbox }) ∧
    (h.since ≠ 0 → h.msixMask.getLsbD h.vector.toNat = true → ∃ u, exec (.cqInterruptTimeout f) s = .next u ∧
      (u.fn f).msixPend.getLsbD h.vector.toNat = true ∧ (u.fn f).since = 0 ∧ u.outbox = s.outbox) ∧
    (∀ v : Fin 128, s.fnTlp f = true → v.val < (if f = 0 then 128 else 16) → ∃ u, exec (.msixUnmask f v) s = .next u ∧
      (u.fn f).msixMask.getLsbD v.val = false ∧ (u.fn f).msixPend.getLsbD v.val = false ∧
      u.outbox = (if h.msixPend.getLsbD v.val = true then s.onStream (.msix f v.val) :: s.outbox else s.outbox))

/-- R434, R438, R439, R441, R442, R443, R359, R473: BAR2 writes and reads the bytes at AP_BASE, without the bits below the aperture size, plus the offset; an access outside the bounds is not performed and is counted in FN_STAT.BOUNDS, a read with Unsupported Request. A BAR0 write reaches SQ_BASE, CQ_BASE and AP_BASE of a function's own page; one of less than 8 bytes only counts in FN_STAT.BADWR. A BAR0 read of 8 bytes returns the register and one of 4 bytes its half; one of another size or misaligned completes with Unsupported Request; the boot window reads 0, and a window of a die that the PF may not reach reads 0 and is counted. Requests of a VF outside the IDE stream that protects it are not performed. Readings and choices of the model that it rests on: log 84, 86, 87 for the words of a BAR0 read, 158 for the bit that AER logs, and 159 for the stream of a VF. -/
def Obligations.HostAccesses : Prop :=
  ∀ (s : State) (f : Fin 9), s.fnUp f = true →
    (∀ n read o size v, partOfVf f = some n → s.guarded n = true → 1 ≤ s.pkg.level.toNat → exec (.registerWrite f (.clear read o size v)) s =
      .next (if read then s.unsupported f else s.modFn f (fun h => { h with aer := setBit h.aer 20 true }))) ∧
    (∀ off bs ep, s.tlpOk f = false → ∃ u, exec (.hostBar2Write f off bs ep) s = .next u ∧ u.mem = s.mem ∧ u.cores = s.cores ∧ (u.fn f).bounds = (s.fn f).bounds) ∧
    (∀ off len, s.tlpOk f = false → ∃ u, exec (.hostBar2Read f off len) s = .next u ∧ u.mem = s.mem ∧ u.cores = s.cores ∧ u.outbox = s.onStream (.unsupported f) :: s.outbox) ∧
    (s.tlpOk f = true →
    let h := s.fn f
    let at' (off : Nat) : Nat := (gib * h.apBase.toNat) / 2 ^ h.bar2 * 2 ^ h.bar2 + off
    (∀ (off : Nat) (bs : List Byte), s.bar2Ok f off bs.length = true → s.ecc = [] → s.mem.wf = true → ∃ u, exec (.hostBar2Write f off bs false) s = .next u ∧
      u.mem.read (at' off) bs.length = bs ∧ (∀ a, (a < at' off ∨ at' off + bs.length ≤ a) → u.mem.get a = s.mem.get a) ∧ u.fn f = h) ∧
    (∀ (off : Nat) (bs : List Byte) (ep : Bool), s.bar2Ok f off bs.length = false → ∃ u, exec (.hostBar2Write f off bs ep) s = .next u ∧ u.mem = s.mem ∧
      (u.fn f).bounds = satAdd h.bounds 1) ∧
    (∀ off len, s.bar2Ok f off len = true → s.ecc = [] → ∃ u, exec (.hostBar2Read f off len) s = .next u ∧ u.mem = s.mem ∧
      u.outbox = s.onStream (.readData f (s.mem.read (at' off) len) false) :: s.outbox) ∧
    (∀ off len, s.bar2Ok f off len = false → ∃ u, exec (.hostBar2Read f off len) s = .next u ∧ u.mem = s.mem ∧ (u.fn f).bounds = satAdd h.bounds 1 ∧
      (u.fn f).aer.getLsbD 20 = true ∧ u.outbox = s.onStream (.unsupported f) :: s.outbox) ∧
    (∀ o size, (size ≠ 4 ∧ size ≠ 8) ∨ o % size ≠ 0 → exec (.registerWrite f (.bar0Read o size)) s = .next (s.unsupported f)) ∧
    (∀ o t v, o % 8 = 0 → (if f = 0 then s.pfRead o else s.vfRead f o) = (t, .word v) →
      exec (.registerWrite f (.bar0Read o 8)) s = .next (t.send (.readData f (leBytes 8 v.toNat) false)) ∧
      exec (.registerWrite f (.bar0Read o 4)) s = .next (t.send (.readData f ((leBytes 8 v.toNat).take 4) false)) ∧
      exec (.registerWrite f (.bar0Read (o + 4) 4)) s = .next (t.send (.readData f ((leBytes 8 v.toNat).drop 4) false))) ∧
    (let page := if f = 0 then 0x1000000 else 0
     exec (.registerWrite f (.bar0Read page 8)) s = .next (s.send (.readData f (leBytes 8 (4096 * h.sqBase.toNat)) false))) ∧
    (f = 0 → (∀ o, o % 8 = 0 → 0x2000000 ≤ o → o < 0x3000000 → exec (.registerWrite f (.bar0Read o 8)) s = .next (s.send (.readData f (zeros 8) false))) ∧
      (∀ (d : Fin 8) (o : Nat), o % 8 = 0 → o < 0x4000 → 2 ≤ s.pkg.level.toNat → s.shielded d = true →
        exec (.registerWrite f (.bar0Read (0x1100000 + 0x4000 * d.val + o) 8)) s = .next ((s.agentMiss (.host f)).send (.readData f (zeros 8) false)))) ∧
    (∀ v : Word,
      let page := if f = 0 then 0x1000000 else 0
      exec (.registerWrite f (.bar0 page 8 v)) s = .next (s.modFn f (fun h => if h.sqEn then h else { h with sqBase := BitVec.ofNat 52 (v.toNat / 4096) })) ∧
      exec (.registerWrite f (.bar0 (page + 8) 8 v)) s = .next (s.modFn f (fun h => if h.cqEn then h else { h with cqBase := BitVec.ofNat 52 (v.toNat / 4096) })) ∧
      ((∀ n, partOfVf f = some n → s.guarded n = false) → exec (.registerWrite f (.bar0 (page + 0x38) 8 v)) s =
        .next (s.modFn f (fun h => { h with apBase := BitVec.ofNat 18 (v.toNat / 2 ^ 30) }))) ∧
      exec (.registerWrite f (.bar0 page 4 v)) s = .next (s.modFn f (fun h => { h with badwr := satAdd h.badwr 1 }))))

namespace Sys2Proof.Claims

/-- A completion entry for a command (R447): its kind is 0 and only CID and STATUS are given. -/
def answerOf (cid status : BitVec 16) : CqEntry := ⟨cid, 0, false, false, status, 0, 0, 0, 0, none⟩

/-- A command has completed: with an entry, unless a reset of its function has taken that (R435). -/
abbrev Completed (s u : State) (f : Fin 9) (mute : Bool) (cid status : BitVec 16) : Prop :=
  (u.fn f).held = if mute then (s.fn f).held else (s.fn f).held ++ [answerOf cid status]

/-- The part has sent a group message, which also left as cars where it has a route: nothing but its links and what it has sent has changed. -/
abbrev Told (s u : State) (dst : BitVec 12) (m : GroupMsg) : Prop :=
  (.group dst m :: s.outbox) <:+ u.outbox ∧ u.mem = s.mem ∧ u.cores = s.cores ∧ u.pkg = { s.pkg with links := u.pkg.links }

/-- A lead of a group without an upper tier. -/
abbrev Leads (s : State) : Prop := s.pkg.grp.role = 2 ∧ s.pkg.grp.upper = false

/-- The joins of a part have completed, with an entry each that no reset has taken: its entry in the table is ACTIVE or SPARE as they said, every other one as it was. -/
abbrev JoinedOf (s u : State) (p : BitVec 12) : Prop :=
  u.pkg.grp.joins = s.pkg.grp.joins.filter (fun j => decide (j.part ≠ p)) ∧
    u.pkg.grp.members.map (fun m => (m.part, m.st)) = s.pkg.grp.members.map (fun m =>
      (m.part, if m.part = p ∧ m.st = .joining then (if (s.pkg.grp.joins.filter (fun j => decide (j.part = p))).any Join.spare then MemSt.spare else .active) else m.st)) ∧
    ∀ h, (u.fn h).held = (s.fn h).held ++ (s.pkg.grp.joins.filter (fun j => decide (j.part = p ∧ j.fn = h) && !j.mute)).map (fun j => answerOf j.cid 0)

/-- The part has an entry of a lead's table in JOINING. -/
abbrev Joins (s : State) (p : BitVec 12) : Prop := ∃ m ∈ s.pkg.grp.members, m.part = p ∧ m.st = .joining

/-- A survey folded with a child's reply (R430): the smaller and the larger digest, and its count on the side of the tree that it came from. -/
abbrev Folded (s : State) (src : BitVec 12) (lo hi : Leg) (count : Nat) (v w : Survey) : Prop :=
  w.num = v.num ∧ w.epoch = v.epoch ∧ w.parent = v.parent ∧ w.wait = v.wait.erase src ∧ w.lo.toNat = Nat.min v.lo.toNat lo.toNat ∧
    w.hi.toNat = Nat.max v.hi.toNat hi.toNat ∧ (src ∉ s.upChildren → w.count = v.count + count ∧ w.up = v.up) ∧
    (src ∈ s.upChildren → w.count = v.count ∧ w.up = v.up + count)

/-- What a part tells its parent at the end of a survey (R430); a group lead below a top lead answers for its group (R414). -/
abbrev surveyCount (s : State) (v : Survey) : Nat :=
  if s.pkg.grp.role = 2 then (decide (v.count = (activeOf s.pkg.grp.members).length)).toNat + v.up else v.count

/-- Whether a survey that ends at the lead is consistent (R431). -/
abbrev Consistent (s : State) (v : Survey) : Prop :=
  v.lo = v.hi ∧ v.hi = s.pkg.grp.digest ∧ v.count = (activeOf s.pkg.grp.members).length ∧ v.up = s.upActive.length

/-- No task has a mailbox that the firmware could write. -/
abbrev NoMail (s : State) : Prop := s.mailDie = none ∨ ∃ d, s.mailDie = some d ∧ bit (s.die d).mbox1 13 = false

end Sys2Proof.Claims

open Sys2Proof.Claims

/-- R411, R412, R413, R416, R445: SET_ROLE is refused to a VF and while a task runs, and else applies role, ID, partition and lead, with STRICT on a lead, which is ACTIVE in its own table; ADD_MEMBER enters a part as JOINING and completes it once its links are UP and its identity is verified, whichever of the two comes last, or with JOIN_FAILED after the second, when its entry is empty again; SUBMIT_JOB gives slot i to the i-th ACTIVE member and is refused when S exceeds them, and when S or the number of steps is 0 or the descriptor is outside Tier N. Readings and choices of the model that it rests on: log 73, 95, 96, 186. -/
def Obligations.RolesMembersJobs : Prop :=
  ∀ (s t : State) (f : Fin 9) (cid : BitVec 16) (x : Submission),
    let g := s.pkg.grp
    (s.takeSub f 0x10 cid = some (x, t) →
      let a := x.arg0.toNat
      let role := a / 2 ^ 12 % 4
      (f ≠ 0 → ∃ u, exec (.setRole f cid) s = .next u ∧ Completed s u f x.mute cid 0x0102 ∧ u.pkg.grp = g) ∧
      (f = 0 → s.pkg.tasks ≠ [] → ∃ u, exec (.setRole f cid) s = .next u ∧ Completed s u f x.mute cid 0x0104 ∧ u.pkg.grp = g) ∧
      (f = 0 → s.pkg.tasks = [] → g.joins = [] → role ≤ 2 → ∃ u, exec (.setRole f cid) s = .next u ∧ Completed s u f x.mute cid 0 ∧ u.pkg.grp.role.toNat = role ∧ u.mem = s.mem ∧
        u.pkg.epoch = s.pkg.epoch ∧ u.pkg.partId = (if role = 0 then 0 else BitVec.ofNat 12 a) ∧
        (role = 0 → u.pkg.grp.st = .standalone ∧ u.pkg.grp.members = []) ∧
        (role = 1 → u.pkg.grp.lead = BitVec.ofNat 12 (a / 2 ^ 28) ∧ u.pkg.grp.part.val = a / 2 ^ 14 % 8 ∧ u.pkg.grp.st = .forming) ∧
        (role = 2 → u.pkg.grp.lead = BitVec.ofNat 12 a ∧ u.pkg.grp.part.val = a / 2 ^ 14 % 8 ∧ u.pkg.railCfg.getLsbD 0 = true ∧
          u.pkg.grp.members.map (fun m => (m.part, m.st)) = [(BitVec.ofNat 12 a, .active)]))) ∧
    (s.takeSub f 0x11 cid = some (x, t) → Leads s → f = 0 → bit x.arg0 13 = false → g.joins = [] → g.upperTab = [] → memberOf g.members (fld x.arg0 0 12) = none → g.members.length < 64 →
      ∃ u, exec (.addMember f cid) s = .next u ∧ (u.fn f).held = (s.fn f).held ∧ (memberOf u.pkg.grp.members (fld x.arg0 0 12)).map Member.st = some .joining ∧
        (∀ p, p ≠ fld x.arg0 0 12 → memberOf u.pkg.grp.members p = memberOf g.members p) ∧
        ∃ w, exec (.joinTimeout (fld x.arg0 0 12)) u = .next w ∧ Completed s w f x.mute cid 0x0105 ∧ memberOf w.pkg.grp.members (fld x.arg0 0 12) = none) ∧
    (s.takeSub f 0x11 cid = some (x, t) → f ≠ 0 ∨ g.role ≠ 2 ∨ (bit x.arg0 13 = true ∧ ¬(g.upper = true ∧ g.topLead = s.pkg.partId)) →
      exec (.addMember f cid) s = .next (t.finish f x 0x0102)) ∧
    (s.takeSub f 0x11 cid = some (x, t) → Leads s → f = 0 → bit x.arg0 13 = false → (∀ m, memberOf g.members (fld x.arg0 0 12) = some m → m.works = true →
      exec (.addMember f cid) s = .next (t.finish f x 0)) ∧
      (memberOf g.members (fld x.arg0 0 12) = none → 64 ≤ g.members.length → exec (.addMember f cid) s = .next (t.finish f x 0x0101))) ∧
    (∀ p : BitVec 12,
      (g.joins.any (fun j => decide (j.part = p)) = false → exec (.joinTimeout p) s = .next s) ∧
      (g.joins.any (fun j => decide (j.part = p)) = true → ∃ u, exec (.joinTimeout p) s = .next u ∧ u.mem = s.mem ∧ u.cores = s.cores ∧
        u.pkg.grp.joins = g.joins.filter (fun j => !decide (j.part = p)) ∧ u.pkg.grp.members = g.members.filter (fun m => !decide (m.part = p ∧ m.st = .joining)) ∧
        u.pkg.grp.upperTab = g.upperTab.filter (fun m => !decide (m.part = p ∧ m.st = .joining)) ∧
        ∀ h, (u.fn h).held = (s.fn h).held ++ (g.joins.filter (fun j => decide (j.part = p ∧ j.fn = h) && !j.mute)).map (fun j => answerOf j.cid 0x0105))) ∧
    (∀ p, Joins s p → p ≠ s.pkg.partId → s.pkg.inbox = [] → s.linkTo p = true → ∃ u, exec (.railCtrl (.joined p true)) s = .next u ∧ u.mem = s.mem ∧ JoinedOf s u p) ∧
    (∀ (l : Fin 72) (r : Training), (∀ m ∈ g.all, m.part = r.peer → m.verified = true) → Joins s r.peer → s.hasLink l = true → (s.link l).st = .keying → r.ok = true →
      (vget s.pkg.ports (portOf l)).session = true → ∃ u, exec (.linkTrainingComplete l r) s = .next u ∧ (u.link l).st = .up ∧ u.mem = s.mem ∧ JoinedOf s u r.peer) ∧
    (s.takeSub f 0x12 cid = some (x, t) → (f ≠ 0 ∧ partOfVf f ≠ some g.part) ∨ g.role ≠ 2 ∨ g.job.isSome = true → exec (.submitJob f cid) s = .next (t.finish f x 0x0102)) ∧
    (s.takeSub f 0x12 cid = some (x, t) → Leads s → f = 0 ∨ partOfVf f = some g.part → g.job = none → NoMail s →
      let slots := x.arg1.toNat % 2 ^ 16
      let steps := x.arg1.toNat / 2 ^ 16 % 2 ^ 32
      let act := activeOf g.members
      (act.length < slots → exec (.submitJob f cid) s = .next (t.finish f x 0x0106)) ∧
      (slots ≤ act.length → slots = 0 ∨ steps = 0 ∨ s.inTierN g.part x.arg0.toNat (64 * slots * steps) = false → exec (.submitJob f cid) s = .next (t.finish f x 0x0101)) ∧
      (slots ≤ act.length → 0 < slots → 0 < steps → s.inTierN g.part x.arg0.toNat (64 * slots * steps) = true → ∃ u j, exec (.submitJob f cid) s = .next u ∧ u.pkg.grp.job = some j ∧
        j.slots = slots ∧ j.steps = steps ∧ j.step = 0 ∧ j.accepted = [] ∧ j.map = act.take slots ∧ j.num = g.jobs + 1 ∧ u.pkg.grp.jobs = g.jobs + 1 ∧ Completed s u f x.mute cid 0 ∧ u.mem = s.mem ∧
        ∀ p ∈ s.workers, p ∉ act.take slots → .group p (.job (g.jobs + 1)) ∈ u.outbox))

/-- R417 to R421: a work list of another epoch is discarded and counted in STALE, and one that finds no mailbox waits; a write to the mailbox registers is taken, GRP_MBOX0 restarts the record count and both clear MBERR; GRP_DONE of the current epoch becomes a completion message to the lead, which accepts it for its step and slot only under its own epoch; the last one of a step ends it, with its entry for the host, once the mailbox has taken the step-done record. Readings and choices of the model that it rests on: log 89, 97, 98. -/
def Obligations.WorkListsAndCompletions : Prop :=
  ∀ (s : State),
    let g := s.pkg.grp
    (∀ w : WorkList, g.role ≠ 0 → g.st ≠ .orphan →
      (w.epoch ≠ s.pkg.epoch → exec (.workListReceive w) s = .next (s.modGrp (fun g => { g with stale := satAdd g.stale 1 }))) ∧
      (w.epoch = s.pkg.epoch → NoMail s → g.heldWork.length < 64 →
        exec (.workListReceive w) s = .next ((s.jobSeen w.job).modGrp (fun g => { g with heldWork := g.heldWork ++ [w] }))) ∧
      (w.epoch = s.pkg.epoch → ∀ d, s.mailDie = some d → bit (s.die d).mbox1 13 = true → s.mailValid d = true → g.heldWork = [] → s.ecc = [] → s.mem.wf = true →
        Quiet s (coreOfPkg (fldN (s.die d).mbox1 0 7)) (Fin.ofNat 64 (fldN (s.die d).mbox1 7 6)) →
        ∃ u, exec (.workListReceive w) s = .next u ∧ u.pkg.grp.heldWork = [] ∧ (u.die d).sent = (s.die d).sent + 1 ∧
          u.mem.read (fldN (s.die d).mbox0 0 48 + 64 * ((s.die d).sent.toNat % 2 ^ fldN (s.die d).mbox0 48 4)) 64 =
            leBytes 4 w.epoch.toNat ++ leBytes 1 0 ++ leBytes 1 0 ++ leBytes 2 w.slot.toNat ++ leBytes 4 w.step.toNat ++ leBytes 4 w.first.toNat ++
              leBytes 4 w.items.toNat ++ leBytes 2 w.mapId.toNat ++ leBytes 2 w.pr.toNat ++ leBytes 2 w.pc.toNat ++ leBytes 6 0 ++ (w.arg ++ zeros 32).take 32 ∧
          u.sem (coreOfPkg (fldN (s.die d).mbox1 0 7)) (Fin.ofNat 64 (fldN (s.die d).mbox1 7 6)) =
            s.sem (coreOfPkg (fldN (s.die d).mbox1 0 7)) (Fin.ofNat 64 (fldN (s.die d).mbox1 7 6)) + 1)) ∧
    (∀ (f : Fin 9) (d : Fin 8) (v : Word), s.hasDie d = true → s.arrives (.host f) = true → s.reaches (.host f) d = true → (s.die d).resetting = false →
      (∀ n, s.dieOwner d = some n → s.taskOf n = none) → g.heldWork = [] → (∀ j, g.job = some j → j.accepted.length ≠ j.slots) →
      (∃ u, exec (.mailboxWrite f d false v) s = .next u ∧ (u.die d).mbox0.toNat = v.toNat % 2 ^ 52 ∧ (u.die d).sent = 0 ∧ (u.die d).mbox1.getLsbD 14 = false) ∧
      (∃ u, exec (.mailboxWrite f d true v) s = .next u ∧ (u.die d).mbox1.toNat = v.toNat % 2 ^ 14 ∧ (u.die d).mbox0 = (s.die d).mbox0)) ∧
    (∀ (f : Fin 9) (d : Fin 8) (v : Word), s.hasDie d = true → s.arrives (.host f) = true → s.reaches (.host f) d = true → (s.die d).resetting = false →
      (s.die d).done = [] → g.role = 1 → g.st ≠ .orphan → ∃ u, exec (.grpDoneWrite f d v) s = .next u ∧ u.mem = s.mem ∧
        (v.toNat % 2 ^ 32 = s.pkg.epoch.toNat →
          (.group g.lead (.done s.pkg.epoch (BitVec.ofNat 16 (v.toNat / 2 ^ 32)) (BitVec.ofNat 16 (v.toNat / 2 ^ 48))) :: s.outbox) <:+ u.outbox) ∧
        (v.toNat % 2 ^ 32 ≠ s.pkg.epoch.toNat → u.outbox = s.outbox)) ∧
    (∀ (src : BitVec 12) (epoch : BitVec 32) (slot : Fin 64) (step : BitVec 16) (j : Job), g.role = 2 → s.isWorker src = true → g.job = some j →
      (epoch ≠ s.pkg.epoch → exec (.completionAccept src epoch slot step) s = .next (s.modGrp (fun g => { g with stale := satAdd g.stale 1 }))) ∧
      (epoch = s.pkg.epoch → step.toNat = j.step % 2 ^ 16 → slot.val < j.slots → slot.val ∉ j.accepted → j.accepted.length + 1 ≠ j.slots →
        exec (.completionAccept src epoch slot step) s = .next (s.modGrp (fun g => { g with job := some { j with accepted := slot.val :: j.accepted } }))) ∧
      (epoch = s.pkg.epoch → slot.val ∈ j.accepted → exec (.completionAccept src epoch slot step) s = .next s) ∧
      (epoch = s.pkg.epoch → step.toNat = j.step % 2 ^ 16 → slot.val < j.slots → slot.val ∉ j.accepted → j.accepted.length + 1 = j.slots →
        (NoMail s → exec (.completionAccept src epoch slot step) s = .next (s.modGrp (fun g => { g with job := some { j with accepted := slot.val :: j.accepted } }))) ∧
        (∀ d, s.mailDie = some d → bit (s.die d).mbox1 13 = true → s.mailValid d = true → ∃ u e rest, exec (.completionAccept src epoch slot step) s = .next u ∧
          (u.fn j.fn).held = (s.fn j.fn).held ++ e :: rest ∧ e.kind = 2 ∧ e.cid = 0xFFFF ∧ e.detail = BitVec.ofNat 32 j.step ∧
          (j.step + 1 < j.steps → u.pkg.grp.job = some { j with step := j.step + 1, accepted := [] }) ∧ (j.steps ≤ j.step + 1 → u.pkg.grp.job = none))))

/-- R423, R426, R427, R428: a part sends its heartbeat to its lead, or to its workers; a heartbeat clears the period of its worker and one with TASK_FAULT fails it; a worker that misses a third period is EXCLUDED and the epoch rises by exactly 1, a lead that is missed three times leaves an orphan; a worker that receives a new epoch writes RAIL_EPOCH and acknowledges it; the last acknowledgement sets the lead running again; members that stay silent fail; a delayed raise takes place once the millisecond has passed, and the routes that the lead has for each part are worked out anew without the excluded parts. Readings and choices of the model that it rests on: log 90, 91, 92, 185, 186. -/
def Obligations.HeartbeatsAndEpochs : Prop :=
  ∀ (s : State), NoMail s → s.pkg.rdctx.toList.all (fun w => !(rdEn w)) = true → s.pkg.xArrived = 0 →
    let g := s.pkg.grp
    (g.role = 1 → ∃ u, exec .heartbeatTimer s = .next u ∧ Told s u g.lead (.heartbeat s.pkg.epoch (g.taskFault || s.pkg.healthFatal))) ∧
    (g.role = 2 → ∃ u, exec .heartbeatTimer s = .next u ∧ (∀ p ∈ s.workers, .group p (.heartbeat s.pkg.epoch (g.taskFault || s.pkg.healthFatal)) ∈ u.outbox) ∧
      (g.under s.pkg.partId = true → .group g.topLead (.heartbeat s.pkg.epoch (g.taskFault || s.pkg.healthFatal)) ∈ u.outbox) ∧
      s.outbox <:+ u.outbox ∧ u.pkg = { s.pkg with links := u.pkg.links } ∧ u.mem = s.mem ∧ u.cores = s.cores) ∧
    (∀ src e, Leads s → s.isWorker src = true → ∃ u, exec (.heartbeatReceive src e false) s = .next u ∧ u.pkg.epoch = s.pkg.epoch ∧
      (∀ m ∈ u.pkg.grp.members, m.part = src → m.heard = true) ∧ u.pkg.grp.members.map Member.st = g.members.map Member.st) ∧
    (∀ src e, Leads s → s.isWorker src = true → src ≠ s.pkg.partId → g.raised = 0 → ∃ u, exec (.heartbeatReceive src e true) s = .next u ∧
      (∀ m ∈ u.pkg.grp.members, m.part = src → m.st = .excluded) ∧ u.pkg.epoch = s.pkg.epoch + 1) ∧
    (Leads s → g.upperTab = [] → g.raised ≤ 1 → ∃ u, exec .heartbeatCheck s = .next u ∧
      ((∃ m ∈ g.members, m.part ≠ s.pkg.partId ∧ m.works = true ∧ m.heard = false ∧ m.miss = 2) →
        (∀ m ∈ g.members, m.part ≠ s.pkg.partId → m.works = true → m.heard = false → m.miss = 2 → ∀ n ∈ u.pkg.grp.members, n.part = m.part → n.st = .excluded) ∧
          u.pkg.epoch = s.pkg.epoch + 1) ∧
      ((∀ m ∈ g.members, m.part ≠ s.pkg.partId → m.works = true → m.heard = true ∨ m.miss < 2) → (∀ m ∈ g.members, m.works = true → m.miss < 3) →
        u.pkg.epoch = s.pkg.epoch ∧
          u.pkg.grp.members.map Member.miss = g.members.map (fun m => if m.part = s.pkg.partId ∨ m.works = false then m.miss else if m.heard then 0 else m.miss + 1))) ∧
    (g.role = 1 → g.st ≠ .orphan → ∃ u, exec .heartbeatCheck s = .next u ∧ u.pkg.epoch = s.pkg.epoch ∧
      u.pkg.grp.st = (if g.leadHeard = false ∧ 2 ≤ g.leadMiss then .orphan else g.st)) ∧
    (∀ m : EpochMsg, g.role = 1 → m.epoch ≠ s.pkg.epoch → m.ctx = [] → ∃ u, exec (.epochReceive m) s = .next u ∧ u.pkg.epoch = m.epoch ∧ u.pkg.barXpart = m.xpart ∧
      u.pkg.railCfg.getLsbD 0 = true ∧ u.pkg.torus = m.torus &&& torusMask ∧ u.pkg.reds = [] ∧ (∀ i, rdEn (u.rdctx i) = false) ∧
      u.pkg.grp.tree = treeOf g.lead (m.members.filter (fun p => decide (p ≠ g.lead))) ∧ u.pkg.grp.jobs = m.job ∧
      (.group g.lead (.ack m.epoch) :: s.outbox) <:+ u.outbox ∧ u.mem = s.mem) ∧
    (∀ m : EpochMsg, g.role = 1 → m.epoch = s.pkg.epoch → ∃ u, exec (.epochReceive m) s = .next u ∧ Told s u g.lead (.ack m.epoch)) ∧
    (∀ src, Leads s → g.upperTab = [] → s.isWorker src = true → g.st = .remapping → g.delayed = false → g.job = none → ∃ u, exec (.epochAckReceive src s.pkg.epoch) s = .next u ∧
      u.pkg.epoch = s.pkg.epoch ∧ (∀ m ∈ u.pkg.grp.members, m.part = src → m.acked = true) ∧
      ((∀ m ∈ g.members, m.st = .active → m.part ≠ s.pkg.partId → m.part = src ∨ m.acked = true) → u.pkg.grp.st = .running)) ∧
    (Leads s → g.upperTab = [] → (g.members.map Member.part).Nodup → g.st = .remapping → g.delayed = false → ∃ u, exec .epochAckTimeout s = .next u ∧
      ∀ m ∈ g.members, m.st = .active → m.part ≠ s.pkg.partId → m.acked = false → ∀ n ∈ u.pkg.grp.members, n.part = m.part → n.st = .excluded) ∧
    (Leads s → g.delayed = true → ∃ u, exec .delayedEpochRaise s = .next u ∧ u.pkg.epoch = s.pkg.epoch + 1 ∧ u.pkg.grp.delayed = false ∧
      u.pkg.barXpart = (u.epochMsg s.pkg.partId).xpart ∧
      (g.all.any (fun m => decide (m.part = s.pkg.partId ∧ m.st = .spare)) = false → u.pkg.barXpart = (g.planOf s.pkg.partId).xpart) ∧
      ∀ e ∈ g.plan, (g.members.map Member.part).Nodup → g.plan.find? (fun x => decide (x.1 = e.1)) = some e →
        let out := (g.all.filter (fun m => decide (m.st = .excluded))).map (fun m => m.part.toNat)
        (u.pkg.grp.planOf e.1).gaz = (if out = [] then e.2.gaz else Config.reroute e.1.toNat out e.2.gaz) ∧
          (u.pkg.grp.planOf e.1).mcg = (if out = [] then e.2.mcg else Config.regroup e.1.toNat out e.2.mcg)) ∧
    (Leads s → g.delayed = false → ∃ u, exec .delayedEpochRaise s = .next u ∧ u.pkg.epoch = s.pkg.epoch)

/-- R430, R431: a survey goes down the tree; a leaf answers at once with its own digest twice and the count 1; a part folds its children's replies into minimum, maximum and count and answers its parent with the last one or after 2 ms; at the lead it is consistent exactly when both digests are the lead's and the count is that of the ACTIVE members; where it is not, the lead asks every ACTIVE member directly, a member answers with its own digest whatever survey it is in, and those that answer with another digest, or not at all, fail. Readings and choices of the model that it rests on: log 94, 188. -/
def Obligations.Surveys : Prop :=
  ∀ (s : State),
    let g := s.pkg.grp
    (Leads s → s.treeChildren ≠ [] → ∃ u v, exec .surveyTimer s = .next u ∧ u.pkg.grp.survey = some v ∧ v.num = g.surveyNum + 1 ∧ v.epoch = s.pkg.epoch ∧
      v.lo = g.digest ∧ v.hi = g.digest ∧ v.count = 1 ∧ v.wait = s.treeChildren ∧ v.parent = none ∧ s.outbox <:+ u.outbox ∧
      ∀ p ∈ s.treeChildren, .group p (.survey (g.surveyNum + 1) s.pkg.epoch) ∈ u.outbox) ∧
    (∀ src num epoch, g.role = 1 → s.treeChildren = [] → s.upChildren = [] → ∃ u, exec (.surveyRequestReceive src ⟨num, false⟩ epoch) s = .next u ∧
      (.group src (.reply num epoch g.digest g.digest 1) :: s.outbox) <:+ u.outbox ∧ u.pkg.grp.survey = none) ∧
    (∀ src num epoch, g.role = 1 → s.treeChildren ++ s.upChildren ≠ [] → ∃ u v, exec (.surveyRequestReceive src ⟨num, false⟩ epoch) s = .next u ∧ u.pkg.grp.survey = some v ∧
      v.num = num ∧ v.epoch = epoch ∧ v.parent = some src ∧ v.lo = g.digest ∧ v.hi = g.digest ∧ v.count = 1 ∧ v.up = 0 ∧ v.wait = s.treeChildren ++ s.upChildren ∧
      ∀ p ∈ v.wait, .group p (.survey num epoch) ∈ u.outbox) ∧
    (∀ src num epoch, g.role = 1 → ∃ u, exec (.surveyRequestReceive src ⟨num, true⟩ epoch) s = .next u ∧ Told s u src (.digest num g.digest)) ∧
    (∀ src lo hi count (v : Survey), g.survey = some v → src ∈ v.wait → g.role ≠ 2 ∨ s.hears src = true →
      (v.wait.erase src ≠ [] → ∃ u w, exec (.surveyReplyReceive src ⟨v.num, false⟩ v.epoch lo hi count) s = .next u ∧ u.pkg.grp.survey = some w ∧ Folded s src lo hi count v w ∧
        u.outbox = s.outbox) ∧
      (v.wait.erase src = [] → ∀ p, v.parent = some p → ∃ u w, exec (.surveyReplyReceive src ⟨v.num, false⟩ v.epoch lo hi count) s = .next u ∧ Folded s src lo hi count v w ∧
        Told (s.modGrp (fun g => { g with survey := none })) u p (.reply v.num v.epoch w.lo w.hi (surveyCount s w))) ∧
      (v.wait.erase src = [] → v.parent = none → ∃ u w, exec (.surveyReplyReceive src ⟨v.num, false⟩ v.epoch lo hi count) s = .next u ∧ Folded s src lo hi count v w ∧
        u.pkg.grp.survey = none ∧ (u.pkg.grp.cons = true ↔ Consistent s w))) ∧
    (∀ src num epoch lo hi count (v : Survey), g.survey = some v → epoch ≠ v.epoch ∨ (g.role = 2 ∧ s.hears src = false) →
      exec (.surveyReplyReceive src ⟨num, false⟩ epoch lo hi count) s = .next s) ∧
    (∀ (v : Survey) p, g.survey = some v → v.parent = some p → ∃ u, exec .surveyChildTimeout s = .next u ∧
      Told (s.modGrp (fun g => { g with survey := none })) u p (.reply v.num v.epoch v.lo v.hi (surveyCount s v))) ∧
    (∀ v : Survey, g.survey = some v → v.parent = none → ∃ u, exec .surveyChildTimeout s = .next u ∧ u.pkg.grp.survey = none ∧
      (Consistent s v → u.pkg.grp.cons = true ∧ u.pkg.grp.surveyFail = g.surveyFail) ∧
      (¬Consistent s v → u.pkg.grp.cons = false ∧ u.pkg.grp.surveyFail = satAdd g.surveyFail 1 ∧ u.pkg.grp.asking = true ∧
        ∀ p ∈ activeOf g.members, p ≠ s.pkg.partId → .group p (.digestAsk g.surveyNum) ∈ u.outbox)) ∧
    (∀ src num epoch lo hi count, Leads s → g.asking = true → s.isWorker src = true → src ≠ s.pkg.partId → (∀ m ∈ g.members, m.part = src → m.st = .active) →
      ((∃ m ∈ g.members, m.st = .active ∧ m.part ≠ s.pkg.partId ∧ m.part ≠ src ∧ m.digest = none) →
        ∃ u, exec (.surveyReplyReceive src ⟨num, true⟩ epoch lo hi count) s = .next u ∧ u.pkg.grp.asking = true ∧ u.pkg.epoch = s.pkg.epoch ∧ u.outbox = s.outbox ∧
          ∀ m ∈ u.pkg.grp.members, m.part = src → m.digest = some lo) ∧
      ((∀ m ∈ g.members, m.st = .active → m.part ≠ s.pkg.partId → m.part ≠ src → m.digest.isSome = true) →
        ∃ u, exec (.surveyReplyReceive src ⟨num, true⟩ epoch lo hi count) s = .next u ∧
          (lo ≠ g.digest → ∀ m ∈ u.pkg.grp.members, m.part = src → m.st = .excluded) ∧
          (lo = g.digest → (∀ m ∈ g.members, m.st = .active → m.part ≠ s.pkg.partId → m.part ≠ src → m.digest = some g.digest) →
            u.pkg.grp.asking = false ∧ u.pkg.epoch = s.pkg.epoch ∧ u.pkg.grp.members.map Member.st = g.members.map Member.st))) ∧
    (Leads s → g.asking = true → g.upperTab = [] → NoMail s → ∃ u, exec .surveyDigestTimeout s = .next u ∧
      ∀ m ∈ g.members, m.st = .active → m.part ≠ s.pkg.partId → m.digest ≠ some g.digest → ∀ n ∈ u.pkg.grp.members, n.part = m.part → n.st = .excluded)


namespace Sys2Proof.Claims

/-- The oldest message of a type in the inbox of the Rail unit. -/
abbrev Arrived (s : State) (typ : BitVec 4) (m : RailMsg) : Prop := s.pkg.inbox.find? (fun x => decide (x.typ = typ)) = some m

/-- Memory after a write of bytes at an address: those bytes there, and every other byte as before. -/
abbrev Wrote (s u : State) (a : Nat) (bs : List Byte) : Prop :=
  u.mem.read a bs.length = bs ∧ ∀ x, (x < a ∨ a + bs.length ≤ x) → u.mem.get x = s.mem.get x

end Sys2Proof.Claims

open Sys2Proof.Claims

/-- R374, R391, R393, R395, R405, R406, R413, R425: what the messages of Rail do at the part that they reach: a WRITE and a member's MCWRITE write their bytes and nothing else, a READ changes no memory and its data go back, an access outside is not performed, a response completes the request of its tag and one that nobody waits for is counted in LATE, a REDUCE waits for its context, a barrier arrival waits for the part's own or goes up the tree, a lead takes none from a part that it does not hear, and a verified identity, a plan of the lead, a job or a key update reaches the firmware; the message whose meaning the command carries leaves the inbox. Readings and choices of the model that it rests on: log 3, 92, 106, 107, 108, 147, 184, 186, 187. -/
def Obligations.RailMessages : Prop :=
  ∀ (s : State), s.ecc = [] → s.mem.wf = true →
    (∀ m, Arrived s 3 m → m.data.length = m.len →
      (s.remotePlace m.addr m.len true = .mem → ∃ u, exec .railWrite s = .next u ∧ Wrote s u m.addr m.data ∧ u.pkg.inbox = s.pkg.inbox.erase m) ∧
      (s.remotePlace m.addr m.len true = .refused → ∃ u, exec .railWrite s = .next u ∧ u.mem = s.mem ∧ u.pkg.inbox = s.pkg.inbox.erase m)) ∧
    (∀ m, Arrived s 4 m → s.remotePlace m.addr m.len false = .mem → ∃ u, exec .railRead s = .next u ∧ u.mem = s.mem ∧ u.pkg.inbox = s.pkg.inbox.erase m ∧
      ∀ l dl, s.route m.src none = some (l, dl) → (s.link l).st ≠ .up →
        (u.link l).txq = (s.link l).txq ++ (s.messageCars m.src 6 dl ⟨0, m.len, m.rtag, 0, 0⟩ (s.mem.read m.addr m.len)).map (fun c => (c, none))) ∧
    (∀ m, Arrived s 5 m → m.drop = true → (s.mcgLinks m.grp).filter (fun l => decide (some l ≠ some m.link)) = [] → s.pkg.mcWaits = [] →
      ∃ u, exec .railMcwrite s = .next u ∧ u.mem = s.mem ∧ u.pkg.mcWaits = []) ∧
    (∀ m, Arrived s 5 m → m.drop = false → s.mcgLocal m.grp = true → (s.mcgLinks m.grp).filter (fun l => decide (some l ≠ some m.link)) = [] → s.remotePlace m.addr m.len true = .mem →
      s.pkg.mcWaits = [] → s.pkg.rdctx.toList.all (fun w => !(rdEn w)) = true → ∃ u, exec .railMcwrite s = .next u ∧ Wrote s u m.addr m.data ∧ u.pkg.mcWaits = []) ∧
    (∀ m, Arrived s 6 m → s.pkg.pends = [] → ∃ u, exec .railReadResp s = .next u ∧ u.mem = s.mem ∧ u.cores = s.cores ∧ u.pkg.late = satAdd s.pkg.late 1) ∧
    (∀ m q c rd size sx pc, Arrived s 6 m → s.pkg.pends.find? (fun q => decide (q.tag = m.rtag)) = some q → q.who = .ld c rd size sx pc → (s.core c).run = .running →
      ∃ u, exec .railReadResp s = .next u ∧ u.mem = s.mem ∧ u.core c = (s.core c).setG rd (extend size sx (ofLE (m.data.take size))) ∧ ∀ r ∈ u.pkg.pends, r.tag ≠ m.rtag) ∧
    (∀ m q c pc, Arrived s 7 m → s.pkg.mcWaits = [] → s.pkg.pends.find? (fun q => decide (q.tag = m.rtag)) = some q → q.who = .st c pc →
      ∃ u, exec .railWriteAck s = .next u ∧ u.mem = s.mem ∧ u.cores = s.cores ∧ u.pkg.pends = s.pkg.pends.filter (fun r => decide (r.tag ≠ m.rtag))) ∧
    (∀ m q c pc, Arrived s 8 m → s.pkg.pends.find? (fun q => decide (q.tag = m.rtag)) = some q → q.who = .st c pc → (s.core c).run = .running → (s.core c).fring.faulted = false →
      ∃ u, exec .railErr s = .next u ∧ (u.core c).run = .faulting ∧ (u.core c).fring.faulted = true ∧ (u.core c).g = (s.core c).g) ∧
    (∀ m, Arrived s 9 m → rdEn (s.rdctx m.rdc) = true → s.pkg.reds = [] →
      ∃ u r, exec .railReduce s = .next u ∧ u.mem = s.mem ∧ u.pkg.reds = [r] ∧ r.ctx = m.rdc ∧ r.got = [(m.src, m.addr, m.data)] ∧ r.own = []) ∧
    (∀ typ, s.pkg.inbox.find? (fun x => decide (x.typ = typ)) = none → s.read' typ = s) ∧
    (∀ typ m, Arrived s typ m → let v := s.read' typ
      v.pkg.inbox = s.pkg.inbox.erase m ∧ v.mem = s.mem ∧ v.cores = s.cores ∧ v.pkg.grp = s.pkg.grp ∧ v.pkg.epoch = s.pkg.epoch ∧ v.pkg.rdctx = s.pkg.rdctx ∧ s.outbox <:+ v.outbox) ∧
    (∀ src (k : Fin 8) e srcs, s.pkg.grp.role = 1 → let v := s.read' 10
      let waits : Prop := e = s.pkg.epoch ∧ s.pkg.barXpart.getLsbD k.val = true ∧ s.pkg.xArrived.getLsbD k.val = false
      (¬waits → ∃ u, exec (.railBarrier (.arrival src k e srcs)) s = .next u ∧ Told v u v.treeParent (.arrival k e srcs)) ∧
      (waits → ∃ u, exec (.railBarrier (.arrival src k e srcs)) s = .next u ∧ u.outbox = v.outbox ∧ u.mem = s.mem ∧ u.cores = s.cores ∧
        ∀ p, (k, p) ∈ u.pkg.grp.arrivals ↔ p ∈ srcs ∨ (k, p) ∈ s.pkg.grp.arrivals)) ∧
    (∀ src (k : Fin 8) e srcs, s.pkg.grp.role = 2 → e ≠ s.pkg.epoch ∨ s.hears src = false →
      exec (.railBarrier (.arrival src k e srcs)) s = .next (s.read' 10)) ∧
    (∀ src (k : Fin 8) srcs, Leads s → s.hears src = true → (∃ p ∈ s.slotHolders, (k, p) ∉ s.pkg.grp.arrivals ∧ (p ∉ srcs ∨ s.isWorker p = false)) →
      ∃ u, exec (.railBarrier (.arrival src k s.pkg.epoch srcs)) s = .next u ∧ u.outbox = (s.read' 10).outbox ∧ u.mem = s.mem ∧ u.cores = s.cores ∧
        ∀ p, (k, p) ∈ u.pkg.grp.arrivals ↔ (p ∈ srcs ∧ s.isWorker p = true) ∨ (k, p) ∈ s.pkg.grp.arrivals) ∧
    (∀ (k : Fin 8) e, s.pkg.grp.role = 0 ∨ e ≠ s.pkg.epoch → exec (.railBarrier (.release k e)) s = .next (s.read' 10)) ∧
    (∃ u, exec (.railCtrl (.joined s.pkg.partId true)) s = .next u ∧ u.pkg.railCfg.getLsbD 0 = true ∧ u.mem = s.mem) ∧
    (∀ p, p ≠ s.pkg.partId → (s.read' 11).linkTo p = false →
      ∃ u, exec (.railCtrl (.joined p true)) s = .next u ∧ (∀ m ∈ u.pkg.grp.members, m.part = p → m.verified = true) ∧ u.pkg.railCfg = s.pkg.railCfg) ∧
    (exec (.railCtrl .other) s = .next (s.read' 11)) ∧
    (∀ p m, s.pkg.grp.role = 2 → let v := s.read' 11
      ∃ u, exec (.railCtrl (.plan p m)) s = .next u ∧ u.pkg.grp.planOf p = m ∧ u.pkg.epoch = s.pkg.epoch ∧ (m.ctx = [] → p ≠ s.pkg.partId ∨ (∀ j c n, s.redHolds j c n = false) → u.outbox = v.outbox) ∧
        (m.ctx ≠ [] → p ≠ s.pkg.partId → (.group p (.arm (m.ctx.map (fun e => (e.1, treeContext s.pkg.grp.tree p e.2)))) :: v.outbox) <:+ u.outbox)) ∧
    (∀ (i : Fin 64) w, s.pkg.grp.role ≠ 0 → (∀ j, rdEn (s.rdctx j) = false) → rdEn w = true → serGe (s.sem (coreOfPkg (rdTCore w)) (Fin.ofNat 64 (rdTSem w))) (rdTarget w) = false →
      ∃ u, exec (.railCtrl (.arm [(i, w)])) s = .next u ∧ u.rdctx i = rdMask w ∧ (∀ j, j ≠ i → u.rdctx j = s.rdctx j) ∧ u.mem = s.mem) ∧
    (∀ (i : Fin 64) w, s.pkg.grp.role ≠ 0 → rdEn (s.rdctx i) = true → (∀ j c n, s.redHolds j c n = false) →
      ∃ u, exec (.railCtrl (.arm [(i, w)])) s = .next u ∧ u.rdctx i = s.rdctx i ∧ u.mem = s.mem) ∧
    (∀ n, s.pkg.grp.role ≠ 0 → ∃ u, exec (.railCtrl (.job n)) s = .next u ∧ u.pkg.grp.jobs = n ∧ u.mem = s.mem ∧ ∀ p ∈ s.workers, .group p (.job n) ∈ u.outbox) ∧
    (∀ p g l y, portOf l = p → (s.link l).st = .up → ((s.link l).rekey.head?.or (s.link l).key) = some y → let v := s.read' 11
      ∃ u x, exec (.railCtrl (.keyUpdate p g)) s = .next u ∧ (u.link l).rekey = ⟨x, y.tx + g, y.rx + g⟩ :: (s.link l).rekey ∧
        (u.link l).key = (s.link l).key ∧ (u.link l).next = (s.link l).next ∧ (u.link l).buf = (s.link l).buf ∧ u.outbox = v.outbox)

/-- R387, R389, R391, R395, R398, R399, R402, R409, R521: the states and the times of a link: a car that fails FEC or CRC is discarded and the group begins again, each uncorrectable codeword being counted once, one of a reserved type or generation is counted in BADCAR, in KEYING an IDLE car tells its credits and a car of another type than IDLE and CTRL is discarded, the next one expected is held for its group; a replay resends the buffer and the sixteenth retrains the link with its buffer kept; PAD cars complete a group; training, keying and retraining lead to the next state, a retraining that takes 100 ms to FAILED, and FAILED trains again; a link without keys keeps what it holds to send and waits in KEYING; a request without an answer is lost; isolation raises HEALTH.FATAL. Readings and choices of the model that it rests on: log 3, 99, 100, 103, 104, 182, 183. -/
def Obligations.RailLinks : Prop :=
  ∀ (s : State) (l : Fin 72),
    let k := s.link l
    (∀ fec bs, k.st ≠ .up → k.st ≠ .keying → exec (.carReceive l fec bs) s = .next s) ∧
    (∀ bs : List Byte, k.st = .keying → bs.length = 272 → (Car.ofBytes bs).crc = (Car.ofBytes bs).crcOf →
      let c := Car.ofBytes bs
      (c.ver = 0 → c.typ = 0 → k.buf = [] → ∃ u, exec (.carReceive l ⟨0, false⟩ bs) s = .next u ∧ (∀ n, n ≠ l → u.link n = s.link n) ∧
        u.link l = { k with credit := vset k.credit (vcIx c.cvc c.cdl) (Nat.min (vget creditsFull (vcIx c.cvc c.cdl)) (vget k.credit (vcIx c.cvc c.cdl) + c.ccnt.toNat)) } ∧
        u.outbox = s.outbox ∧ u.mem = s.mem ∧ u.pkg.inbox = s.pkg.inbox) ∧
      (c.ver = 0 → c.typ ≠ 0 → c.typ ≠ 11 → c.typ.toNat < 12 → exec (.carReceive l ⟨0, false⟩ bs) s = .next s) ∧
      (c.ver ≠ 0 ∨ 12 ≤ c.typ.toNat → exec (.carReceive l ⟨0, false⟩ bs) s = .next (s.modLink l (fun k => { k with badCar := satAdd k.badCar 1 })))) ∧
    (∀ bs (f : FecCheck), k.st = .keying → 0 < f.words → exec (.carReceive l f bs) s = .next (s.modLink l (fun k => { k with fecUnc := satAdd k.fecUnc f.words }))) ∧
    (∀ bs (f : FecCheck), k.st = .up → f.bad = true → ∃ u, exec (.carReceive l f bs) s = .next u ∧ (u.link l).fecUnc = (if f.words = 0 then k.fecUnc else satAdd k.fecUnc f.words) ∧
      (u.link l).expect = k.authed ∧ (u.link l).heldRx = [] ∧ (u.link l).naking = true ∧ u.pkg.inbox = s.pkg.inbox ∧ u.mem = s.mem) ∧
    (∀ bs : List Byte, k.st = .up → bs.length = 272 → (Car.ofBytes bs).crc ≠ (Car.ofBytes bs).crcOf → ∃ u, exec (.carReceive l ⟨0, false⟩ bs) s = .next u ∧
      (u.link l).fecUnc = k.fecUnc ∧ (u.link l).expect = k.authed ∧ (u.link l).heldRx = [] ∧ (u.link l).naking = true ∧ u.pkg.inbox = s.pkg.inbox ∧ u.mem = s.mem) ∧
    (∀ bs : List Byte, k.st = .up → bs.length = 272 →
      let c := Car.ofBytes bs
      c.crc = c.crcOf →
        (c.ver ≠ 0 ∨ 12 ≤ c.typ.toNat → exec (.carReceive l ⟨0, false⟩ bs) s = .next (s.modLink l (fun k => { k with badCar := satAdd k.badCar 1 }))) ∧
        (c.ver = 0 → 2 ≤ c.typ.toNat → c.typ.toNat < 12 → c.nak = false → k.txq = [] → c.seq = BitVec.ofNat 11 k.expect → k.heldRx.length < 15 →
          ∃ u, exec (.carReceive l ⟨0, false⟩ bs) s = .next u ∧ (u.link l).expect = k.expect + 1 ∧ (u.link l).heldRx = k.heldRx ++ [c] ∧ (u.link l).authed = k.authed ∧
            u.pkg.inbox = s.pkg.inbox ∧ u.mem = s.mem)) ∧
    (k.st = .up → k.buf ≠ [] →
      (k.tries < 15 → ∃ u, exec (.replayTimeout l) s = .next u ∧ (u.link l).st = .up ∧ (u.link l).tries = k.tries + 1 ∧ (u.link l).replays = satAdd k.replays 1 ∧
        (u.link l).buf = k.buf ∧ s.outbox.length + k.buf.length ≤ u.outbox.length) ∧
      (15 ≤ k.tries → k.retrains = [] → ∃ u, exec (.replayTimeout l) s = .next u ∧ (u.link l).st = .retrain ∧ (u.link l).buf = k.buf ∧ (u.link l).next = k.next ∧
        (u.link l).credit = k.credit)) ∧
    (k.st = .up → k.naking = true → ∃ u, exec (.nakRepeat l) s = .next u ∧ u.outbox.length = s.outbox.length + 1 ∧ (u.link l).expect = k.expect ∧ u.mem = s.mem) ∧
    (k.st = .up → k.next % 16 ≠ 0 → k.txq = [] → k.buf.length + 16 ≤ 1024 → ∃ u, exec (.groupPadTimeout l) s = .next u ∧ (u.link l).next = (k.next / 16 + 1) * 16 ∧
      (u.link l).buf.length = k.buf.length + (16 - k.next % 16) ∧ (u.link l).credit = k.credit) ∧
    (∀ tag, s.pkg.pends = [] → exec (.responseTimeout tag) s = .next s) ∧
    (∀ q c pc, s.pkg.pends.find? (fun x => decide (x.tag = q.tag)) = some q → q.who = .st c pc → (s.core c).run = .running → (s.core c).fring.faulted = false →
      ∃ u, exec (.responseTimeout q.tag) s = .next u ∧ (u.core c).fring.faulted = true ∧ (u.core c).run = .faulting ∧ ∀ r ∈ u.pkg.pends, r.tag ≠ q.tag) ∧
    (∀ r : Training, s.hasLink l = true →
      (k.st = .training → r.ok = true → ∃ u, exec (.linkTrainingComplete l r) s = .next u ∧ (∀ n, n ≠ l → u.link n = s.link n) ∧
        u.link l = { k with st := .keying, slow := k.slow || r.slow || (s.pkg.strapStat.getLsbD 5 || (vget s.pkg.ports (portOf l)).rate) } ∧
        u.outbox = (if (vget s.pkg.ports (portOf l)).session = false ∧ (vget s.pkg.ports (portOf l)).asked = false ∧ s.pkg.partId.toNat < r.peer.toNat
          then .spdmAsk (portOf l) :: s.outbox else s.outbox)) ∧
      (k.st = .training → r.ok = false → k.slow = false → r.slow = false → s.forcedSlow l = false → exec (.linkTrainingComplete l r) s =
        .next (s.modLink l (fun k => { k with slow := true }))) ∧
      (k.st = .training ∨ k.st = .retrain → r.ok = false → (k.slow || r.slow || s.forcedSlow l) = true →
        ∃ u, exec (.linkTrainingComplete l r) s = .next u ∧ (u.link l).st = .failed ∧ (u.link l).key = none) ∧
      (k.st = .retrain → r.ok = false → k.slow = false → r.slow = false → s.forcedSlow l = false → exec (.linkTrainingComplete l r) s =
        .next (s.modLink l (fun k => { k with slow := true }))) ∧
      (k.st = .keying → r.ok = true → (vget s.pkg.ports (portOf l)).session = true →
        let old : Prop := k.peer = r.peer ∧ k.peerLink = r.peerLink
        ∃ u x, exec (.linkTrainingComplete l r) s = .next u ∧ (u.link l).st = .up ∧ (u.link l).peer = r.peer ∧ (u.link l).peerLink = r.peerLink ∧ (u.link l).rekey = [] ∧
          (old → (u.link l).key = some ⟨x, k.ackedTo, k.authed / 16⟩ ∧ (u.link l).expect = k.expect ∧ (k.txq = [] → (u.link l).next = k.next ∧ (u.link l).buf = k.buf)) ∧
          (¬old → (u.link l).key = some ⟨x, 0, 0⟩ ∧ (u.link l).expect = 0 ∧ (k.txq = [] → (u.link l).next = 0 ∧ (u.link l).buf = []))) ∧
      (k.st = .retrain → r.ok = true → k.key.isSome = true → (vget s.pkg.ports (portOf l)).session = true → ∃ u, exec (.linkTrainingComplete l r) s = .next u ∧
        (u.link l).st = .up ∧ (u.link l).expect = k.expect ∧ (u.link l).key = k.key ∧ (u.link l).slow = (k.slow || r.slow || s.forcedSlow l)) ∧
      (k.st = .retrain → r.ok = true → k.key = none ∨ (vget s.pkg.ports (portOf l)).session = false → ∃ u, exec (.linkTrainingComplete l r) s = .next u ∧
        (u.link l).st = .keying ∧ (u.link l).key = none ∧ (u.link l).buf = k.buf ∧ (u.link l).txq = k.txq ∧ (u.link l).next = k.next ∧ (u.link l).credit = k.credit ∧
        (u.link l).expect = k.authed ∧ (u.link l).slow = (k.slow || r.slow || s.forcedSlow l) ∧ u.outbox = s.outbox)) ∧
    (k.st = .retrain → ∃ u, exec (.linkRetrainTimeout l) s = .next u ∧ (u.link l).st = .failed ∧ (u.link l).buf = [] ∧ (u.link l).key = none) ∧
    (s.hasLink l = true → k.st = .failed → ∃ u, exec (.linkRetryTimer l) s = .next u ∧ (u.link l).st = .training ∧ u.mem = s.mem) ∧
    (s.pkg.grp.role ≠ 0 → s.hasLink l = true → (∀ n, s.hasLink n = true → (s.link n).st = .failed) → s.pkg.healthFatal = false →
      ∃ u, exec .railIsolationTimeout s = .next u ∧ u.pkg.healthFatal = true ∧ u.pkg.healthReason = 3 ∧ u.mem = s.mem) ∧
    ((∃ n, s.hasLink n = true ∧ (s.link n).st ≠ .failed) → exec .railIsolationTimeout s = .next s)

namespace Sys2Proof.Claims

/-- The VIN domain after a cold-class reset has begun: the service level is 0, every memory and every core is lost, and no task and no key is left. -/
def Lost (u : State) : Prop :=
  u.pkg.level = 0 ∧ u.mem = Memory.empty ∧ u.ecc = [] ∧ (∀ c, u.core c = Core.reset) ∧ u.pkg.tasks = [] ∧ u.pkg.sec.sessions = [] ∧ u.pkg.aclk = 0

/-- A cold-class cause `b`: its bit is recorded beside the ones recorded before, and LAST names it. -/
def Caused (s u : State) (b : Nat) : Prop := u.pkg.rstCause = s.pkg.rstCause ||| (1 <<< b) ∧ u.pkg.rstLast.toNat = b

/-- The highest step from 4 to 32 whose estimate fits a budget; 4 where none does (R484, R491). -/
def HighestFit (est : Nat → Nat) (budget step : Nat) : Prop :=
  4 ≤ step ∧ step ≤ 32 ∧ (est step ≤ budget ∨ step = 4) ∧ ∀ j, step < j → j ≤ 32 → budget < est j

/-- What the resets from PERST# to warm end: every task, every partition and every core. -/
def Ended (u : State) : Prop := u.pkg.tasks = [] ∧ (∀ n, partEn (u.partMem n) = false) ∧ ∀ c, u.core c = Core.reset

end Sys2Proof.Claims

/-- R478 to R480, R483, R486, R493 to R496, R499: the supplies, the clock and the resets. VAUX alone starts the always-on domain with VAUXPOR as the only cause; the loss of VIN, PWR_OK, REFCLK or COLD_RST_N records its cause and takes the VIN domain to level 0 with its memories, cores, tasks and keys lost; when nothing holds it any more the straps are sampled. A regulator fault does the same without a hold, and PERST# too when a component awaits activation. PERST# without one, and the warm reset, end the tasks and partitions and reset the cores; PERST# keeps the level and the Rail links, and the warm reset returns the level to MGMT; the regions of a task that PERST# ends read zero. The loss of VAUX turns the open-drain outputs off. When the PCIe link goes down every IDE key is dropped (R469, R472), and a locked or running interface enters ERROR, at once where no access of its partition is outstanding and else once none is. Readings and choices of the model that it rests on: log 3, 22, 23, 111 to 114, 119, 160. -/
def Obligations.SuppliesAndResets : Prop :=
  ∀ (s : State),
    let p := s.pkg.pins
    (p.vaux = true → exec .vauxPor s = .next s) ∧
    (p.vaux = false → ∃ u, exec .vauxPor s = .next u ∧ Lost u ∧ u.pkg.pins.vaux = true ∧ u.pkg.rstCause = 1 ∧ u.pkg.rstLast = 0) ∧
    (p.vaux = true → ∃ u, exec .vauxLoss s = .next u ∧ Lost u ∧ u.pkg.pins = { p with vaux := false, sagN := true, thermN := true } ∧ u.pkg.pins.held = true) ∧
    (∀ strap, p.vaux = true → p.coldRst = true → p.held = false →
      ∃ u, exec (.coldReset true strap) s = .next u ∧ Lost u ∧ Caused s u 1 ∧ u.pkg.pins.held = true) ∧
    (∀ strap, p.vaux = true → p.coldRst = false → p.pwrOk = true → ({ p with thermN := p.thermN || s.cool, coldRst := true, strap := strap } : Pins).held = false →
      ∃ u, exec (.coldReset false strap) s = .next u ∧ Caused s u 1 ∧ u.pkg.pins.held = false ∧ u.pkg.strapStat.toNat % 256 = strap.toNat ∧
        u.pkg.pow.cap = capOf strap ∧ u.mem = s.mem) ∧
    (p.vaux = true → p.held = false →
      (∃ u, exec .pwrfail s = .next u ∧ Lost u ∧ Caused s u 2 ∧ u.pkg.pins = { p with pwrOk := false }) ∧
      (∃ u, exec .brownout s = .next u ∧ Lost u ∧ Caused s u 3 ∧ u.pkg.pins = { p with vin := false }) ∧
      (∃ u, exec .clkfail s = .next u ∧ Lost u ∧ Caused s u 4 ∧ u.pkg.pins = { p with refclk := false }) ∧
      (∃ u, exec .regfault s = .next u ∧ Lost u ∧ Caused s u 6 ∧ u.pkg.pins = p ∧ u.pkg.strapStat.toNat % 256 = p.strap.toNat)) ∧
    (p.refclk = false → ({ p with refclk := true } : Pins).held = false →
      ∃ u, exec .refclkReturn s = .next u ∧ u.pkg.pins.held = false ∧ u.pkg.strapStat.toNat % 256 = p.strap.toNat ∧ u.pkg.rstCause = s.pkg.rstCause) ∧
    (∀ strap, p.pwrOk = false → ({ p with pwrOk := true, strap := strap } : Pins).held = false →
      ∃ u, exec (.pwrOkRise strap) s = .next u ∧ u.pkg.pins.held = false ∧ u.pkg.strapStat.toNat % 256 = strap.toNat ∧ u.pkg.rstCause = s.pkg.rstCause) ∧
    (p.vin = false → p.pwrOk = false → ∃ u, exec .brownoutClear s = .next u ∧ u.pkg.pins = { p with vin := true } ∧ u.pkg.pins.held = true ∧ u.pkg.strapStat = s.pkg.strapStat) ∧
    (p.vin = false → ({ p with vin := true } : Pins).held = false →
      ∃ u, exec .brownoutClear s = .next u ∧ u.pkg.pins.held = false ∧ u.pkg.strapStat.toNat % 256 = p.strap.toNat) ∧
    (s.pkg.level ≠ 0 → s.pkg.flash.toList.any (fun c => c.pend) = false →
      (∃ u, exec .perst s = .next u ∧ Caused s u 7 ∧ Ended u ∧ u.pkg.level = s.pkg.level ∧ u.pkg.links = s.pkg.links ∧ u.pkg.pcieUp = false ∧ u.pkg.aclk = s.pkg.aclk ∧
        u.pkg.strapStat = s.pkg.strapStat ∧ u.pkg.pins = { p with perst := false }) ∧
      exec .activate s = exec .perst s) ∧
    (s.pkg.level ≠ 0 → s.pkg.flash.toList.any (fun c => c.pend) = false → s.pkg.loads = [] → s.mem.wf = true → ∃ u, exec .perst s = .next u ∧
      ∀ n k, s.taskOf n = some k → ∀ c ∈ k.cores, ∀ a, clmAddr c ≤ a → a < clmAddr c + (s.core c).regionEnd → u.mem.get a = 0) ∧
    (s.pkg.level ≠ 0 → p.held = false → s.pkg.flash.toList.any (fun c => c.pend) = true →
      ∃ u, exec .activate s = .next u ∧ Lost u ∧ u.pkg.rstCause = s.pkg.rstCause ||| (1 <<< 7) ||| (1 <<< 8) ∧ u.pkg.rstLast = 8 ∧
        u.pkg.flash = s.pkg.flash.map Component.activate ∧ exec .perst s = .next u) ∧
    (s.pkg.level = 0 → exec .perst s = .next (s.modPins (fun p => { p with perst := false }))) ∧
    (∃ u, exec .perstDeassert s = .next u ∧ u.pkg.pins.perst = true ∧ (u.pkg.pcieUp = true ↔ s.pkg.level ≠ 0) ∧ u.mem = s.mem ∧ u.cores = s.cores) ∧
    (∃ u, exec .pcieLinkDown s = .next u ∧ u.pkg.pcieUp = false ∧ u.pkg.pins = p ∧ (∀ f, (u.fn f).ide = .none) ∧
      (∀ n, s.tdi n = .locked ∨ s.tdi n = .run →
        (s.noAccess n = true → u.tdi n = .error ∧ u.pkg.sec.keys.getLsbD n.val = false) ∧
        (s.noAccess n = false → u.tdi n = s.tdi n ∧ u.pkg.sec.dying.getLsbD n.val = true)) ∧
      ((∀ n, s.tdi n ≠ .locked ∧ s.tdi n ≠ .run) → u.mem = s.mem ∧ u.cores = s.cores)) ∧
    (s.fnUp 0 = true → s.pkg.level ≠ 0 →
      ∃ u, exec .warm s = .next u ∧ Caused s u 9 ∧ Ended u ∧ u.pkg.level = 1 ∧ u.pkg.aclk = s.pkg.aclk ∧ u.pkg.strapStat = s.pkg.strapStat ∧ u.pkg.pcieUp = true) ∧
    (s.fnUp 0 = true → s.pkg.level = 0 → exec .warm s = .next s)

/-- R380, R481, R482, R489, R491 to R493, R496 to R498, R517, R518: a sag halves the steps and is counted once, and its end and its hold return them; a control step gives every running core the highest step whose estimated power fits its share and what is lent to it, lowered to every other limit and then halved while a halving is in force, and leaves one that lends its share as it is; a cap outside 55 to 100 is ignored; a die at 105 °C is held at step 8 until 100 °C and one at 110 °C trips the hardware; a die or core reset that is allowed resets what it names and no more, and one that is refused only sets REFUSED; a scrub writes a unit back, an error in the legend tables of a Tier N stack or in the memory of the PKC is fatal, and a window of the correction counters begins each of them anew. Readings and choices of the model that it rests on: log 109, 110, 115 to 118, 149, 171. -/
def Obligations.LimitsAndUnitResets : Prop :=
  ∀ (s : State),
    (∀ mv, s.pkg.pins.vaux = true → s.pkg.pow.sag = false → ∃ u, exec (.sag mv) s = .next u ∧ u.pkg.pow.sag = true ∧ u.pkg.pow.halved = true ∧
      u.pkg.pins.sagN = false ∧ u.pkg.pow.sagCount = satAdd s.pkg.pow.sagCount 1 ∧ u.mem = s.mem ∧
      ∀ c, (u.core c).step = if s.pkg.pow.halved = true ∨ (s.core c).step = 0 then (s.core c).step else Nat.max ((s.core c).step / 2) 4) ∧
    (s.pkg.pow.sag = true → ∃ u, exec .sagClear s = .next u ∧ u.pkg.pow.sag = false ∧ u.pkg.pow.hold = true ∧ u.pkg.pow.halved = s.pkg.pow.halved ∧
      u.pkg.pins.sagN = true ∧ u.cores = s.cores) ∧
    (s.pkg.pow.hold = true → ∃ u, exec .sagHoldExpire s = .next u ∧ u.pkg.pow.halved = false ∧ u.pkg.pow.hold = false ∧ u.cores = s.cores) ∧
    (∀ r : PowerStep, s.pkg.pins.held = false → s.pkg.level ≠ 0 → ∃ u, exec (.powerControlStep r) s = .next u ∧ u.mem = s.mem ∧
      (∀ c : CoreId, s.hasDie c.die = true → (s.core c).pstate ≠ .run ∨ (s.core c).resetting = true → (u.core c).step = (s.core c).step ∧ (u.core c).g = (s.core c).g) ∧
      (∃ x, ∀ c : CoreId, s.hasDie c.die = true →
        let est := Config.corePower x c.pkg
        let share := (s.corePart r c).1
        let lent := (s.corePart r c).2
        Claims.HighestFit est share (u.core c).own ∧
        ((s.core c).pstate = .run → (s.core c).resetting = false → ∃ fit, Claims.HighestFit est (share + lent) fit ∧
          let a := if s.pkg.level = 3 then fit else Nat.min fit 16
          let b := if s.pkg.pow.hot.getLsbD c.die.val = true then Nat.min a 8 else a
          (u.core c).step = (if s.pkg.pow.halved = true then Nat.max (b / 2) 4 else b))) ∧
      ∀ c : CoreId, s.hasDie c.die = true → (s.core c).pstate = .run → (s.core c).resetting = false → 4 ≤ (u.core c).step ∧ (u.core c).step ≤ 32 ∧ (u.core c).g = (s.core c).g) ∧
    (∀ v : Word, s.fnUp 0 = true → ∃ u, exec (.pwrCapWrite v) s = .next u ∧ u.mem = s.mem ∧
      u.pkg.pow.cap.toNat = if 55 ≤ v.toNat % 128 ∧ v.toNat % 128 ≤ 100 then v.toNat % 128 else s.pkg.pow.cap.toNat) ∧
    (∀ (d : Fin 8) (t : BitVec 16), s.hasDie d = true →
      (t.toNat < 440 →
        (∃ u, exec (.hot d t) s = .next u ∧ (u.die d).temp = t ∧ u.mem = s.mem ∧
          (u.pkg.pow.hot.getLsbD d.val = true ↔ 420 ≤ t.toNat ∨ (s.pkg.pow.hot.getLsbD d.val = true ∧ 400 < t.toNat)) ∧
          (420 ≤ t.toNat → ∀ c : CoreId, c.die = d → (u.core c).step = Nat.min (s.core c).step (if s.pkg.pow.halved = true then 4 else 8))) ∧
        (∃ u, exec (.throttle d t) s = .next u ∧ (u.die d).temp = t ∧ u.mem = s.mem ∧
          (u.die d).throttle = (if 400 ≤ t.toNat then Nat.min 16 ((s.die d).throttle + 1) else if t.toNat ≤ 392 then (s.die d).throttle - 1 else (s.die d).throttle) ∧
          (u.pkg.pow.therm.getLsbD d.val = true ↔ (u.die d).throttle ≠ 0))) ∧
      (440 ≤ t.toNat → s.pkg.pins.vaux = true → s.pkg.pins.held = false →
        ∃ u, exec (.thermtrip d t) s = .next u ∧ Claims.Lost u ∧ Claims.Caused s u 5 ∧ u.pkg.pins = { s.pkg.pins with thermN := false })) ∧
    (∀ d : Fin 8, s.hasDie d = true → s.fnUp 0 = true → (s.die d).resetting = false →
      (2 ≤ s.pkg.level.toNat → (∀ n, s.dieOwner d = some n → s.busyPart n = false) → ∃ u, exec (.dieReset d) s = .next u ∧ (u.die d).resetting = true ∧
        (∀ c : CoreId, c.die = d → u.core c = Core.reset ∧ (s.mem.wf = true → ∀ a, clmAddr c ≤ a → a < clmAddr c + clmSize → u.mem.get a = 0)) ∧
        (∀ c : CoreId, c.die ≠ d → u.core c = s.core c) ∧ (∀ e, e ≠ d → u.die e = s.die e) ∧ u.pkg.pins = s.pkg.pins ∧ Claims.Caused s u 10) ∧
      (s.pkg.level.toNat < 2 ∨ (∃ n, s.dieOwner d = some n ∧ s.busyPart n = true) → exec (.dieReset d) s = .next s.rstRefuse)) ∧
    (∀ d : Fin 8, s.hasDie d = true → (s.die d).resetting = true → ∃ u, exec (.dieResetComplete d) s = .next u ∧ (u.die d).resetting = false ∧ u.mem = s.mem ∧
      u.cores = s.cores) ∧
    (∀ c : CoreId, s.hasDie c.die = true → s.fnUp 0 = true → (s.die c.die).resetting = false → s.pkg.rstGo = false →
      (2 ≤ s.pkg.level.toNat → (s.core c).sect.isSome = false → ∃ u, exec (.coreReset c) s = .next u ∧ (u.core c).resetting = true ∧ u.pkg.rstGo = true ∧
        Claims.Caused s u 11 ∧ u.mem = s.mem ∧ ∀ e, e ≠ c → u.core e = s.core e) ∧
      (s.pkg.level.toNat < 2 ∨ (s.core c).sect.isSome = true → exec (.coreReset c) s = .next s.rstRefuse)) ∧
    (∀ c : CoreId, s.hasDie c.die = true → (s.core c).resetting = true → s.mem.wf = true → ∃ u, exec (.coreResetComplete c) s = .next u ∧ u.core c = Core.reset ∧ u.pkg.rstGo = false ∧
      (∀ a, clmAddr c ≤ a → a < clmAddr c + clmSize → u.mem.get a = 0) ∧ (∀ a, (a < clmAddr c ∨ clmAddr c + clmSize ≤ a) → u.mem.get a = s.mem.get a) ∧
      ∀ e, e ≠ c → u.core e = s.core e) ∧
    (∀ a, (s.eccUnit a).isSome = true → (s.ecc.find? (fun m => decide (m.1 = unitOf a))) = none → exec (.scrub a .clean) s = .next s) ∧
    (∀ a, (s.eccUnit a).isSome = true → (s.ecc.find? (fun m => decide (m.1 = unitOf a))) = none →
      ∃ u, exec (.scrub a .corr) s = .next u ∧ u.mem = s.mem ∧ u.cores = s.cores ∧ u.ecc.find? (fun m => decide (m.1 = unitOf a)) = none) ∧
    (∀ a, (s.eccUnit a).isSome = true → (s.ecc.find? (fun m => decide (m.1 = unitOf a))) = none →
      ∃ u, exec (.scrub a .unc) s = .next u ∧ u.mem = s.mem ∧ u.cores = s.cores ∧ u.ecc.find? (fun m => decide (m.1 = unitOf a)) = some (unitOf a, .poison)) ∧
    (∀ a, (s.eccUnit a).isSome = true → (s.ecc.find? (fun m => decide (m.1 = unitOf a))) = none →
      ∃ u, exec (.scrub a .corrAfter) s = .next u ∧ u.mem = s.mem ∧ u.cores = s.cores ∧ u.ecc.find? (fun m => decide (m.1 = unitOf a)) = some (unitOf a, .corr)) ∧
    (∀ a, (s.eccUnit a).isSome = true → (s.ecc.find? (fun m => decide (m.1 = unitOf a))) = none →
      ∃ u, exec (.scrub a .uncAfter) s = .next u ∧ u.mem = s.mem ∧ u.cores = s.cores ∧ u.ecc.find? (fun m => decide (m.1 = unitOf a)) = some (unitOf a, .unc)) ∧
    (∀ a, s.pkg.healthFatal = false →
      (∃ u, exec (.scrub a .pkcMemory) s = .next u ∧ u.pkg.healthFatal = true ∧ u.pkg.healthReason = 2 ∧ u.mem = s.mem ∧ u.ecc = s.ecc ∧ u.cores = s.cores) ∧
      ((∃ x, s.region a = .tierN x) → (s.eccUnit a).isSome = true → ∃ u, exec (.scrub a .legendTables) s = .next u ∧ u.pkg.healthFatal = true ∧ u.mem = s.mem ∧ u.ecc = s.ecc ∧
        u.cores = s.cores ∧ u.pkg.uncTotal = satAdd s.pkg.uncTotal 1)) ∧
    (∃ u, exec .eccRateWindow s = .next u ∧ u.mem = s.mem ∧ u.cores = s.cores ∧ u.pkg.eccCfg = s.pkg.eccNext ∧
      ∀ d e : Fin 8, s.hasDie d = true → (vget (u.die d).ecc e).base = (vget (s.die d).ecc e).corr ∧ (vget (u.die d).ecc e).corr = (vget (s.die d).ecc e).corr)

namespace Sys2Proof.Claims

/-- The first bank of the PKC firmware that passes, the active bank first. -/
abbrev bootBank (s : State) : Option (Bank × Bool) := (s.comp 0).banks.find? (fun b => b.1.ok && s.fwPasses b.1.img)

/-- R455, R457 to R459, R461, R499 to R503: the levels of a boot. Until MGMT a configuration request completes with Request Retry Status. MGMT follows from OFF, with the UDS read once and locked, says whether the certificates match, and takes the firmware of a flash boot, from which the Alias keys are derived, once, before it runs; EARLY needs firmware that passes, a valid record and every Tier N stack, and each failure leaves the level at MGMT and sets its own bit, after which the boot stays there; FULL needs every enabled link settled, and Tier F is there when its strap, its capacity and its training say so; a pushed component is checked, the first idle step ends the check, one that passes runs and clears BOOTFAIL, and one that fails sets it until the ROM waits again. Readings and choices of the model that it rests on: log 3, 120, 121, 191. -/
def Boots : Prop :=
  ∀ (s : State), s.pkg.pins.held = false →
    (∀ f (w : HostWrite), s.pkg.level = 0 → w.isConfig = true → exec (.registerWrite f w) s = .next { s with outbox := s.onStream (.retry f) :: s.outbox }) ∧
    (∀ ok, s.pkg.level = 0 → ∃ u, exec (.mgmt ok) s = .next u ∧ u.pkg.level = 1 ∧ u.pkg.sec.certFail = !ok ∧ u.pkg.sec.udsLock = true ∧ u.pkg.pcieUp = s.pkg.pins.perst ∧
      vget u.pkg.sec.meas 0 = Config.romDigest ∧ (u.pkg.bootSt = 1 ↔ s.pkg.strapStat.getLsbD 2 = true) ∧ u.mem = s.mem ∧
      (s.pkg.sec.udsLock = false → u.pkg.sec.deviceId = Config.hkdf 0 s.pkg.fuses.uds ∧ u.pkg.sec.ownerKey = Config.hkdf 4 s.pkg.fuses.uds) ∧
      (s.pkg.strapStat.getLsbD 2 = true → u.pkg.sec.bootFail = s.pkg.sec.bootFail ∧ vget u.pkg.sec.meas 1 = vget s.pkg.sec.meas 1) ∧
      (s.pkg.strapStat.getLsbD 2 = false → vget s.pkg.sec.meas 1 = zeros 48 →
        (bootBank s = none → u.pkg.sec.bootFail = true) ∧
        (∀ b, bootBank s = some b → u.pkg.sec.bootFail = false ∧ u.pkg.sec.bankB = b.2 ∧
          vget u.pkg.sec.meas 1 = sha384 (compBody b.1.img ++ leBytes 1 (Config.fwSvn b.1.img)) ∧ u.pkg.sec.romUds = none ∧
          (s.pkg.sec.udsLock = false → u.pkg.sec.aliasLocked = Config.hkdf 2 (Config.hkdf 1 (s.pkg.fuses.uds ++ u.fwMeas)))))) ∧
    (∀ ok, s.pkg.level ≠ 0 → exec (.mgmt ok) s = .next s) ∧
    (∀ st, (s.pkg.sec.bootFail = true ∧ s.pkg.strapStat.getLsbD 2 = false) ∨ s.pkg.tnFail = true ∨ s.pkg.cfgFail = true → exec (.early st) s = .next s) ∧
    (∀ st, s.pkg.level = 1 → vget s.pkg.sec.meas 1 = zeros 48 → s.pkg.strapStat.getLsbD 2 = true → exec (.early st) s = .next s) ∧
    (∀ st, s.pkg.level = 1 → s.pkg.tnFail = false → s.pkg.cfgFail = false → s.pkg.sec.bootFail = false ∨ s.pkg.strapStat.getLsbD 2 = true → vget s.pkg.sec.meas 1 ≠ zeros 48 →
      (s.boardRecord = none → ∃ u, exec (.early st) s = .next u ∧ u.pkg.level = 1 ∧ u.pkg.cfgFail = true ∧ u.mem = s.mem) ∧
      (∀ r k, s.boardRecord = some r → st = some k → ∃ u, exec (.early st) s = .next u ∧ u.pkg.level = 1 ∧ u.pkg.tnFail = true ∧ u.pkg.failStack.toNat = k.val) ∧
      (∀ r, s.boardRecord = some r → st = none → ∃ u, exec (.early st) s = .next u ∧ u.pkg.level = 2 ∧
        u.pkg.fuses.svn = Nat.max s.pkg.fuses.svn s.pkg.sec.fwSvn.toNat ∧ vget u.pkg.sec.meas 1 = vget s.pkg.sec.meas 1 ∧
        (∀ l, u.hasLink l = true → (u.link l).st = .training) ∧ u.mem = s.mem)) ∧
    (∀ st, s.pkg.level = 1 → s.pkg.tnFail = false → s.pkg.cfgFail = false → vget s.pkg.sec.meas 1 = zeros 48 → s.pkg.strapStat.getLsbD 2 = false → s.pkg.sec.bootFail = false →
      (bootBank s = none → ∃ u, exec (.early st) s = .next u ∧ u.pkg.level = 1 ∧ u.pkg.sec.bootFail = true ∧ u.mem = s.mem) ∧
      (∀ b, bootBank s = some b →
        (s.boardRecord = none → ∃ u, exec (.early st) s = .next u ∧ u.pkg.level = 1 ∧ u.pkg.cfgFail = true ∧ u.pkg.sec.bootFail = false) ∧
        (∀ r k, s.boardRecord = some r → st = some k → ∃ u, exec (.early st) s = .next u ∧ u.pkg.level = 1 ∧ u.pkg.tnFail = true ∧ u.pkg.failStack.toNat = k.val) ∧
        (∀ r, s.boardRecord = some r → st = none → ∃ u, exec (.early st) s = .next u ∧ u.pkg.level = 2 ∧ u.pkg.sec.bankB = b.2 ∧
          u.pkg.fuses.svn = Nat.max s.pkg.fuses.svn (Config.fwSvn b.1.img) ∧
          vget u.pkg.sec.meas 1 = sha384 (compBody b.1.img ++ leBytes 1 (Config.fwSvn b.1.img)) ∧
          (∀ l, u.hasLink l = true → (u.link l).st = .training) ∧ u.mem = s.mem))) ∧
    (∀ tf, s.pkg.level = 2 →
      (s.linksSettled = false → exec (.full tf) s = .next s) ∧
      (s.linksSettled = true → ∃ u, exec (.full tf) s = .next u ∧ u.pkg.level = 3 ∧ u.mem = s.mem ∧
        (u.pkg.tierF = true ↔ s.pkg.strapStat.getLsbD 6 = true ∧ tf = true ∧ fldN s.pkg.memCfg 5 3 ≠ 0) ∧
        (u.pkg.tfFail = true ↔ s.pkg.tfFail = true ∨ (s.pkg.strapStat.getLsbD 6 = true ∧ ¬(tf = true ∧ fldN s.pkg.memCfg 5 3 ≠ 0))) ∧
        (u.pkg.railUp = true ↔ ∃ l, s.hasLink l = true ∧ (s.link l).st = .up))) ∧
    (∀ len, s.fnUp 0 = true → s.pkg.bootSt = 1 → s.pkg.strapStat.getLsbD 2 = true →
      ∃ u, exec (.bootPushGo len) s = .next u ∧ u.mem = s.mem ∧ u.pkg.sec = s.pkg.sec ∧ u.pkg.bootSt = 2 ∧ u.pkg.bootLen = len) ∧
    (s.pending = [] → s.pkg.bootSt = 2 →
      let good : Bool := decide (s.pkg.bootLen.toNat ≤ 0x1000000) && s.fwPasses (s.pkg.bootWin.read 0 s.pkg.bootLen.toNat)
      ∃ u, step s = .next u ∧ u.pkg.sec.bootFail = !good ∧ u.pkg.bootSt = (if good = true then 0 else 3) ∧ (good = true → u.pkg.sec.bankB = true ∧ u.pkg.sec.romUds = none)) ∧
    (s.pkg.bootSt = 3 → ∃ u, exec .bootFailReturn s = .next u ∧ u.pkg.bootSt = 1 ∧ u.pkg.sec.bootFail = s.pkg.sec.bootFail ∧ u.mem = s.mem)

/-- R452 to R455, R429: the sideband of a part that has VAUX and firmware. A reading answers the sensor's value, with its state against the thresholds of a die sensor, and a sensor that needs VIN is unavailable without it; the effecter sets the cap between 55 and 100; an update writes the inactive bank only and is pending once activated, and an image that does not fit its area in the flash is not written; the addresses are set. The completion codes of PLDM are the model's (PRESUMED). Readings and choices of the model that it rests on: log 128, 129, 130, 193. -/
def Manages : Prop :=
  ∀ (s : State), s.pkg.pins.vaux = true →
    (s.pkg.sec.bootFail = false →
      (∀ v, exec (.pldmGetSensorReading 0x06 v) s = .next { s with outbox := .pldm 0 (leBytes 1 0 ++ leBytes 1 1 ++ leBytes 4 s.pkg.pow.cap.toNat) :: s.outbox }) ∧
      (∀ (d : Fin 8) v, d.val < s.dieCount → exec (.pldmGetSensorReading (BitVec.ofNat 8 (0x10 + d.val)) v) s =
        .next { s with outbox := .pldm 0 (if s.vinOn = true then
          leBytes 1 0 ++ leBytes 1 (if 420 ≤ (s.die d).temp.toNat then 9 else if 400 ≤ (s.die d).temp.toNat then 8 else 1) ++ leBytes 4 (s.die d).temp.toNat
          else leBytes 1 2 ++ zeros 5) :: s.outbox }) ∧
      (∀ v, ∃ u, exec (.pldmSetEffecter v) s = .next u ∧ u.mem = s.mem ∧ u.pkg.pow.cap.toNat = (if 55 ≤ v ∧ v ≤ 100 then v else s.pkg.pow.cap.toNat) ∧
        u.pkg.pow.hot = s.pkg.pow.hot) ∧
      (∃ bs, exec .pldmGetFruRecord s = .next { s with outbox := .pldm 0 bs :: s.outbox } ∧ bs.take 7 = nameBytes "Azverel" ∧
        (bs.drop 7).take 7 = nameBytes (s.product) ∧ (s.pkg.fuses.serial.length = 16 → (bs.drop 14).take 16 = s.pkg.fuses.serial))) ∧
    (∀ (i : Fin 3) img, s.updatable i = false ∨ areaBytes i < img.length → exec (.pldmUpdateComponent i img) s = .next { s with outbox := .pldm 1 [] :: s.outbox }) ∧
    (∀ (i : Fin 3) img, s.updatable i = true → img.length ≤ areaBytes i →
      let ok := if i = 0 then s.fwPasses img else s.compSigned img
      ∃ u, exec (.pldmUpdateComponent i img) s = .next u ∧ u.mem = s.mem ∧ (u.comp i).useB = (s.comp i).useB ∧ (u.comp i).verified = ok ∧ (u.comp i).pend = false ∧
        ((s.comp i).useB = false → (u.comp i).a = (s.comp i).a ∧ (u.comp i).b = ⟨img, ok⟩) ∧
        ((s.comp i).useB = true → (u.comp i).b = (s.comp i).b ∧ (u.comp i).a = ⟨img, ok⟩) ∧ ∀ j, j ≠ i → u.comp j = s.comp j) ∧
    (s.pkg.flash.toList.any (fun c => c.verified) = true → ∃ u, exec .pldmActivateFirmware s = .next u ∧ u.mem = s.mem ∧
      ∀ i, (u.comp i).pend = ((s.comp i).pend || (s.comp i).verified) ∧ (u.comp i).useB = (s.comp i).useB) ∧
    (s.pkg.flash.toList.any (fun c => c.verified) = false → ∃ u, exec .pldmActivateFirmware s = .next u ∧ u.pkg = s.pkg) ∧
    (∀ e, exec (.setEndpointId e) s = .next { s with pkg := { s.pkg with eid := e } }) ∧
    (∀ a, exec (.entdaa a) s = .next { s with pkg := { s.pkg with i3c := true, dynAddr := a } } ∧
      exec (.setdasa ⟨0x62, a⟩) s = .next { s with pkg := { s.pkg with i3c := true, dynAddr := a } } ∧ (∀ b, b ≠ 0x62 → exec (.setdasa ⟨b, a⟩) s = .next s) ∧
      ({ s.pkg with i3c := true, dynAddr := a } : Pkg).mctpAddr = a ∧ ({ s.pkg with i3c := false, dynAddr := 0 } : Pkg).mctpAddr = 0x62) ∧
    exec .rstdaa s = .next { s with pkg := { s.pkg with i3c := false, dynAddr := 0 } }

end Sys2Proof.Claims

/-- What a boot and the management sideband do: `Boots` and `Manages`. -/
def Obligations.BootAndManagement : Prop := Boots ∧ Manages

namespace Sys2Proof.Claims

/-- An answer to a requester, whatever its data, and nothing else changed. -/
def Answers (s u : State) (r : Requester) (ok : Bool) : Prop := ∃ data, u = { s with outbox := .spdm r ok data :: s.outbox }

/-- R461, R463 to R465, R468, R469, R471, R475: what the SPDM responder and the owner and debug requests do. A measurement is answered to whoever may see it, and a VF sees no PM_n but its own; a request outside its conditions is refused and changes nothing; the first owner is taken once, and each later owner request needs the nonce that the part issued and both signatures of the owner's keys; an owner record whose HMAC fails is absent; a debug token that is good, in the session of its nonce, aborts every task, and once they have ended unlocks debug, destroys the memory keys, the link keys and the IDE keys and erases the locked Alias keys. A Rail port's new session takes the keys of its links and leaves what they hold to send; a request of the end with the higher part ID is refused. Readings and choices of the model that it rests on: log 122 to 126, 160, 183, 190. -/
def Requests : Prop :=
  ∀ (s : State) (r : Requester), s.spdmUp r = true →
    (∀ (i : Byte) nonce, 1 ≤ i.toNat → i.toNat ≤ 7 → ∃ data, exec (.getMeasurements r i nonce) s = .next { s with outbox := .spdm r true data :: s.outbox } ∧
      data.take (s.measurement i.toNat).length = s.measurement i.toNat) ∧
    (∀ (n : Fin 8) nonce,
      (reqSees r n = true → ∃ data, exec (.getMeasurements r (BitVec.ofNat 8 (0x10 + n.val)) nonce) s = .next { s with outbox := .spdm r true data :: s.outbox } ∧
        data.take (vget s.pkg.sec.pm n).length = vget s.pkg.sec.pm n) ∧
      (reqSees r n = false → exec (.getMeasurements r (BitVec.ofNat 8 (0x10 + n.val)) nonce) s = .next { s with outbox := .spdm r false [] :: s.outbox })) ∧
    (∀ slot : Fin 8, ∃ u, exec (.getCertificate r slot) s = .next u ∧ Answers s u r (decide (slot.val ≤ 1))) ∧
    (∀ nonce, ∃ u, exec (.challenge r nonce) s = .next u ∧ Answers s u r true) ∧
    (∀ peer root serial dbg p, r = .rail p → s.pkg.partId.toNat < peer.toNat → (vget s.pkg.ports p).asked = false →
      exec (.keyExchange r peer ⟨root, serial⟩ dbg) s = .next { s with outbox := .spdm r false [] :: s.outbox }) ∧
    (∀ peer root serial dbg p, r = .rail p → peer.toNat ≤ s.pkg.partId.toNat ∨ (vget s.pkg.ports p).asked = true →
      ∃ u, exec (.keyExchange r peer ⟨root, serial⟩ dbg) s = .next u ∧ u.mem = s.mem ∧
      (vget u.pkg.ports p).session = (root && !dbg && (s.pkg.sec.debug).isNone) ∧ (vget u.pkg.ports p).asked = false ∧
      (root = true → serial = true → dbg = false → s.pkg.sec.debug = none → ∀ m ∈ u.pkg.grp.members, m.part = peer → m.verified = true) ∧
      (serial = false → u.pkg.grp = s.pkg.grp) ∧
      ∀ l, portOf l = p → (s.link l).st = .up ∨ (s.link l).st = .retrain → (u.link l).st = (if (s.link l).st = .up then .keying else .retrain) ∧ (u.link l).key = none ∧
        (u.link l).buf = (s.link l).buf ∧ (u.link l).txq = (s.link l).txq ∧ (u.link l).next = (s.link l).next ∧ (u.link l).credit = (s.link l).credit ∧
        (u.link l).expect = (s.link l).authed) ∧
    (∀ peer root serial dbg, (∀ p, r ≠ .rail p) → ∃ u, exec (.keyExchange r peer ⟨root, serial⟩ dbg) s = .next u ∧ u.mem = s.mem ∧ r ∈ u.pkg.sec.sessions ∧
      ∀ q, q ∈ s.pkg.sec.sessions → q ∈ u.pkg.sec.sessions) ∧
    (∀ ec ml, let may : Bool := s.vendorOk r && s.owner.isNone && s.pkg.tasks.isEmpty
      ∃ u, exec (.setOwner r ec ml) s = .next u ∧ u.mem = s.mem ∧
        u.pkg.sec.owner = (if may = true then some ⟨ec, ml, false, s.ownerMac ⟨ec, ml, false, []⟩⟩ else s.pkg.sec.owner) ∧
        (may = true → u.owner = u.pkg.sec.owner)) ∧
    (∀ o : Owner, s.pkg.sec.owner = some o → o.mac ≠ s.ownerMac o → s.owner = none ∧ s.measurement 7 = zeros 48) ∧
    (∀ (a : OwnerAuth) ec ml only,
      (s.vendorOk r = false ∨ s.pkg.sec.nonce ≠ some a.nonce →
        exec (.changeOwner r ec ml a) s = .next { s with outbox := .spdm r false [] :: s.outbox } ∧
        exec (.setPolicy r only a) s = .next { s with outbox := .spdm r false [] :: s.outbox } ∧
        exec (.clearOwner r a) s = .next { s with outbox := .spdm r false [] :: s.outbox }) ∧
      (∀ o : Owner, s.vendorOk r = true → s.pkg.sec.nonce = some a.nonce → s.owner = some o → s.pkg.tasks = [] →
        let signed (kind : Nat) (args : List Byte) : Bool :=
          let m := Config.signedRequest kind (args ++ s.pkg.fuses.serial ++ a.nonce)
          Config.ecVerify o.ec m a.ecsig && Config.mlVerify o.ml m a.mlsig
        (∃ u, exec (.changeOwner r ec ml a) s = .next u ∧ u.pkg.sec.nonce = none ∧ u.mem = s.mem ∧
          u.pkg.sec.owner = if signed 0 (ec ++ ml) = true then some ⟨ec, ml, o.only, s.ownerMac ⟨ec, ml, o.only, []⟩⟩ else some o) ∧
        (∃ u, exec (.setPolicy r only a) s = .next u ∧ u.pkg.sec.nonce = none ∧ u.mem = s.mem ∧
          u.pkg.sec.owner = if signed 1 (leBytes 1 only.toNat) = true then some ⟨o.ec, o.ml, only, s.ownerMac ⟨o.ec, o.ml, only, []⟩⟩ else some o) ∧
        (∃ u, exec (.clearOwner r a) s = .next u ∧ u.pkg.sec.nonce = none ∧ u.mem = s.mem ∧ u.pkg.sec.owner = if signed 2 [] = true then none else some o))) ∧
    (s.vendorOk r = true → ∃ u n, exec (.getDebugNonce r) s = .next u ∧ u.pkg.sec.nonce = some n ∧ u.pkg.sec.nonceFor = some r ∧ n.length = 32 ∧ u.mem = s.mem) ∧
    (s.vendorOk r = false → exec (.getDebugNonce r) s = .next { s with outbox := .spdm r false [] :: s.outbox }) ∧
    (∀ t : DbgToken,
      (s.vendorOk r = true → s.tokenOk t = true → s.pkg.sec.nonceFor = some r → ∃ u, exec (.unlockDebug r t) s = .next u ∧ u.pkg.sec.nonce = none ∧
        (∀ n k, s.taskOf n = some k → s.taskHalted k = false → ∀ c ∈ k.cores, (s.core c).run = .running → (u.core c).run = .faulting) ∧
        (s.pkg.tasks = [] → s.pkg.loads = [] → u.pkg.sec.debug = some t.scope ∧ u.pkg.sec.keys = 0 ∧ u.pkg.sec.aliasLocked = [] ∧ u.aliasKey = s.pkg.sec.aliasDebug ∧
          (∀ l, (u.link l).st ≠ .up) ∧ (∀ p, (vget u.pkg.ports p).session = false) ∧ (∀ f, (u.fn f).ide = .none)) ∧
        (s.pkg.tasks ≠ [] ∨ s.pkg.loads ≠ [] → u.pkg.sec.unlock = some (r, t.scope) ∧ u.pkg.sec.debug = s.pkg.sec.debug)) ∧
      (s.vendorOk r = false ∨ s.tokenOk t = false ∨ s.pkg.sec.nonceFor ≠ some r → exec (.unlockDebug r t) s = .next { s with outbox := .spdm r false [] :: s.outbox })) ∧
    (∀ scope, s.pkg.sec.unlock = some (r, scope) → s.pkg.tasks = [] → s.pkg.loads = [] →
      s.settleSec.pkg.sec.debug = some scope ∧ s.settleSec.pkg.sec.unlock = none ∧ s.settleSec.pkg.sec.keys = 0)

/-- An address lies in the Tier N or the Tier F range of a PARTn_MEM (R371). -/
abbrev InTiers (w : Word) (a : Nat) : Prop :=
  (gib * fldN w 0 10 ≤ a ∧ a < gib * fldN w 10 10) ∨ (tierFBase + gib * fldN w 20 12 ≤ a ∧ a < tierFBase + gib * fldN w 32 12)

/-- R371, R469 to R474: the interfaces of the VFs, their keys, the partitions and the debug port. An interface locks only unlocked, over a secure IDE stream, with debug locked and no task; it starts only locked; a stop aborts its task and, once that has ended, renews its partition and unlocks it. A partition is written only from EARLY on, without a task, unguarded and apart from every other enabled one; one that is enabled then reads zero and has keys of its own, and one that stays enabled keeps its keys and every line that stays in its ranges. Where an access of the partition is outstanding, the ERROR state and the answer to a K_SET_STOP wait with the destruction of its keys (R469, R470). Readings and choices of the model that it rests on: log 119, 127, 159, 160. -/
def Interfaces : Prop :=
  ∀ (s : State) (n : Fin 8),
    let f := vfFn n
    (s.fnUp f = true →
      (∀ nonce,
        let may : Bool := decide (s.tdi n = .unlocked ∧ (s.fn f).ide = .secure) && (s.pkg.sec.debug).isNone && !s.busyPart n && !s.pkg.sec.dying.getLsbD n.val
        (may = true → ∃ u x, exec (.lockInterface n nonce) s = .next u ∧ u.tdi n = .locked ∧ vget u.pkg.sec.pm n = sha384 (vget s.pkg.sec.pm n ++ x) ∧ x.length = 64 ∧ u.mem = s.mem) ∧
        (may = false → exec (.lockInterface n nonce) s = .next { s with outbox := .spdm (.doe f) false [] :: s.outbox })) ∧
      (s.pkg.sec.dying.getLsbD n.val = true →
        exec (.startInterfaceRequest n) s = .next { s with outbox := .spdm (.doe f) false [] :: s.outbox } ∧
        exec (.getDeviceInterfaceReport n) s = .next { s with outbox := .spdm (.doe f) false [] :: s.outbox }) ∧
      (s.tdi n = .locked → s.pkg.sec.dying.getLsbD n.val = false →
        (∃ u, exec (.startInterfaceRequest n) s = .next u ∧ u.tdi n = .run ∧ u.mem = s.mem ∧ u.pkg.sec.keys = s.pkg.sec.keys) ∧
        (∃ u, exec (.getDeviceInterfaceReport n) s = .next u ∧ Answers s u (.doe f) true)) ∧
      (s.tdi n = .unlocked →
        exec (.startInterfaceRequest n) s = .next { s with outbox := .spdm (.doe f) false [] :: s.outbox } ∧
        exec (.getDeviceInterfaceReport n) s = .next { s with outbox := .spdm (.doe f) false [] :: s.outbox }) ∧
      (∃ u, exec (.stopInterfaceRequest n) s = .next u ∧
        (∀ k, s.taskOf n = some k → s.taskHalted k = false → ∀ c ∈ k.cores, (s.core c).run = .running → (u.core c).run = .faulting) ∧
        (s.busyPart n = true → s.pkg.sec.dying.getLsbD n.val = false → u.tdi n = s.tdi n ∧ u.pkg.sec.stopping.getLsbD n.val = true) ∧
        (s.busyPart n = false → u.tdi n = .unlocked ∧ u.pkg.sec.stopping.getLsbD n.val = false ∧
          (partEn (s.partMem n) = true → s.mem.wf = true → s.pkg.sec.unlock = none → (∀ m : Fin 8, m ≠ n → s.pkg.sec.stopping.getLsbD m.val = false) →
            ∀ a, gib * fldN (s.partMem n) 0 10 ≤ a → a < gib * fldN (s.partMem n) 10 10 → u.mem.get a = 0)))) ∧
    (s.pkg.sec.stopping.getLsbD n.val = true → s.busyPart n = false → s.settleSec.tdi n = .unlocked) ∧
    (s.pkg.sec.dying.getLsbD n.val = true → s.noAccess n = true → s.pkg.sec.stopping.getLsbD n.val = false →
      s.settleSec.tdi n = .error ∧ s.settleSec.pkg.sec.keys.getLsbD n.val = false ∧ (f ∈ s.pkg.sec.kstops → .spdm (.doe f) true [] ∈ s.settleSec.outbox)) ∧
    (∀ g : Fin 9, s.fnUp g = true →
      (Requester.doe g ∈ s.pkg.sec.sessions →
        (∃ u, exec (.keyProg g) s = .next u ∧ (u.fn g).ide = (if (s.fn g).ide = .none then .keyed else (s.fn g).ide) ∧ u.mem = s.mem ∧ u.cores = s.cores) ∧
        (∃ u, exec (.kSetStop g) s = .next u ∧ (u.fn g).ide = .none ∧
          (g = 0 → u.outbox = .spdm (.doe g) true [] :: s.outbox ∧ u.mem = s.mem) ∧
          (g = f → s.tdi n = .locked ∨ s.tdi n = .run →
            (s.noAccess n = true → u.tdi n = .error ∧ u.pkg.sec.keys.getLsbD n.val = false ∧ .spdm (.doe g) true [] ∈ u.outbox) ∧
            (s.noAccess n = false → u.tdi n = s.tdi n ∧ u.pkg.sec.dying.getLsbD n.val = true ∧ u.pkg.sec.kstops = s.pkg.sec.kstops ++ [g] ∧ u.outbox = s.outbox)))) ∧
      (Requester.doe g ∉ s.pkg.sec.sessions →
        exec (.keyProg g) s = .next { s with outbox := .spdm (.doe g) false [] :: s.outbox } ∧
        exec (.kSetStop g) s = .next { s with outbox := .spdm (.doe g) false [] :: s.outbox })) ∧
    (∀ w : Word,
      (s.pkg.level.toNat < 2 ∨ s.partMay n (BitVec.setWidth 64 (fld w 0 53)) = false → exec (.partitionCreate n w) s = .next s) ∧
      (2 ≤ s.pkg.level.toNat → s.partMay n (BitVec.setWidth 64 (fld w 0 53)) = true → w.getLsbD 52 = true → partEn (s.partMem n) = true → s.pkg.sec.keys.getLsbD n.val = true →
        ∃ u, exec (.partitionCreate n w) s = .next u ∧ (u.partMem n).toNat = w.toNat % 2 ^ 53 ∧ u.pkg.sec = s.pkg.sec ∧ u.cores = s.cores ∧
          (s.mem.wf = true → ∀ a, (InTiers (s.partMem n) a ↔ InTiers w a) → u.mem.get a = s.mem.get a) ∧
          ∀ m, m ≠ n → u.partMem m = s.partMem m) ∧
      (2 ≤ s.pkg.level.toNat → s.partMay n (BitVec.setWidth 64 (fld w 0 53)) = true → w.getLsbD 52 = true →
        ¬(partEn (s.partMem n) = true ∧ s.pkg.sec.keys.getLsbD n.val = true) → s.mem.wf = true →
        ∃ u, exec (.partitionCreate n w) s = .next u ∧ (u.partMem n).toNat = w.toNat % 2 ^ 53 ∧ u.pkg.sec.keys.getLsbD n.val = true ∧ vget u.pkg.sec.pm n = zeros 48 ∧
          (∀ a, gib * (w.toNat % 2 ^ 10) ≤ a → a < gib * (w.toNat / 2 ^ 10 % 2 ^ 10) → u.mem.get a = 0) ∧ u.cores = s.cores ∧ ∀ m, m ≠ n → u.partMem m = s.partMem m) ∧
      (2 ≤ s.pkg.level.toNat → s.partMay n (BitVec.setWidth 64 (fld w 0 53)) = true → w.getLsbD 52 = false →
        ∃ u, exec (.partitionCreate n w) s = .next u ∧ partEn (u.partMem n) = false ∧ u.pkg.sec.keys.getLsbD n.val = false ∧ u.cores = s.cores)) ∧
    (s.pkg.pins.vaux = true →
      exec (.debugPortAccess .ident) s = .next { s with outbox := .debug true :: s.outbox } ∧
      exec (.debugPortAccess .regs) s = .next { s with outbox := .debug ((s.pkg.sec.debug).isSome) :: s.outbox } ∧
      exec (.debugPortAccess .memory) s = .next { s with outbox := .debug (decide (s.pkg.sec.debug = some 1)) :: s.outbox }) ∧
    (s.pkg.pins.vaux = false → ∀ a, exec (.debugPortAccess a) s = .next s)

end Sys2Proof.Claims

/-- What the security engine does: `Requests` and `Interfaces`. -/
def Obligations.Security : Prop := Requests ∧ Interfaces

namespace Sys2Proof.Claims

/-- No transfer waits for a translation or for room among the non-posted requests. -/
abbrev NoneWait (s : State) : Prop := ∀ c n, ∀ t ∈ (s.slot c n).out, t.ats = false

end Sys2Proof.Claims

/-- A step takes the command at the front of the queue and runs it on the state with the queue's rest; with an empty queue a cycle of ACLK passes, which ACLK_TIME counts while VAUX stands and CYCLE counts in the running cores, transfers that waited for room on the host link are sent, and the security firmware and the boot ROM finish what nothing holds up any more (R9, R27, R434, R470, R472, R475, R484, R503). That the queue is served so is the block's own rule (DESIGN CHOICE). Readings and choices of the model that it rests on: log 1. -/
def Obligations.StepRunsFront : Prop :=
  ∀ s : State,
    (∀ i rest, s.pending = i :: rest → step s = exec i { s with pending := rest }) ∧
    (s.pending = [] → ∃ u, step s = .next u ∧ u.pkg.aclk = (if s.pkg.pins.vaux = true then s.pkg.aclk + 1 else s.pkg.aclk) ∧ u.pending = [] ∧ s.outbox <:+ u.outbox ∧
      (NoneWait s → u.dies = s.dies ∧ (∀ c, (u.core c).pc = (s.core c).pc ∧ (u.core c).g = (s.core c).g ∧ (u.core c).run = (s.core c).run ∧
        (u.core c).cycleQ = if s.pkg.pins.vaux = true ∧ 2 ≤ s.pkg.level.toNat ∧ (s.core c).pstate = .run ∧ (s.core c).resetting = false then (s.core c).cycleQ + 5 * (s.core c).step
          else (s.core c).cycleQ) ∧
        (s.pkg.sec.dying = 0 → s.pkg.sec.stopping = 0 → s.pkg.sec.unlock = none → s.pkg.sec.kstops = [] → s.pkg.bootSt ≠ 2 →
          u.mem = s.mem ∧ u.pkg.sec = s.pkg.sec ∧ ((∀ l, (s.link l).st ≠ .up ∧ (s.link l).st ≠ .keying) → u.outbox = s.outbox))))

namespace Sys2Proof.Claims

/-- Memory and the boot window are in their canonical form. -/
def MemoryForm (s : State) : Prop := s.mem.wf = true ∧ s.pkg.bootWin.wf = true

end Sys2Proof.Claims

/-- What reset leaves: no command waits, SERVICE_LEVEL reads 0, VAUXPOR is the only cause, the counters, semaphores, queues, pools and dispatch counters are at the values that their register tables give, ROUTE_CSR, WAIT_CFG, ECC_CFG and RAIL_CFG hold theirs, no partition is enabled, debug is locked, no Rail link runs, and memory is in its canonical form. Readings and choices of the model that it rests on: log 12 to 16. -/
def Obligations.ResetState : Prop :=
  let s := State.reset
  s.pending = [] ∧ MemoryForm s ∧ s.pkg.level = 0 ∧ s.pkg.rstCause = 1 ∧ s.pkg.rstLast = 0 ∧ s.pkg.aclk = 0 ∧ s.pkg.numVfs = 0 ∧ s.pkg.tasks = [] ∧
  s.pkg.eccCfg = 0x80100 ∧ s.pkg.epoch = 0 ∧ s.pkg.sec.debug = none ∧ s.pkg.sec.keys = 0 ∧ s.pkg.healthFatal = false ∧
  s.pkg.railCfg = BitVec.ofNat 64 (0x30D40 * 2 ^ 1 + 0xC8 * 2 ^ 24) ∧ s.pkg.sec.udsLock = false ∧ s.pkg.bootSt = 0 ∧
  (∀ n, partEn (s.partMem n) = false ∧ s.tdi n = .unlocked) ∧ (∀ l, (s.link l).st = .disabled) ∧
  (∀ c : CoreId, (s.core c).run = .idle ∧ (s.core c).step = 0 ∧ (s.core c).sems = Vector.replicate 64 0 ∧ (s.core c).badPost = 0 ∧ (s.core c).cycleQ = 0 ∧
    (s.core c).queues = Vector.replicate 8 HwQueue.reset ∧ (s.core c).pools = Vector.replicate 4 none ∧ (s.core c).routeCsr = routeCsrReset ∧
    (s.core c).waitCfg = 0x100640007A120 ∧ (s.core c).fring = FRing.reset) ∧
  (∀ d k, s.dsp d k = Dispatch.reset) ∧ (∀ f, s.fn f = HostFn.reset)

/-- Every step keeps the canonical form of memory and of the boot window: addresses rise strictly, and no listed byte equals what an unlisted address reads as. -/
def Obligations.MemoryFormKept : Prop := ∀ s u : State, MemoryForm s → step s = .next u → MemoryForm u

namespace Sys2Proof.Claims

/-- An instruction as its words alone give it: the words of `ld` do not hold the answer of the host that the command brings. -/
def wordsOnly (i : Instr) : Instr :=
  match i with
  | .ld c p l _ _ => .ld c p l .failed 0
  | i => i

end Sys2Proof.Claims

/-- R335, R336, R356: the words of an instruction whose fields hold no reserved value decode to it, whatever word follows a form that has no extension word; and a word that decodes is the word of the instruction that it decodes to, with the word after it as extension exactly where NEXT is 1, and that instruction holds no reserved value. -/
def Obligations.DecodeEncode : Prop :=
  (∀ i : Instr, i.encOk = true → ∀ w x, i.words = some (w, x) →
    ∃ c, ∀ after, (x.isSome = true → after = x) → decodeG1 c w after = some (wordsOnly i)) ∧
  (∀ (c : CoreId) (w : Word) (after : Option Word) (i : Instr), decodeG1 c w after = some i →
    i.words = some (w, if nextOf w = 1 then after else none) ∧ i.encOk = true)

/-- R335, R337, R356: words written out from the encoding tables of the instruction reference decode to the instructions that the reference names, and reserved ones to none: a class without a table, an opcode without a row, NEXT = 3, an unused field that is not 0. -/
def Obligations.EncodingWords : Prop :=
  ∀ (c : CoreId) (after : Option Word),
    decodeG1 c 0x12C3380000000000 (some 0x0000090025400000) = some (.li c 0 ⟨true, 7, 0, 0, false, 0⟩ (some 0x0000090025400000)) ∧
    decodeG1 c 0x4051642994B654AA after = some (.arrMm c 2 ⟨1, 0, true, true, 4, 5, 6, 10, 11, 12, true, 20, true, 21, false⟩) ∧
    decodeG1 c 0x70C0282000010100 after = some (.semTake c 0 ⟨5, false, 0, true, 0, 1, 0, 1, 0⟩) ∧
    decodeG1 c 0x0000000000000000 after = some (.nop c 0 ⟨false, 0, 0, 0, false, 0⟩) ∧
    decodeG1 c 0x9000000000000000 after = none ∧ decodeG1 c 0x0FC0000000000000 after = none ∧
    decodeG1 c 0x0006000000000000 after = none ∧ decodeG1 c 0x0000000000000001 after = none
end

