-- ==== Sys2Proof/Laws/Codec.lean ====
section
/-! SUPPORT. Packing and unpacking fields. -/

namespace Sys2Proof

/-- Unpacking by the same widths gives the values, each cut to its width. -/
theorem unpack_pack : ∀ (l : List (Nat × Nat)) (r : Nat), unpack (l.map Prod.snd) (pack l + 2 ^ ((l.map Prod.snd).sum) * r) = l.map (fun f => f.1 % 2 ^ f.2)
  | [], _ => rfl
  | (v, k) :: l, r => by
    have e : pack ((v, k) :: l) + 2 ^ ((((v, k) :: l).map Prod.snd).sum) * r = v % 2 ^ k + 2 ^ k * (pack l + 2 ^ ((l.map Prod.snd).sum) * r) := by
      simp only [pack, List.map_cons, List.sum_cons, pow_add]; ring
    have hk : 0 < 2 ^ k := Nat.pos_of_ne_zero (by simp)
    simp only [List.map_cons, unpack] at e ⊢
    rw [e]
    congr 1
    · rw [Nat.add_mul_mod_self_left, Nat.mod_mod]
    · rw [Nat.add_mul_div_left _ _ hk, Nat.div_eq_of_lt (Nat.mod_lt _ hk), Nat.zero_add]
      exact unpack_pack l r

/-- A packed list is below two to the sum of its widths. -/
theorem pack_lt : ∀ l : List (Nat × Nat), pack l < 2 ^ ((l.map Prod.snd).sum)
  | [] => by simp [pack]
  | (v, k) :: l => by
    have h := pack_lt l
    have hk : v % 2 ^ k < 2 ^ k := Nat.mod_lt _ (Nat.pos_of_ne_zero (by simp))
    simp only [pack, List.map_cons, List.sum_cons, pow_add]
    have : 2 ^ k * pack l + 2 ^ k ≤ 2 ^ k * 2 ^ ((l.map Prod.snd).sum) := by
      have : pack l + 1 ≤ 2 ^ ((l.map Prod.snd).sum) := h
      calc 2 ^ k * pack l + 2 ^ k = 2 ^ k * (pack l + 1) := by ring
        _ ≤ _ := Nat.mul_le_mul_left _ this
    omega

/-- Packing a concatenation: the second list stands above the first. -/
theorem pack_append : ∀ l r : List (Nat × Nat), pack (l ++ r) = pack l + 2 ^ ((l.map Prod.snd).sum) * pack r
  | [], r => by simp [pack]
  | (v, k) :: l, r => by
    simp only [List.cons_append, pack, pack_append l r, List.map_cons, List.sum_cons, pow_add]; ring

end Sys2Proof
end

