-- ==== Sys2Proof/Laws/Dispatch.lean ====
section
/-! SUPPORT. One equation for each arm of the dispatch: `exec` of a constructor is its meaning. -/

namespace Sys2Proof.Machine

theorem exec_nop {c p l} {s} : exec (.nop c p l) s = execNop c p l s := rfl
theorem exec_jmp {c p l} {s} : exec (.jmp c p l) s = execJmp c p l s := rfl
theorem exec_call {c p l} {s} : exec (.call c p l) s = execCall c p l s := rfl
theorem exec_ret {c p l} {s} : exec (.ret c p l) s = execRet c p l s := rfl
theorem exec_loop {c p l} {s} : exec (.loop c p l) s = execLoop c p l s := rfl
theorem exec_halt {c p l} {s} : exec (.halt c p l) s = execHalt c p l s := rfl
theorem exec_trap {c p l} {s} : exec (.trap c p l) s = execTrap c p l s := rfl
theorem exec_fenceKSem {c p l} {s} : exec (.fenceKSem c p l) s = execFenceKSem c p l s := rfl
theorem exec_fenceKDrain {c p l} {s} : exec (.fenceKDrain c p l) s = execFenceKDrain c p l s := rfl
theorem exec_br {c p cc l} {s} : exec (.br c p cc l) s = execBr c p cc l s := rfl
theorem exec_add {c p l} {s} : exec (.add c p l) s = execAdd c p l s := rfl
theorem exec_sub {c p l} {s} : exec (.sub c p l) s = execSub c p l s := rfl
theorem exec_mul {c p l} {s} : exec (.mul c p l) s = execMul c p l s := rfl
theorem exec_and {c p l} {s} : exec (.and c p l) s = execAnd c p l s := rfl
theorem exec_or {c p l} {s} : exec (.or c p l) s = execOr c p l s := rfl
theorem exec_xor {c p l} {s} : exec (.xor c p l) s = execXor c p l s := rfl
theorem exec_shl {c p l} {s} : exec (.shl c p l) s = execShl c p l s := rfl
theorem exec_shr {c p l} {s} : exec (.shr c p l) s = execShr c p l s := rfl
theorem exec_sar {c p l} {s} : exec (.sar c p l) s = execSar c p l s := rfl
theorem exec_min {c p l} {s} : exec (.min c p l) s = execMin c p l s := rfl
theorem exec_max {c p l} {s} : exec (.max c p l) s = execMax c p l s := rfl
theorem exec_li {c p l x} {s} : exec (.li c p l x) s = execLi c p l x s := rfl
theorem exec_sel {c p l} {s} : exec (.sel c p l) s = execSel c p l s := rfl
theorem exec_cmp {c p cc l} {s} : exec (.cmp c p cc l) s = execCmp c p cc l s := rfl
theorem exec_ld {c p l h v} {s} : exec (.ld c p l h v) s = execLd c p l h v s := rfl
theorem exec_st {c p l} {s} : exec (.st c p l) s = execSt c p l s := rfl
theorem exec_csrRd {c p l} {s} : exec (.csrRd c p l) s = execCsrRd c p l s := rfl
theorem exec_csrWr {c p l} {s} : exec (.csrWr c p l) s = execCsrWr c p l s := rfl
theorem exec_lgSet {c p l} {s} : exec (.lgSet c p l) s = execLgSet c p l s := rfl
theorem exec_lgMod {c p l} {s} : exec (.lgMod c p l) s = execLgMod c p l s := rfl
theorem exec_lgView {c p l} {s} : exec (.lgView c p l) s = execLgView c p l s := rfl
theorem exec_strLoad {c p l x} {s} : exec (.strLoad c p l x) s = execStrLoad c p l x s := rfl
theorem exec_strStore {c p l x} {s} : exec (.strStore c p l x) s = execStrStore c p l x s := rfl
theorem exec_strGather {c p l x} {s} : exec (.strGather c p l x) s = execStrGather c p l x s := rfl
theorem exec_strMcast {c p l x} {s} : exec (.strMcast c p l x) s = execStrMcast c p l x s := rfl
theorem exec_strRate {c p l} {s} : exec (.strRate c p l) s = execStrRate c p l s := rfl
theorem exec_strResume {c p l} {s} : exec (.strResume c p l) s = execStrResume c p l s := rfl
theorem exec_strAbort {c p l} {s} : exec (.strAbort c p l) s = execStrAbort c p l s := rfl
theorem exec_arrCfg {c p l} {s} : exec (.arrCfg c p l) s = execArrCfg c p l s := rfl
theorem exec_arrMm {c p l} {s} : exec (.arrMm c p l) s = execArrMm c p l s := rfl
theorem exec_arrDrainPlain {c p l} {s} : exec (.arrDrainPlain c p l) s = execArrDrainPlain c p l s := rfl
theorem exec_arrDrainExw {c p l} {s} : exec (.arrDrainExw c p l) s = execArrDrainExw c p l s := rfl
theorem exec_arrDrainExwAdd {c p l} {s} : exec (.arrDrainExwAdd c p l) s = execArrDrainExwAdd c p l s := rfl
theorem exec_arrSave {c p l} {s} : exec (.arrSave c p l) s = execArrSave c p l s := rfl
theorem exec_arrLoad {c p l} {s} : exec (.arrLoad c p l) s = execArrLoad c p l s := rfl
theorem exec_jctRoute {c p l} {s} : exec (.jctRoute c p l) s = execJctRoute c p l s := rfl
theorem exec_jctSpmm {c p l d} {s} : exec (.jctSpmm c p l d) s = execJctSpmm c p l d s := rfl
theorem exec_jctSpdot {c p l d} {s} : exec (.jctSpdot c p l d) s = execJctSpdot c p l d s := rfl
theorem exec_jctBag {c p l d} {s} : exec (.jctBag c p l d) s = execJctBag c p l d s := rfl
theorem exec_jctDrain {c p l} {s} : exec (.jctDrain c p l) s = execJctDrain c p l s := rfl
theorem exec_vAdd {c p l} {s} : exec (.vAdd c p l) s = execVAdd c p l s := rfl
theorem exec_vMul {c p l} {s} : exec (.vMul c p l) s = execVMul c p l s := rfl
theorem exec_vFma {c p l} {s} : exec (.vFma c p l) s = execVFma c p l s := rfl
theorem exec_vMax {c p l} {s} : exec (.vMax c p l) s = execVMax c p l s := rfl
theorem exec_vExp {c p l} {s} : exec (.vExp c p l) s = execVExp c p l s := rfl
theorem exec_vRsqrt {c p l} {s} : exec (.vRsqrt c p l) s = execVRsqrt c p l s := rfl
theorem exec_vCvt {c p l} {s} : exec (.vCvt c p l) s = execVCvt c p l s := rfl
theorem exec_vReduce {c p l} {s} : exec (.vReduce c p l) s = execVReduce c p l s := rfl
theorem exec_vNorm2 {c p l} {s} : exec (.vNorm2 c p l) s = execVNorm2 c p l s := rfl
theorem exec_vLd {c p l} {s} : exec (.vLd c p l) s = execVLd c p l s := rfl
theorem exec_vSt {c p l} {s} : exec (.vSt c p l) s = execVSt c p l s := rfl
theorem exec_semAdd {c p l} {s} : exec (.semAdd c p l) s = execSemAdd c p l s := rfl
theorem exec_semSub {c p l} {s} : exec (.semSub c p l) s = execSemSub c p l s := rfl
theorem exec_semWait {c p l} {s} : exec (.semWait c p l) s = execSemWait c p l s := rfl
theorem exec_semTake {c p l} {s} : exec (.semTake c p l) s = execSemTake c p l s := rfl
theorem exec_semRead {c p l} {s} : exec (.semRead c p l) s = execSemRead c p l s := rfl
theorem exec_barArrive {c p l} {s} : exec (.barArrive c p l) s = execBarArrive c p l s := rfl
theorem exec_barWait {c p l} {s} : exec (.barWait c p l) s = execBarWait c p l s := rfl
theorem exec_dspTake {c p l} {s} : exec (.dspTake c p l) s = execDspTake c p l s := rfl
theorem exec_dspSetLimit {c p l} {s} : exec (.dspSetLimit c p l) s = execDspSetLimit c p l s := rfl
theorem exec_dspSetNext {c p l} {s} : exec (.dspSetNext c p l) s = execDspSetNext c p l s := rfl
theorem exec_dspSetRetire {c p l} {s} : exec (.dspSetRetire c p l) s = execDspSetRetire c p l s := rfl
theorem exec_qPush {c p l} {s} : exec (.qPush c p l) s = execQPush c p l s := rfl
theorem exec_qPop {c p l} {s} : exec (.qPop c p l) s = execQPop c p l s := rfl
theorem exec_sktPass {c p l} {s} : exec (.sktPass c p l) s = execSktPass c p l s := rfl
theorem exec_sktSelect {c p l} {s} : exec (.sktSelect c p l) s = execSktSelect c p l s := rfl
theorem exec_sktAudit {c p l} {s} : exec (.sktAudit c p l) s = execSktAudit c p l s := rfl
theorem exec_queueRoomIssue {c} {s} : exec (.queueRoomIssue c) s = execQueueRoomIssue c s := rfl
theorem exec_pendingResultArrive {c r} {s} : exec (.pendingResultArrive c r) s = execPendingResultArrive c r s := rfl
theorem exec_engineCommandBegin {c u} {s} : exec (.engineCommandBegin c u) s = execEngineCommandBegin c u s := rfl
theorem exec_fenceOpen {c e} {s} : exec (.fenceOpen c e) s = execFenceOpen c e s := rfl
theorem exec_arrFreePost {c a} {s} : exec (.arrFreePost c a) s = execArrFreePost c a s := rfl
theorem exec_arrBankSwitch {c a} {s} : exec (.arrBankSwitch c a) s = execArrBankSwitch c a s := rfl
theorem exec_exwChunkAddComplete {c e} {s} : exec (.exwChunkAddComplete c e) s = execExwChunkAddComplete c e s := rfl
theorem exec_arrDrainComplete {c a} {s} : exec (.arrDrainComplete c a) s = execArrDrainComplete c a s := rfl
theorem exec_arrSaveComplete {c a} {s} : exec (.arrSaveComplete c a) s = execArrSaveComplete c a s := rfl
theorem exec_strictViolationFault {c e} {s} : exec (.strictViolationFault c e) s = execStrictViolationFault c e s := rfl
theorem exec_metaErr {c e} {s} : exec (.metaErr c e) s = execMetaErr c e s := rfl
theorem exec_jctRouteComplete {c} {s} : exec (.jctRouteComplete c) s = execJctRouteComplete c s := rfl
theorem exec_jctTileEnd {c} {s} : exec (.jctTileEnd c) s = execJctTileEnd c s := rfl
theorem exec_jctDrainComplete {c} {s} : exec (.jctDrainComplete c) s = execJctDrainComplete c s := rfl
theorem exec_sktPassComplete {c a} {s} : exec (.sktPassComplete c a) s = execSktPassComplete c a s := rfl
theorem exec_sktSelectComplete {c} {s} : exec (.sktSelectComplete c) s = execSktSelectComplete c s := rfl
theorem exec_sktAuditComplete {c} {s} : exec (.sktAuditComplete c) s = execSktAuditComplete c s := rfl
theorem exec_vecComplete {c} {s} : exec (.vecComplete c) s = execVecComplete c s := rfl
theorem exec_coreHaltReport {c} {s} : exec (.coreHaltReport c) s = execCoreHaltReport c s := rfl
theorem exec_haltComplete {c} {s} : exec (.haltComplete c) s = execHaltComplete c s := rfl
theorem exec_taskEnd {n} {s} : exec (.taskEnd n) s = execTaskEnd n s := rfl
theorem exec_transferIssue {c n} {s} : exec (.transferIssue c n) s = execTransferIssue c n s := rfl
theorem exec_transferDeliver {c n t data h} {s} : exec (.transferDeliver c n t data h) s = execTransferDeliver c n t data h s := rfl
theorem exec_mergeCloseTimeout {c n} {s} : exec (.mergeCloseTimeout c n) s = execMergeCloseTimeout c n s := rfl
theorem exec_slotPagingSave {c n} {s} : exec (.slotPagingSave c n) s = execSlotPagingSave c n s := rfl
theorem exec_pageRequestSend {c n} {s} : exec (.pageRequestSend c n) s = execPageRequestSend c n s := rfl
theorem exec_prgResponse {f prg ok} {s} : exec (.prgResponse f prg ok) s = execPrgResponse f prg ok s := rfl
theorem exec_streamStop {c n} {s} : exec (.streamStop c n) s = execStreamStop c n s := rfl
theorem exec_atsTranslationComplete {f addr size rd wr} {s} : exec (.atsTranslationComplete f addr size rd wr) s = execAtsTranslationComplete f addr size rd wr s := rfl
theorem exec_atsInvalidate {f addr size tag} {s} : exec (.atsInvalidate f addr size tag) s = execAtsInvalidate f addr size tag s := rfl
theorem exec_poolRelease {a t v} {s} : exec (.poolRelease a t v) s = execPoolRelease a t v s := rfl
theorem exec_queuePushPortWrite {a c q full v} {s} : exec (.queuePushPortWrite a c q full v) s = execQueuePushPortWrite a c q full v s := rfl
theorem exec_sempostAdd {a c n full amt} {s} : exec (.sempostAdd a c n full amt) s = execSempostAdd a c n full amt s := rfl
theorem exec_sempostSub {a c n full amt} {s} : exec (.sempostSub a c n full amt) s = execSempostSub a c n full amt s := rfl
theorem exec_waitTimeout {c} {s} : exec (.waitTimeout c) s = execWaitTimeout c s := rfl
theorem exec_stall {c} {s} : exec (.stall c) s = execStall c s := rfl
theorem exec_coreGate {c} {s} : exec (.coreGate c) s = execCoreGate c s := rfl
theorem exec_coreWake {c} {s} : exec (.coreWake c) s = execCoreWake c s := rfl
theorem exec_coreCollapse {c} {s} : exec (.coreCollapse c) s = execCoreCollapse c s := rfl
theorem exec_coreUncollapse {c} {s} : exec (.coreUncollapse c) s = execCoreUncollapse c s := rfl
theorem exec_dspCtlHostWrite {f d k v} {s} : exec (.dspCtlHostWrite f d k v) s = execDspCtlHostWrite f d k v s := rfl
theorem exec_sqTailDoorbell {f v} {s} : exec (.sqTailDoorbell f v) s = execSqTailDoorbell f v s := rfl
theorem exec_cqHeadDoorbell {f v} {s} : exec (.cqHeadDoorbell f v) s = execCqHeadDoorbell f v s := rfl
theorem exec_ringCfgWrite {f v} {s} : exec (.ringCfgWrite f v) s = execRingCfgWrite f v s := rfl
theorem exec_cqIrqWrite {f v} {s} : exec (.cqIrqWrite f v) s = execCqIrqWrite f v s := rfl
theorem exec_submissionFetch {f e} {s} : exec (.submissionFetch f e) s = execSubmissionFetch f e s := rfl
theorem exec_load {f cid} {s} : exec (.load f cid) s = execLoad f cid s := rfl
theorem exec_abort {f cid} {s} : exec (.abort f cid) s = execAbort f cid s := rfl
theorem exec_setRole {f cid} {s} : exec (.setRole f cid) s = execSetRole f cid s := rfl
theorem exec_addMember {f cid} {s} : exec (.addMember f cid) s = execAddMember f cid s := rfl
theorem exec_submitJob {f cid} {s} : exec (.submitJob f cid) s = execSubmitJob f cid s := rfl
theorem exec_completionWrite {f} {s} : exec (.completionWrite f) s = execCompletionWrite f s := rfl
theorem exec_cqInterruptTimeout {f} {s} : exec (.cqInterruptTimeout f) s = execCqInterruptTimeout f s := rfl
theorem exec_msixUnmask {f v} {s} : exec (.msixUnmask f v) s = execMsixUnmask f v s := rfl
theorem exec_hostBar2Write {f off data ep} {s} : exec (.hostBar2Write f off data ep) s = execHostBar2Write f off data ep s := rfl
theorem exec_hostBar2Read {f off len} {s} : exec (.hostBar2Read f off len) s = execHostBar2Read f off len s := rfl
theorem exec_registerWrite {f w} {s} : exec (.registerWrite f w) s = execRegisterWrite f w s := rfl
theorem exec_flrVf {n} {s} : exec (.flrVf n) s = execFlrVf n s := rfl
theorem exec_flrPf {s} : exec (.flrPf) s = execFlrPf s := rfl
theorem exec_workListReceive {w} {s} : exec (.workListReceive w) s = execWorkListReceive w s := rfl
theorem exec_mailboxWrite {f d second v} {s} : exec (.mailboxWrite f d second v) s = execMailboxWrite f d second v s := rfl
theorem exec_grpDoneWrite {f d v} {s} : exec (.grpDoneWrite f d v) s = execGrpDoneWrite f d v s := rfl
theorem exec_completionAccept {src epoch slot step} {s} : exec (.completionAccept src epoch slot step) s = execCompletionAccept src epoch slot step s := rfl
theorem exec_heartbeatTimer {s} : exec (.heartbeatTimer) s = execHeartbeatTimer s := rfl
theorem exec_heartbeatReceive {src epoch fault} {s} : exec (.heartbeatReceive src epoch fault) s = execHeartbeatReceive src epoch fault s := rfl
theorem exec_heartbeatCheck {s} : exec (.heartbeatCheck) s = execHeartbeatCheck s := rfl
theorem exec_epochReceive {m} {s} : exec (.epochReceive m) s = execEpochReceive m s := rfl
theorem exec_epochAckReceive {src epoch} {s} : exec (.epochAckReceive src epoch) s = execEpochAckReceive src epoch s := rfl
theorem exec_epochAckTimeout {s} : exec (.epochAckTimeout) s = execEpochAckTimeout s := rfl
theorem exec_surveyTimer {s} : exec (.surveyTimer) s = execSurveyTimer s := rfl
theorem exec_surveyRequestReceive {src num epoch} {s} : exec (.surveyRequestReceive src num epoch) s = execSurveyRequestReceive src num epoch s := rfl
theorem exec_surveyReplyReceive {src num epoch lo hi count} {s} : exec (.surveyReplyReceive src num epoch lo hi count) s = execSurveyReplyReceive src num epoch lo hi count s := rfl
theorem exec_surveyChildTimeout {s} : exec (.surveyChildTimeout) s = execSurveyChildTimeout s := rfl
theorem exec_surveyDigestTimeout {s} : exec (.surveyDigestTimeout) s = execSurveyDigestTimeout s := rfl
theorem exec_carReceive {l fec car} {s} : exec (.carReceive l fec car) s = execCarReceive l fec car s := rfl
theorem exec_railWrite {s} : exec (.railWrite) s = execRailWrite s := rfl
theorem exec_railRead {s} : exec (.railRead) s = execRailRead s := rfl
theorem exec_railMcwrite {s} : exec (.railMcwrite) s = execRailMcwrite s := rfl
theorem exec_railReadResp {s} : exec (.railReadResp) s = execRailReadResp s := rfl
theorem exec_railWriteAck {s} : exec (.railWriteAck) s = execRailWriteAck s := rfl
theorem exec_railErr {s} : exec (.railErr) s = execRailErr s := rfl
theorem exec_railReduce {s} : exec (.railReduce) s = execRailReduce s := rfl
theorem exec_railBarrier {m} {s} : exec (.railBarrier m) s = execRailBarrier m s := rfl
theorem exec_railCtrl {m} {s} : exec (.railCtrl m) s = execRailCtrl m s := rfl
theorem exec_replayTimeout {l} {s} : exec (.replayTimeout l) s = execReplayTimeout l s := rfl
theorem exec_nakRepeat {l} {s} : exec (.nakRepeat l) s = execNakRepeat l s := rfl
theorem exec_groupPadTimeout {l} {s} : exec (.groupPadTimeout l) s = execGroupPadTimeout l s := rfl
theorem exec_messageCloseTimeout {c n} {s} : exec (.messageCloseTimeout c n) s = execMessageCloseTimeout c n s := rfl
theorem exec_responseTimeout {tag} {s} : exec (.responseTimeout tag) s = execResponseTimeout tag s := rfl
theorem exec_linkTrainingComplete {l r} {s} : exec (.linkTrainingComplete l r) s = execLinkTrainingComplete l r s := rfl
theorem exec_linkRetrainTimeout {l} {s} : exec (.linkRetrainTimeout l) s = execLinkRetrainTimeout l s := rfl
theorem exec_linkRetryTimer {l} {s} : exec (.linkRetryTimer l) s = execLinkRetryTimer l s := rfl
theorem exec_railIsolationTimeout {s} : exec (.railIsolationTimeout) s = execRailIsolationTimeout s := rfl
theorem exec_scrub {a e} {s} : exec (.scrub a e) s = execScrub a e s := rfl
theorem exec_eccRateWindow {s} : exec (.eccRateWindow) s = execEccRateWindow s := rfl
theorem exec_vauxPor {s} : exec (.vauxPor) s = execVauxPor s := rfl
theorem exec_coldReset {low strap} {s} : exec (.coldReset low strap) s = execColdReset low strap s := rfl
theorem exec_pwrfail {s} : exec (.pwrfail) s = execPwrfail s := rfl
theorem exec_brownout {s} : exec (.brownout) s = execBrownout s := rfl
theorem exec_sag {mv} {s} : exec (.sag mv) s = execSag mv s := rfl
theorem exec_sagClear {s} : exec (.sagClear) s = execSagClear s := rfl
theorem exec_sagHoldExpire {s} : exec (.sagHoldExpire) s = execSagHoldExpire s := rfl
theorem exec_clkfail {s} : exec (.clkfail) s = execClkfail s := rfl
theorem exec_refclkReturn {s} : exec (.refclkReturn) s = execRefclkReturn s := rfl
theorem exec_throttle {d temp} {s} : exec (.throttle d temp) s = execThrottle d temp s := rfl
theorem exec_hot {d temp} {s} : exec (.hot d temp) s = execHot d temp s := rfl
theorem exec_thermtrip {d temp} {s} : exec (.thermtrip d temp) s = execThermtrip d temp s := rfl
theorem exec_regfault {s} : exec (.regfault) s = execRegfault s := rfl
theorem exec_perst {s} : exec (.perst) s = execPerst s := rfl
theorem exec_activate {s} : exec (.activate) s = execActivate s := rfl
theorem exec_warm {s} : exec (.warm) s = execWarm s := rfl
theorem exec_dieReset {d} {s} : exec (.dieReset d) s = execDieReset d s := rfl
theorem exec_coreReset {c} {s} : exec (.coreReset c) s = execCoreReset c s := rfl
theorem exec_powerControlStep {r} {s} : exec (.powerControlStep r) s = execPowerControlStep r s := rfl
theorem exec_pwrCapWrite {v} {s} : exec (.pwrCapWrite v) s = execPwrCapWrite v s := rfl
theorem exec_mgmt {certOk} {s} : exec (.mgmt certOk) s = execMgmt certOk s := rfl
theorem exec_early {stack} {s} : exec (.early stack) s = execEarly stack s := rfl
theorem exec_full {tf} {s} : exec (.full tf) s = execFull tf s := rfl
theorem exec_bootPushGo {len} {s} : exec (.bootPushGo len) s = execBootPushGo len s := rfl
theorem exec_bootFailReturn {s} : exec (.bootFailReturn) s = execBootFailReturn s := rfl
theorem exec_getMeasurements {r idx nonce} {s} : exec (.getMeasurements r idx nonce) s = execGetMeasurements r idx nonce s := rfl
theorem exec_getCertificate {r slot} {s} : exec (.getCertificate r slot) s = execGetCertificate r slot s := rfl
theorem exec_challenge {r nonce} {s} : exec (.challenge r nonce) s = execChallenge r nonce s := rfl
theorem exec_keyExchange {r peer rootOk debug} {s} : exec (.keyExchange r peer rootOk debug) s = execKeyExchange r peer rootOk debug s := rfl
theorem exec_setOwner {r ec ml} {s} : exec (.setOwner r ec ml) s = execSetOwner r ec ml s := rfl
theorem exec_changeOwner {r ec ml a} {s} : exec (.changeOwner r ec ml a) s = execChangeOwner r ec ml a s := rfl
theorem exec_setPolicy {r only a} {s} : exec (.setPolicy r only a) s = execSetPolicy r only a s := rfl
theorem exec_clearOwner {r a} {s} : exec (.clearOwner r a) s = execClearOwner r a s := rfl
theorem exec_getDebugNonce {r} {s} : exec (.getDebugNonce r) s = execGetDebugNonce r s := rfl
theorem exec_unlockDebug {r t} {s} : exec (.unlockDebug r t) s = execUnlockDebug r t s := rfl
theorem exec_lockInterface {n nonce} {s} : exec (.lockInterface n nonce) s = execLockInterface n nonce s := rfl
theorem exec_getDeviceInterfaceReport {n} {s} : exec (.getDeviceInterfaceReport n) s = execGetDeviceInterfaceReport n s := rfl
theorem exec_startInterfaceRequest {n} {s} : exec (.startInterfaceRequest n) s = execStartInterfaceRequest n s := rfl
theorem exec_stopInterfaceRequest {n} {s} : exec (.stopInterfaceRequest n) s = execStopInterfaceRequest n s := rfl
theorem exec_keyProg {f} {s} : exec (.keyProg f) s = execKeyProg f s := rfl
theorem exec_kSetStop {f} {s} : exec (.kSetStop f) s = execKSetStop f s := rfl
theorem exec_partitionCreate {n w} {s} : exec (.partitionCreate n w) s = execPartitionCreate n w s := rfl
theorem exec_pldmGetSensorReading {id v} {s} : exec (.pldmGetSensorReading id v) s = execPldmGetSensorReading id v s := rfl
theorem exec_pldmSetEffecter {v} {s} : exec (.pldmSetEffecter v) s = execPldmSetEffecter v s := rfl
theorem exec_pldmGetFruRecord {s} : exec (.pldmGetFruRecord) s = execPldmGetFruRecord s := rfl
theorem exec_pldmUpdateComponent {id img} {s} : exec (.pldmUpdateComponent id img) s = execPldmUpdateComponent id img s := rfl
theorem exec_pldmActivateFirmware {s} : exec (.pldmActivateFirmware) s = execPldmActivateFirmware s := rfl
theorem exec_setEndpointId {eid} {s} : exec (.setEndpointId eid) s = execSetEndpointId eid s := rfl
theorem exec_entdaa {addr} {s} : exec (.entdaa addr) s = execEntdaa addr s := rfl
theorem exec_setdasa {addr} {s} : exec (.setdasa addr) s = execSetdasa addr s := rfl
theorem exec_rstdaa {s} : exec (.rstdaa) s = execRstdaa s := rfl
theorem exec_vauxLoss {s} : exec (.vauxLoss) s = execVauxLoss s := rfl
theorem exec_pwrOkRise {strap} {s} : exec (.pwrOkRise strap) s = execPwrOkRise strap s := rfl
theorem exec_brownoutClear {s} : exec (.brownoutClear) s = execBrownoutClear s := rfl
theorem exec_perstDeassert {s} : exec (.perstDeassert) s = execPerstDeassert s := rfl
theorem exec_pcieLinkDown {s} : exec (.pcieLinkDown) s = execPcieLinkDown s := rfl
theorem exec_dieResetComplete {d} {s} : exec (.dieResetComplete d) s = execDieResetComplete d s := rfl
theorem exec_coreResetComplete {c} {s} : exec (.coreResetComplete c) s = execCoreResetComplete c s := rfl
theorem exec_joinTimeout {part} {s} : exec (.joinTimeout part) s = execJoinTimeout part s := rfl
theorem exec_delayedEpochRaise {s} : exec (.delayedEpochRaise) s = execDelayedEpochRaise s := rfl
theorem exec_debugPortAccess {a} {s} : exec (.debugPortAccess a) s = execDebugPortAccess a s := rfl
theorem exec_jctFreePost {c} {s} : exec (.jctFreePost c) s = execJctFreePost c s := rfl

end Sys2Proof.Machine
end

