-- ==== Sys2Proof/Laws/Memory.lean ====
section
/-! SUPPORT. Memory: read after write, and every operation keeps the canonical form. -/

namespace Sys2Proof.Machine

/-! ### One byte -/

theorem cellsWf_mono {lo lo' : Nat} (h : lo ≤ lo') : ∀ {l : List Host.Cell}, cellsWf lo' l = true → cellsWf lo l = true
  | [], _ => rfl
  | (k, v) :: r, w => by
    simp only [cellsWf, Bool.and_eq_true, decide_eq_true_eq] at w ⊢
    exact ⟨⟨by omega, w.1.2⟩, w.2⟩

theorem cellGet_below {a : Nat} : ∀ {l : List Host.Cell} {lo : Nat}, cellsWf lo l = true → a < lo → cellGet l a = Memory.unlisted
  | [], _, _, _ => rfl
  | (k, v) :: r, lo, w, h => by
    simp only [cellsWf, Bool.and_eq_true, decide_eq_true_eq] at w
    have : k ≠ a := by omega
    have h2 : a < k := by omega
    simp [cellGet, this, h2]

theorem cellsWf_set {a : Nat} {b : Byte} : ∀ {l : List Host.Cell} {lo : Nat}, cellsWf lo l = true → lo ≤ a → cellsWf lo (cellSet l a b) = true
  | [], lo, _, h => by
    unfold cellSet; split
    · rfl
    · rename_i hb; simp [cellsWf, h, hb]
  | (k, v) :: r, lo, w, h => by
    have w0 := w
    simp only [cellsWf, Bool.and_eq_true, decide_eq_true_eq] at w
    unfold cellSet
    split
    · rename_i hk
      split
      · exact w0
      · rename_i hb
        simp only [cellsWf, Bool.and_eq_true, decide_eq_true_eq]
        exact ⟨⟨h, hb⟩, ⟨by omega, w.1.2⟩, w.2⟩
    · split
      · rename_i hk; subst hk
        split
        · exact cellsWf_mono (by omega) w.2
        · rename_i hb
          simp only [cellsWf, Bool.and_eq_true, decide_eq_true_eq]
          exact ⟨⟨h, hb⟩, w.2⟩
      · simp only [cellsWf, Bool.and_eq_true, decide_eq_true_eq]
        exact ⟨w.1, cellsWf_set w.2 (by omega)⟩

theorem cellGet_set {a x : Nat} {b : Byte} : ∀ {l : List Host.Cell} {lo : Nat}, cellsWf lo l = true →
    cellGet (cellSet l a b) x = if x = a then b else cellGet l x
  | [], lo, _ => by
    unfold cellSet
    split
    · rename_i hb; split <;> simp_all [cellGet]
    · rename_i hb
      by_cases hx : x = a
      · simp [cellGet, hx]
      · have : a ≠ x := fun e => hx e.symm
        simp [cellGet, hx, this]
  | (k, v) :: r, lo, w => by
    simp only [cellsWf, Bool.and_eq_true, decide_eq_true_eq] at w
    unfold cellSet
    split
    · rename_i hk
      split
      · rename_i hb
        by_cases hx : x = a
        · subst hx
          have : k ≠ x := by omega
          simp [cellGet, this, hk, hb]
        · simp [hx]
      · by_cases hx : x = a
        · simp [cellGet, hx]
        · have h1 : a ≠ x := fun e => hx e.symm
          simp only [hx, if_false]
          unfold cellGet
          rw [if_neg h1]
          split
          · rename_i h2
            have h3 : k ≠ x := by omega
            have h4 : x < k := by omega
            simp [h3, h4]
          · rfl
    · rename_i hk
      split
      · rename_i hka; subst hka
        split
        · rename_i hb
          by_cases hx : x = k
          · subst hx; simp [cellGet_below w.2 (Nat.lt_succ_self x), hb]
          · have h1 : k ≠ x := fun e => hx e.symm
            simp only [hx, if_false]
            conv => rhs; unfold cellGet
            rw [if_neg h1]
            split
            · exact cellGet_below w.2 (by omega)
            · rfl
        · by_cases hx : x = k
          · simp [cellGet, hx]
          · have h1 : k ≠ x := fun e => hx e.symm
            simp [cellGet, hx, h1]
      · rename_i hka
        unfold cellGet
        split
        · rename_i h1; subst h1; simp [hka]
        · split
          · rename_i h2
            have : x ≠ a := by omega
            simp [this]
          · exact cellGet_set w.2

@[simp] theorem Memory.wf_empty : Memory.empty.wf = true := rfl

/-- A write of one byte keeps the canonical form. -/
@[simp] theorem Memory.wf_set {m : Memory} (h : m.wf = true) (a : Nat) (b : Byte) : (m.set a b).wf = true :=
  cellsWf_set h (Nat.zero_le a)

/-- What a byte reads as after a write of one byte. -/
theorem Memory.get_set {m : Memory} (h : m.wf = true) (a x : Nat) (b : Byte) : (m.set a b).get x = if x = a then b else m.get x :=
  cellGet_set h

/-! ### Byte strings, bit fields, ranges -/

/-- A write of a byte string keeps the canonical form. -/
theorem Memory.wf_write : ∀ (bs : List Byte) {m : Memory} (a : Nat), m.wf = true → (m.write a bs).wf = true
  | [], _, _, h => h
  | b :: bs, _, a, h => Memory.wf_write bs (a + 1) (Memory.wf_set h a b)

/-- What a byte reads as after a write of a byte string. -/
theorem Memory.get_write : ∀ (bs : List Byte) {m : Memory} (a x : Nat), m.wf = true →
    (m.write a bs).get x = if a ≤ x ∧ x < a + bs.length then bs.getD (x - a) 0 else m.get x
  | [], m, a, x, h => by
    have : ¬(a ≤ x ∧ x < a + ([] : List Byte).length) := by simp
    rw [if_neg this]; rfl
  | b :: bs, m, a, x, h => by
    show ((m.set a b).write (a + 1) bs).get x = _
    rw [Memory.get_write bs (a + 1) x (Memory.wf_set h a b), Memory.get_set h]
    by_cases h1 : x = a
    · subst h1
      have e1 : ¬(x + 1 ≤ x ∧ x < x + 1 + bs.length) := by omega
      have e2 : x ≤ x ∧ x < x + (b :: bs).length := by simp
      rw [if_neg e1, if_pos e2]; simp
    · by_cases h2 : a + 1 ≤ x ∧ x < a + 1 + bs.length
      · have e2 : a ≤ x ∧ x < a + (b :: bs).length := by simp; omega
        rw [if_pos h2, if_pos e2]
        obtain ⟨n, rfl⟩ : ∃ n, x = a + 1 + n := ⟨x - (a + 1), by omega⟩
        have e3 : a + 1 + n - (a + 1) = n := by omega
        have e4 : a + 1 + n - a = n + 1 := by omega
        rw [e3, e4]; simp
      · have e2 : ¬(a ≤ x ∧ x < a + (b :: bs).length) := by simp; omega
        rw [if_neg h2, if_neg e2, if_neg h1]

/-- A byte outside a written string reads as before. -/
theorem Memory.get_write_other {m : Memory} (h : m.wf = true) {a x : Nat} {bs : List Byte} (o : x < a ∨ a + bs.length ≤ x) :
    (m.write a bs).get x = m.get x := by
  rw [Memory.get_write bs a x h, if_neg (by omega)]

/-- A write of some bits of a byte keeps the canonical form. -/
theorem Memory.wf_setBits {m : Memory} (h : m.wf = true) (a lo bits v : Nat) : (m.setBits a lo bits v).wf = true :=
  Memory.wf_set h a _

theorem cellsWf_filter (p : Host.Cell → Bool) : ∀ {l : List Host.Cell} {lo : Nat}, cellsWf lo l = true → cellsWf lo (l.filter p) = true
  | [], _, _ => rfl
  | (k, v) :: r, lo, w => by
    simp only [cellsWf, Bool.and_eq_true, decide_eq_true_eq] at w
    have ih : cellsWf (k + 1) (r.filter p) = true := cellsWf_filter p w.2
    rw [List.filter_cons]
    split
    · simp only [cellsWf, Bool.and_eq_true, decide_eq_true_eq]
      exact ⟨w.1, ih⟩
    · exact cellsWf_mono (by omega) ih

/-- Zeroing a range keeps the canonical form. -/
theorem Memory.wf_zero {m : Memory} (h : m.wf = true) (lo hi : Nat) : (m.zero lo hi).wf = true := cellsWf_filter _ h

theorem cellGet_filter {p : Host.Cell → Bool} {x : Nat} : ∀ {l : List Host.Cell} {lo : Nat}, cellsWf lo l = true →
    (∀ v, p (x, v) = true) → cellGet (l.filter p) x = cellGet l x
  | [], _, _, _ => rfl
  | (k, v) :: r, lo, w, h => by
    simp only [cellsWf, Bool.and_eq_true, decide_eq_true_eq] at w
    rw [List.filter_cons]
    split
    · unfold cellGet
      split
      · rfl
      · split
        · rfl
        · exact cellGet_filter w.2 h
    · rename_i hp
      have hk : k ≠ x := by intro e; subst e; exact hp (h v)
      rw [cellGet_filter w.2 h]
      conv => rhs; unfold cellGet
      rw [if_neg hk]
      split
      · exact cellGet_below w.2 (by omega)
      · rfl

theorem cellGet_filter_gone {p : Host.Cell → Bool} {x : Nat} : ∀ {l : List Host.Cell} {lo : Nat}, cellsWf lo l = true →
    (∀ v, p (x, v) = false) → cellGet (l.filter p) x = Memory.unlisted
  | [], _, _, _ => rfl
  | (k, v) :: r, lo, w, h => by
    simp only [cellsWf, Bool.and_eq_true, decide_eq_true_eq] at w
    rw [List.filter_cons]
    split
    · rename_i hp
      unfold cellGet
      split
      · rename_i hk; subst hk; rw [h v] at hp; cases hp
      · split
        · rfl
        · exact cellGet_filter_gone w.2 h
    · exact cellGet_filter_gone w.2 h

/-- A byte of a zeroed range reads 0, and every other byte as before. -/
theorem Memory.get_zero {m : Memory} (h : m.wf = true) (lo hi x : Nat) :
    (m.zero lo hi).get x = if lo ≤ x ∧ x < hi then Memory.unlisted else m.get x := by
  split
  · rename_i hx
    exact cellGet_filter_gone h (by intro v; simp; omega)
  · rename_i hx
    exact cellGet_filter h (by intro v; simp; omega)

theorem cellsWf_filterMap {f : Host.Cell → Option Host.Cell} (hf : ∀ c d, f c = some d → d.1 = c.1 ∧ (c.2 ≠ Memory.unlisted → d.2 ≠ Memory.unlisted)) :
    ∀ {l : List Host.Cell} {lo : Nat}, cellsWf lo l = true → cellsWf lo (l.filterMap f) = true
  | [], _, _ => rfl
  | (k, v) :: r, lo, w => by
    simp only [cellsWf, Bool.and_eq_true, decide_eq_true_eq] at w
    have ih := cellsWf_filterMap hf w.2
    rw [List.filterMap_cons]
    split
    · exact cellsWf_mono (by omega) ih
    · rename_i d hd
      obtain ⟨h1, h2⟩ := hf _ _ hd
      obtain ⟨dk, dv⟩ := d
      simp only at h1 h2
      subst h1
      simp only [cellsWf, Bool.and_eq_true, decide_eq_true_eq]
      exact ⟨⟨w.1.1, h2 w.1.2⟩, ih⟩

/-- Replacing the listed bytes of a range keeps the canonical form. -/
theorem Memory.wf_scramble {m : Memory} (h : m.wf = true) (lo hi : Nat) (f : Nat → Byte) : (m.scramble lo hi f).wf = true := by
  apply cellsWf_filterMap _ h
  intro c d hd
  split at hd
  · split at hd
    · cases hd
    · rename_i hb; cases hd; exact ⟨rfl, fun _ => hb⟩
  · cases hd; exact ⟨rfl, id⟩

/-- Memories in canonical form that read alike are equal. -/
theorem cells_ext : ∀ {l r : List Host.Cell} {lo : Nat}, cellsWf lo l = true → cellsWf lo r = true → (∀ a, cellGet l a = cellGet r a) → l = r
  | [], [], _, _, _, _ => rfl
  | [], (k, v) :: r, lo, _, w, h => by
    simp only [cellsWf, Bool.and_eq_true, decide_eq_true_eq] at w
    have := h k
    simp [cellGet] at this
    exact absurd this.symm w.1.2
  | (k, v) :: r, [], lo, w, _, h => by
    simp only [cellsWf, Bool.and_eq_true, decide_eq_true_eq] at w
    have := h k
    simp [cellGet] at this
    exact absurd this w.1.2
  | (k, v) :: l, (j, u) :: r, lo, w1, w2, h => by
    simp only [cellsWf, Bool.and_eq_true, decide_eq_true_eq] at w1 w2
    have hk : k = j := by
      rcases Nat.lt_trichotomy k j with lt | eq | gt
      · have := h k
        have e : j ≠ k := by omega
        simp [cellGet, e, lt] at this
        exact absurd this w1.1.2
      · exact eq
      · have := h j
        have e : k ≠ j := by omega
        simp [cellGet, e, gt] at this
        exact absurd this.symm w2.1.2
    subst hk
    have hv : v = u := by have := h k; simpa [cellGet] using this
    subst hv
    have : l = r := cells_ext w1.2 w2.2 (by
      intro a
      by_cases ha : a ≤ k
      · rw [cellGet_below w1.2 (by omega), cellGet_below w2.2 (by omega)]
      · have := h a
        have e1 : k ≠ a := by omega
        have e2 : ¬ a < k := by omega
        simpa [cellGet, e1, e2] using this)
    rw [this]

/-- Memories in canonical form that read alike are the same data. -/
theorem Memory.ext_get {m n : Memory} (hm : m.wf = true) (hn : n.wf = true) (h : ∀ a, m.get a = n.get a) : m = n := by
  cases m; cases n; congr; exact cells_ext hm hn h

end Sys2Proof.Machine
end

