-- ==== Sys2Proof/Laws/State.lean ====
section
/-! SUPPORT. What each update of the state leaves and writes, field by field. -/

namespace Sys2Proof.Machine

/-! ### Vectors -/

@[simp] theorem vget_vset {α : Type} {n : Nat} (v : Vector α n) (i : Fin n) (x : α) : vget (vset v i x) i = x := by
  simp [vget, vset]

theorem vget_vset_ne {α : Type} {n : Nat} (v : Vector α n) {i j : Fin n} (x : α) (h : j ≠ i) : vget (vset v i x) j = vget v j := by
  have : i.val ≠ j.val := fun e => h (Fin.ext e.symm)
  simp [vget, vset, this]

@[simp] theorem vset_vget {α : Type} {n : Nat} (v : Vector α n) (i : Fin n) : vset v i (vget v i) = v := by
  simp [vget, vset]

@[simp] theorem vset_vset {α : Type} {n : Nat} (v : Vector α n) (i : Fin n) (x y : α) : vset (vset v i x) i y = vset v i y := by
  apply Vector.ext; intro j hj
  simp only [vset, Vector.getElem_set]
  split <;> rfl

@[simp] theorem vget_replicate {α : Type} {n : Nat} (x : α) (i : Fin n) : vget (Vector.replicate n x) i = x := by
  simp [vget]

@[simp] theorem vget_map {α β : Type} {n : Nat} (f : α → β) (v : Vector α n) (i : Fin n) : vget (v.map f) i = f (vget v i) := by
  simp [vget]

@[simp] theorem vget_vmod {α : Type} {n : Nat} (v : Vector α n) (i : Fin n) (f : α → α) : vget (vmod v i f) i = f (vget v i) := by
  simp [vmod]

theorem vget_vmod_ne {α : Type} {n : Nat} (v : Vector α n) {i j : Fin n} (f : α → α) (h : j ≠ i) : vget (vmod v i f) j = vget v j := by
  simp [vmod, vget_vset_ne, h]

/-! ### One core -/

@[simp] theorem State.core_setCore (s : State) (c : CoreId) (k : Core) : (s.setCore c k).core c = k := by
  simp [State.core, State.setCore]

theorem State.core_setCore_ne (s : State) {c e : CoreId} (k : Core) (h : e ≠ c) : (s.setCore c k).core e = s.core e := by
  obtain ⟨cd, cc⟩ := c; obtain ⟨ed, ec⟩ := e
  simp only [State.core, State.setCore]
  by_cases hd : ed = cd
  · subst hd
    have hc : ec ≠ cc := fun x => h (by rw [x])
    simp [vget_vset_ne, hc]
  · rw [vget_vmod_ne _ _ hd]

@[simp] theorem State.setCore_setCore (s : State) (c : CoreId) (j k : Core) : (s.setCore c j).setCore c k = s.setCore c k := by
  simp [State.setCore, vmod]

@[simp] theorem State.setCore_core (s : State) (c : CoreId) : s.setCore c (s.core c) = s := by
  simp [State.setCore, State.core, vmod]

@[simp] theorem State.core_modCore (s : State) (c : CoreId) (f : Core → Core) : (s.modCore c f).core c = f (s.core c) := by
  simp [State.modCore]

theorem State.core_modCore_ne (s : State) {c e : CoreId} (f : Core → Core) (h : e ≠ c) : (s.modCore c f).core e = s.core e :=
  s.core_setCore_ne _ h

@[simp] theorem State.modCore_modCore (s : State) (c : CoreId) (f g : Core → Core) :
    (s.modCore c f).modCore c g = s.modCore c (fun k => g (f k)) := by
  simp [State.modCore]

@[simp] theorem State.modDie_die (s : State) (d : Fin 8) (f : Die → Die) : (s.modDie d f).die d = f (s.die d) := by
  simp [State.die, State.modDie]

theorem State.modDie_die_ne (s : State) {d e : Fin 8} (f : Die → Die) (h : e ≠ d) : (s.modDie d f).die e = s.die e := by
  simp [State.die, State.modDie, vget_vmod_ne, h]

theorem State.core_congr {s t : State} (h : s.cores = t.cores) (c : CoreId) : s.core c = t.core c := by
  simp [State.core, h]

/-! ### Fields of the state -/

@[simp] theorem State.setCore_pending (s : State) (c : CoreId) (k : Core) : (s.setCore c k).pending = s.pending := (rfl)
@[simp] theorem State.setCore_fresh (s : State) (c : CoreId) (k : Core) : (s.setCore c k).fresh = s.fresh := (rfl)
@[simp] theorem State.setCore_outbox (s : State) (c : CoreId) (k : Core) : (s.setCore c k).outbox = s.outbox := (rfl)
@[simp] theorem State.setCore_mem (s : State) (c : CoreId) (k : Core) : (s.setCore c k).mem = s.mem := (rfl)
@[simp] theorem State.setCore_ecc (s : State) (c : CoreId) (k : Core) : (s.setCore c k).ecc = s.ecc := (rfl)
@[simp] theorem State.setCore_dies (s : State) (c : CoreId) (k : Core) : (s.setCore c k).dies = s.dies := (rfl)
@[simp] theorem State.setCore_pkg (s : State) (c : CoreId) (k : Core) : (s.setCore c k).pkg = s.pkg := (rfl)
@[simp] theorem State.setCore_die (s : State) (c : CoreId) (k : Core) (e : Fin 8) : (s.setCore c k).die e = s.die e := (rfl)
@[simp] theorem State.setCore_hasDie (s : State) (c : CoreId) (k : Core) (e : Fin 8) : (s.setCore c k).hasDie e = s.hasDie e := (rfl)

@[simp] theorem State.modCore_pending (s : State) (c : CoreId) (f : Core → Core) : (s.modCore c f).pending = s.pending := (rfl)
@[simp] theorem State.modCore_fresh (s : State) (c : CoreId) (f : Core → Core) : (s.modCore c f).fresh = s.fresh := (rfl)
@[simp] theorem State.modCore_outbox (s : State) (c : CoreId) (f : Core → Core) : (s.modCore c f).outbox = s.outbox := (rfl)
@[simp] theorem State.modCore_mem (s : State) (c : CoreId) (f : Core → Core) : (s.modCore c f).mem = s.mem := (rfl)
@[simp] theorem State.modCore_ecc (s : State) (c : CoreId) (f : Core → Core) : (s.modCore c f).ecc = s.ecc := (rfl)
@[simp] theorem State.modCore_dies (s : State) (c : CoreId) (f : Core → Core) : (s.modCore c f).dies = s.dies := (rfl)
@[simp] theorem State.modCore_pkg (s : State) (c : CoreId) (f : Core → Core) : (s.modCore c f).pkg = s.pkg := (rfl)
@[simp] theorem State.modCore_die (s : State) (c : CoreId) (f : Core → Core) (e : Fin 8) : (s.modCore c f).die e = s.die e := (rfl)
@[simp] theorem State.modCore_hasDie (s : State) (c : CoreId) (f : Core → Core) (e : Fin 8) : (s.modCore c f).hasDie e = s.hasDie e := (rfl)

@[simp] theorem State.modDie_pending (s : State) (d : Fin 8) (f : Die → Die) : (s.modDie d f).pending = s.pending := (rfl)
@[simp] theorem State.modDie_fresh (s : State) (d : Fin 8) (f : Die → Die) : (s.modDie d f).fresh = s.fresh := (rfl)
@[simp] theorem State.modDie_outbox (s : State) (d : Fin 8) (f : Die → Die) : (s.modDie d f).outbox = s.outbox := (rfl)
@[simp] theorem State.modDie_mem (s : State) (d : Fin 8) (f : Die → Die) : (s.modDie d f).mem = s.mem := (rfl)
@[simp] theorem State.modDie_ecc (s : State) (d : Fin 8) (f : Die → Die) : (s.modDie d f).ecc = s.ecc := (rfl)
@[simp] theorem State.modDie_cores (s : State) (d : Fin 8) (f : Die → Die) : (s.modDie d f).cores = s.cores := (rfl)
@[simp] theorem State.modDie_pkg (s : State) (d : Fin 8) (f : Die → Die) : (s.modDie d f).pkg = s.pkg := (rfl)
@[simp] theorem State.modDie_core (s : State) (d : Fin 8) (f : Die → Die) (e : CoreId) : (s.modDie d f).core e = s.core e := (rfl)
@[simp] theorem State.modDie_hasDie (s : State) (d : Fin 8) (f : Die → Die) (e : Fin 8) : (s.modDie d f).hasDie e = s.hasDie e := (rfl)

@[simp] theorem State.modPkg_pending (s : State) (f : Pkg → Pkg) : (s.modPkg f).pending = s.pending := (rfl)
@[simp] theorem State.modPkg_fresh (s : State) (f : Pkg → Pkg) : (s.modPkg f).fresh = s.fresh := (rfl)
@[simp] theorem State.modPkg_outbox (s : State) (f : Pkg → Pkg) : (s.modPkg f).outbox = s.outbox := (rfl)
@[simp] theorem State.modPkg_mem (s : State) (f : Pkg → Pkg) : (s.modPkg f).mem = s.mem := (rfl)
@[simp] theorem State.modPkg_ecc (s : State) (f : Pkg → Pkg) : (s.modPkg f).ecc = s.ecc := (rfl)
@[simp] theorem State.modPkg_cores (s : State) (f : Pkg → Pkg) : (s.modPkg f).cores = s.cores := (rfl)
@[simp] theorem State.modPkg_dies (s : State) (f : Pkg → Pkg) : (s.modPkg f).dies = s.dies := (rfl)
@[simp] theorem State.modPkg_pkg (s : State) (f : Pkg → Pkg) : (s.modPkg f).pkg = f s.pkg := (rfl)
@[simp] theorem State.modPkg_core (s : State) (f : Pkg → Pkg) (e : CoreId) : (s.modPkg f).core e = s.core e := (rfl)
@[simp] theorem State.modPkg_die (s : State) (f : Pkg → Pkg) (e : Fin 8) : (s.modPkg f).die e = s.die e := (rfl)

@[simp] theorem State.send_pending (s : State) (x : Out) : (s.send x).pending = s.pending := (rfl)
@[simp] theorem State.send_fresh (s : State) (x : Out) : (s.send x).fresh = s.fresh := (rfl)
@[simp] theorem State.send_mem (s : State) (x : Out) : (s.send x).mem = s.mem := (rfl)
@[simp] theorem State.send_ecc (s : State) (x : Out) : (s.send x).ecc = s.ecc := (rfl)
@[simp] theorem State.send_cores (s : State) (x : Out) : (s.send x).cores = s.cores := (rfl)
@[simp] theorem State.send_dies (s : State) (x : Out) : (s.send x).dies = s.dies := (rfl)
@[simp] theorem State.send_pkg (s : State) (x : Out) : (s.send x).pkg = s.pkg := (rfl)
/-- What is sent leaves, inside its function's IDE stream where one is secure, but for what R473 holds back. -/
@[simp] theorem State.send_outbox (s : State) (x : Out) :
    (s.send x).outbox = if x.refuses || (x.tlpFn.map s.tlpOk).getD true then s.onStream x :: s.outbox else s.outbox := (rfl)
@[simp] theorem State.send_core (s : State) (x : Out) (e : CoreId) : (s.send x).core e = s.core e := (rfl)
@[simp] theorem State.send_die (s : State) (x : Out) (e : Fin 8) : (s.send x).die e = s.die e := (rfl)
@[simp] theorem State.send_hasDie (s : State) (x : Out) (e : Fin 8) : (s.send x).hasDie e = s.hasDie e := (rfl)

/-! ### Registers of a core -/

/-- A write of a general register reads back, but for `g0`, which reads 0 (R26). -/
@[simp] theorem Core.getG_setG (k : Core) (r : Fin 32) (v : Word) : (k.setG r v).getG r = if r = 0 then 0 else v := by
  by_cases h : r = 0 <;> simp [Core.getG, Core.setG, h]

theorem Core.getG_setG_ne (k : Core) {r q : Fin 32} (v : Word) (h : q ≠ r) : (k.setG r v).getG q = k.getG q := by
  by_cases h0 : r = 0
  · simp [Core.setG, h0]
  · simp [Core.getG, Core.setG, h0, vget_vset_ne, h]

@[simp] theorem Core.getG_zero (k : Core) : k.getG 0 = 0 := by simp [Core.getG]

/-- A write of a predicate reads back, but for `p0`, which reads 1 (R26). -/
@[simp] theorem Core.getP_setP (k : Core) (r : Fin 8) (v : Bool) : (k.setP r v).getP r = if r = 0 then true else v := by
  by_cases h : r = 0 <;> simp [Core.getP, Core.setP, h]

theorem Core.getP_setP_ne (k : Core) {r q : Fin 8} (v : Bool) (h : q ≠ r) : (k.setP r v).getP q = k.getP q := by
  by_cases h0 : r = 0
  · simp [Core.setP, h0]
  · simp [Core.getP, Core.setP, h0, vget_vset_ne, h]

@[simp] theorem Core.getP_zero (k : Core) : k.getP 0 = true := by simp [Core.getP]

@[simp] theorem Core.getD_setD (k : Core) (r : Fin 32) (v : Leg) : (k.setD r v).getD r = v := by simp [Core.getD, Core.setD]

theorem Core.getD_setD_ne (k : Core) {r q : Fin 32} (v : Leg) (h : q ≠ r) : (k.setD r v).getD q = k.getD q := by
  simp [Core.getD, Core.setD, vget_vset_ne, h]

@[simp] theorem Core.setG_p (k : Core) (r : Fin 32) (v : Word) : (k.setG r v).p = k.p := by unfold Core.setG; split <;> rfl
@[simp] theorem Core.setG_d (k : Core) (r : Fin 32) (v : Word) : (k.setG r v).d = k.d := by unfold Core.setG; split <;> rfl
@[simp] theorem Core.setG_pc (k : Core) (r : Fin 32) (v : Word) : (k.setG r v).pc = k.pc := by unfold Core.setG; split <;> rfl
@[simp] theorem Core.setG_ret (k : Core) (r : Fin 32) (v : Word) : (k.setG r v).ret = k.ret := by unfold Core.setG; split <;> rfl
@[simp] theorem Core.setG_loops (k : Core) (r : Fin 32) (v : Word) : (k.setG r v).loops = k.loops := by unfold Core.setG; split <;> rfl
@[simp] theorem Core.setG_seq (k : Core) (r : Fin 32) (v : Word) : (k.setG r v).seq = k.seq := by unfold Core.setG; split <;> rfl
@[simp] theorem Core.setG_results (k : Core) (r : Fin 32) (v : Word) : (k.setG r v).results = k.results := by unfold Core.setG; split <;> rfl
@[simp] theorem Core.setG_stalled (k : Core) (r : Fin 32) (v : Word) : (k.setG r v).stalled = k.stalled := by unfold Core.setG; split <;> rfl
@[simp] theorem Core.setG_wait (k : Core) (r : Fin 32) (v : Word) : (k.setG r v).wait = k.wait := by unfold Core.setG; split <;> rfl
@[simp] theorem Core.setG_run (k : Core) (r : Fin 32) (v : Word) : (k.setG r v).run = k.run := by unfold Core.setG; split <;> rfl
@[simp] theorem Core.setG_sect (k : Core) (r : Fin 32) (v : Word) : (k.setG r v).sect = k.sect := by unfold Core.setG; split <;> rfl
@[simp] theorem Core.setG_cycleQ (k : Core) (r : Fin 32) (v : Word) : (k.setG r v).cycleQ = k.cycleQ := by unfold Core.setG; split <;> rfl
@[simp] theorem Core.setG_tsrRing (k : Core) (r : Fin 32) (v : Word) : (k.setG r v).tsrRing = k.tsrRing := by unfold Core.setG; split <;> rfl
@[simp] theorem Core.setG_tsrCount (k : Core) (r : Fin 32) (v : Word) : (k.setG r v).tsrCount = k.tsrCount := by unfold Core.setG; split <;> rfl
@[simp] theorem Core.setG_flagsSum (k : Core) (r : Fin 32) (v : Word) : (k.setG r v).flagsSum = k.flagsSum := by unfold Core.setG; split <;> rfl
@[simp] theorem Core.setG_taskInfo (k : Core) (r : Fin 32) (v : Word) : (k.setG r v).taskInfo = k.taskInfo := by unfold Core.setG; split <;> rfl
@[simp] theorem Core.setG_partition (k : Core) (r : Fin 32) (v : Word) : (k.setG r v).partition = k.partition := by unfold Core.setG; split <;> rfl
@[simp] theorem Core.setG_qStr (k : Core) (r : Fin 32) (v : Word) : (k.setG r v).qStr = k.qStr := by unfold Core.setG; split <;> rfl
@[simp] theorem Core.setG_qGa (k : Core) (r : Fin 32) (v : Word) : (k.setG r v).qGa = k.qGa := by unfold Core.setG; split <;> rfl
@[simp] theorem Core.setG_qJx (k : Core) (r : Fin 32) (v : Word) : (k.setG r v).qJx = k.qJx := by unfold Core.setG; split <;> rfl
@[simp] theorem Core.setG_qVec (k : Core) (r : Fin 32) (v : Word) : (k.setG r v).qVec = k.qVec := by unfold Core.setG; split <;> rfl
@[simp] theorem Core.setG_qSkt (k : Core) (r : Fin 32) (v : Word) : (k.setG r v).qSkt = k.qSkt := by unfold Core.setG; split <;> rfl
@[simp] theorem Core.setG_qSyn (k : Core) (r : Fin 32) (v : Word) : (k.setG r v).qSyn = k.qSyn := by unfold Core.setG; split <;> rfl
@[simp] theorem Core.setG_slots (k : Core) (r : Fin 32) (v : Word) : (k.setG r v).slots = k.slots := by unfold Core.setG; split <;> rfl
@[simp] theorem Core.setG_ga (k : Core) (r : Fin 32) (v : Word) : (k.setG r v).ga = k.ga := by unfold Core.setG; split <;> rfl
@[simp] theorem Core.setG_jx (k : Core) (r : Fin 32) (v : Word) : (k.setG r v).jx = k.jx := by unfold Core.setG; split <;> rfl
@[simp] theorem Core.setG_vec (k : Core) (r : Fin 32) (v : Word) : (k.setG r v).vec = k.vec := by unfold Core.setG; split <;> rfl
@[simp] theorem Core.setG_skt (k : Core) (r : Fin 32) (v : Word) : (k.setG r v).skt = k.skt := by unfold Core.setG; split <;> rfl
@[simp] theorem Core.setG_sems (k : Core) (r : Fin 32) (v : Word) : (k.setG r v).sems = k.sems := by unfold Core.setG; split <;> rfl
@[simp] theorem Core.setG_semQ (k : Core) (r : Fin 32) (v : Word) : (k.setG r v).semQ = k.semQ := by unfold Core.setG; split <;> rfl
@[simp] theorem Core.setG_badPost (k : Core) (r : Fin 32) (v : Word) : (k.setG r v).badPost = k.badPost := by unfold Core.setG; split <;> rfl
@[simp] theorem Core.setG_bars (k : Core) (r : Fin 32) (v : Word) : (k.setG r v).bars = k.bars := by unfold Core.setG; split <;> rfl
@[simp] theorem Core.setG_queues (k : Core) (r : Fin 32) (v : Word) : (k.setG r v).queues = k.queues := by unfold Core.setG; split <;> rfl
@[simp] theorem Core.setG_pools (k : Core) (r : Fin 32) (v : Word) : (k.setG r v).pools = k.pools := by unfold Core.setG; split <;> rfl
@[simp] theorem Core.setG_routeCsr (k : Core) (r : Fin 32) (v : Word) : (k.setG r v).routeCsr = k.routeCsr := by unfold Core.setG; split <;> rfl
@[simp] theorem Core.setG_routeB8 (k : Core) (r : Fin 32) (v : Word) : (k.setG r v).routeB8 = k.routeB8 := by unfold Core.setG; split <;> rfl
@[simp] theorem Core.setG_routeB16 (k : Core) (r : Fin 32) (v : Word) : (k.setG r v).routeB16 = k.routeB16 := by unfold Core.setG; split <;> rfl
@[simp] theorem Core.setG_routeBmp (k : Core) (r : Fin 32) (v : Word) : (k.setG r v).routeBmp = k.routeBmp := by unfold Core.setG; split <;> rfl
@[simp] theorem Core.setG_routeDot (k : Core) (r : Fin 32) (v : Word) : (k.setG r v).routeDot = k.routeDot := by unfold Core.setG; split <;> rfl
@[simp] theorem Core.setG_waitCfg (k : Core) (r : Fin 32) (v : Word) : (k.setG r v).waitCfg = k.waitCfg := by unfold Core.setG; split <;> rfl
@[simp] theorem Core.setG_fring (k : Core) (r : Fin 32) (v : Word) : (k.setG r v).fring = k.fring := by unfold Core.setG; split <;> rfl
@[simp] theorem Core.setG_pstate (k : Core) (r : Fin 32) (v : Word) : (k.setG r v).pstate = k.pstate := by unfold Core.setG; split <;> rfl
@[simp] theorem Core.setG_step (k : Core) (r : Fin 32) (v : Word) : (k.setG r v).step = k.step := by unfold Core.setG; split <;> rfl
@[simp] theorem Core.setG_resetting (k : Core) (r : Fin 32) (v : Word) : (k.setG r v).resetting = k.resetting := by unfold Core.setG; split <;> rfl
@[simp] theorem Core.setG_lead (k : Core) (r : Fin 32) (v : Word) : (k.setG r v).lead = k.lead := by unfold Core.setG; split <;> rfl
@[simp] theorem Core.setG_met (k : Core) (r : Fin 32) (v : Word) : (k.setG r v).met = k.met := by unfold Core.setG; split <;> rfl
@[simp] theorem Core.setG_boxOpen (k : Core) (r : Fin 32) (v : Word) : (k.setG r v).boxOpen = k.boxOpen := by unfold Core.setG; split <;> rfl
@[simp] theorem Core.setG_seen (k : Core) (r : Fin 32) (v : Word) : (k.setG r v).seen = k.seen := by unfold Core.setG; split <;> rfl
@[simp] theorem Core.setG_still (k : Core) (r : Fin 32) (v : Word) : (k.setG r v).still = k.still := by unfold Core.setG; split <;> rfl
@[simp] theorem Core.setG_waited (k : Core) (r : Fin 32) (v : Word) : (k.setG r v).waited = k.waited := by unfold Core.setG; split <;> rfl
@[simp] theorem Core.setG_own (k : Core) (r : Fin 32) (v : Word) : (k.setG r v).own = k.own := by unfold Core.setG; split <;> rfl

@[simp] theorem Core.setP_g (k : Core) (r : Fin 8) (v : Bool) : (k.setP r v).g = k.g := by unfold Core.setP; split <;> rfl
@[simp] theorem Core.setP_d (k : Core) (r : Fin 8) (v : Bool) : (k.setP r v).d = k.d := by unfold Core.setP; split <;> rfl
@[simp] theorem Core.setP_pc (k : Core) (r : Fin 8) (v : Bool) : (k.setP r v).pc = k.pc := by unfold Core.setP; split <;> rfl
@[simp] theorem Core.setP_ret (k : Core) (r : Fin 8) (v : Bool) : (k.setP r v).ret = k.ret := by unfold Core.setP; split <;> rfl
@[simp] theorem Core.setP_loops (k : Core) (r : Fin 8) (v : Bool) : (k.setP r v).loops = k.loops := by unfold Core.setP; split <;> rfl
@[simp] theorem Core.setP_seq (k : Core) (r : Fin 8) (v : Bool) : (k.setP r v).seq = k.seq := by unfold Core.setP; split <;> rfl
@[simp] theorem Core.setP_results (k : Core) (r : Fin 8) (v : Bool) : (k.setP r v).results = k.results := by unfold Core.setP; split <;> rfl
@[simp] theorem Core.setP_stalled (k : Core) (r : Fin 8) (v : Bool) : (k.setP r v).stalled = k.stalled := by unfold Core.setP; split <;> rfl
@[simp] theorem Core.setP_wait (k : Core) (r : Fin 8) (v : Bool) : (k.setP r v).wait = k.wait := by unfold Core.setP; split <;> rfl
@[simp] theorem Core.setP_run (k : Core) (r : Fin 8) (v : Bool) : (k.setP r v).run = k.run := by unfold Core.setP; split <;> rfl
@[simp] theorem Core.setP_sect (k : Core) (r : Fin 8) (v : Bool) : (k.setP r v).sect = k.sect := by unfold Core.setP; split <;> rfl
@[simp] theorem Core.setP_cycleQ (k : Core) (r : Fin 8) (v : Bool) : (k.setP r v).cycleQ = k.cycleQ := by unfold Core.setP; split <;> rfl
@[simp] theorem Core.setP_tsrRing (k : Core) (r : Fin 8) (v : Bool) : (k.setP r v).tsrRing = k.tsrRing := by unfold Core.setP; split <;> rfl
@[simp] theorem Core.setP_tsrCount (k : Core) (r : Fin 8) (v : Bool) : (k.setP r v).tsrCount = k.tsrCount := by unfold Core.setP; split <;> rfl
@[simp] theorem Core.setP_flagsSum (k : Core) (r : Fin 8) (v : Bool) : (k.setP r v).flagsSum = k.flagsSum := by unfold Core.setP; split <;> rfl
@[simp] theorem Core.setP_taskInfo (k : Core) (r : Fin 8) (v : Bool) : (k.setP r v).taskInfo = k.taskInfo := by unfold Core.setP; split <;> rfl
@[simp] theorem Core.setP_partition (k : Core) (r : Fin 8) (v : Bool) : (k.setP r v).partition = k.partition := by unfold Core.setP; split <;> rfl
@[simp] theorem Core.setP_qStr (k : Core) (r : Fin 8) (v : Bool) : (k.setP r v).qStr = k.qStr := by unfold Core.setP; split <;> rfl
@[simp] theorem Core.setP_qGa (k : Core) (r : Fin 8) (v : Bool) : (k.setP r v).qGa = k.qGa := by unfold Core.setP; split <;> rfl
@[simp] theorem Core.setP_qJx (k : Core) (r : Fin 8) (v : Bool) : (k.setP r v).qJx = k.qJx := by unfold Core.setP; split <;> rfl
@[simp] theorem Core.setP_qVec (k : Core) (r : Fin 8) (v : Bool) : (k.setP r v).qVec = k.qVec := by unfold Core.setP; split <;> rfl
@[simp] theorem Core.setP_qSkt (k : Core) (r : Fin 8) (v : Bool) : (k.setP r v).qSkt = k.qSkt := by unfold Core.setP; split <;> rfl
@[simp] theorem Core.setP_qSyn (k : Core) (r : Fin 8) (v : Bool) : (k.setP r v).qSyn = k.qSyn := by unfold Core.setP; split <;> rfl
@[simp] theorem Core.setP_slots (k : Core) (r : Fin 8) (v : Bool) : (k.setP r v).slots = k.slots := by unfold Core.setP; split <;> rfl
@[simp] theorem Core.setP_ga (k : Core) (r : Fin 8) (v : Bool) : (k.setP r v).ga = k.ga := by unfold Core.setP; split <;> rfl
@[simp] theorem Core.setP_jx (k : Core) (r : Fin 8) (v : Bool) : (k.setP r v).jx = k.jx := by unfold Core.setP; split <;> rfl
@[simp] theorem Core.setP_vec (k : Core) (r : Fin 8) (v : Bool) : (k.setP r v).vec = k.vec := by unfold Core.setP; split <;> rfl
@[simp] theorem Core.setP_skt (k : Core) (r : Fin 8) (v : Bool) : (k.setP r v).skt = k.skt := by unfold Core.setP; split <;> rfl
@[simp] theorem Core.setP_sems (k : Core) (r : Fin 8) (v : Bool) : (k.setP r v).sems = k.sems := by unfold Core.setP; split <;> rfl
@[simp] theorem Core.setP_semQ (k : Core) (r : Fin 8) (v : Bool) : (k.setP r v).semQ = k.semQ := by unfold Core.setP; split <;> rfl
@[simp] theorem Core.setP_badPost (k : Core) (r : Fin 8) (v : Bool) : (k.setP r v).badPost = k.badPost := by unfold Core.setP; split <;> rfl
@[simp] theorem Core.setP_bars (k : Core) (r : Fin 8) (v : Bool) : (k.setP r v).bars = k.bars := by unfold Core.setP; split <;> rfl
@[simp] theorem Core.setP_queues (k : Core) (r : Fin 8) (v : Bool) : (k.setP r v).queues = k.queues := by unfold Core.setP; split <;> rfl
@[simp] theorem Core.setP_pools (k : Core) (r : Fin 8) (v : Bool) : (k.setP r v).pools = k.pools := by unfold Core.setP; split <;> rfl
@[simp] theorem Core.setP_routeCsr (k : Core) (r : Fin 8) (v : Bool) : (k.setP r v).routeCsr = k.routeCsr := by unfold Core.setP; split <;> rfl
@[simp] theorem Core.setP_routeB8 (k : Core) (r : Fin 8) (v : Bool) : (k.setP r v).routeB8 = k.routeB8 := by unfold Core.setP; split <;> rfl
@[simp] theorem Core.setP_routeB16 (k : Core) (r : Fin 8) (v : Bool) : (k.setP r v).routeB16 = k.routeB16 := by unfold Core.setP; split <;> rfl
@[simp] theorem Core.setP_routeBmp (k : Core) (r : Fin 8) (v : Bool) : (k.setP r v).routeBmp = k.routeBmp := by unfold Core.setP; split <;> rfl
@[simp] theorem Core.setP_routeDot (k : Core) (r : Fin 8) (v : Bool) : (k.setP r v).routeDot = k.routeDot := by unfold Core.setP; split <;> rfl
@[simp] theorem Core.setP_waitCfg (k : Core) (r : Fin 8) (v : Bool) : (k.setP r v).waitCfg = k.waitCfg := by unfold Core.setP; split <;> rfl
@[simp] theorem Core.setP_fring (k : Core) (r : Fin 8) (v : Bool) : (k.setP r v).fring = k.fring := by unfold Core.setP; split <;> rfl
@[simp] theorem Core.setP_pstate (k : Core) (r : Fin 8) (v : Bool) : (k.setP r v).pstate = k.pstate := by unfold Core.setP; split <;> rfl
@[simp] theorem Core.setP_step (k : Core) (r : Fin 8) (v : Bool) : (k.setP r v).step = k.step := by unfold Core.setP; split <;> rfl
@[simp] theorem Core.setP_resetting (k : Core) (r : Fin 8) (v : Bool) : (k.setP r v).resetting = k.resetting := by unfold Core.setP; split <;> rfl
@[simp] theorem Core.setP_lead (k : Core) (r : Fin 8) (v : Bool) : (k.setP r v).lead = k.lead := by unfold Core.setP; split <;> rfl
@[simp] theorem Core.setP_met (k : Core) (r : Fin 8) (v : Bool) : (k.setP r v).met = k.met := by unfold Core.setP; split <;> rfl
@[simp] theorem Core.setP_boxOpen (k : Core) (r : Fin 8) (v : Bool) : (k.setP r v).boxOpen = k.boxOpen := by unfold Core.setP; split <;> rfl
@[simp] theorem Core.setP_seen (k : Core) (r : Fin 8) (v : Bool) : (k.setP r v).seen = k.seen := by unfold Core.setP; split <;> rfl
@[simp] theorem Core.setP_still (k : Core) (r : Fin 8) (v : Bool) : (k.setP r v).still = k.still := by unfold Core.setP; split <;> rfl
@[simp] theorem Core.setP_waited (k : Core) (r : Fin 8) (v : Bool) : (k.setP r v).waited = k.waited := by unfold Core.setP; split <;> rfl
@[simp] theorem Core.setP_own (k : Core) (r : Fin 8) (v : Bool) : (k.setP r v).own = k.own := by unfold Core.setP; split <;> rfl

@[simp] theorem Core.setD_g (k : Core) (r : Fin 32) (v : Leg) : (k.setD r v).g = k.g := (rfl)
@[simp] theorem Core.setD_p (k : Core) (r : Fin 32) (v : Leg) : (k.setD r v).p = k.p := (rfl)
@[simp] theorem Core.setD_pc (k : Core) (r : Fin 32) (v : Leg) : (k.setD r v).pc = k.pc := (rfl)
@[simp] theorem Core.setD_ret (k : Core) (r : Fin 32) (v : Leg) : (k.setD r v).ret = k.ret := (rfl)
@[simp] theorem Core.setD_loops (k : Core) (r : Fin 32) (v : Leg) : (k.setD r v).loops = k.loops := (rfl)
@[simp] theorem Core.setD_seq (k : Core) (r : Fin 32) (v : Leg) : (k.setD r v).seq = k.seq := (rfl)
@[simp] theorem Core.setD_results (k : Core) (r : Fin 32) (v : Leg) : (k.setD r v).results = k.results := (rfl)
@[simp] theorem Core.setD_stalled (k : Core) (r : Fin 32) (v : Leg) : (k.setD r v).stalled = k.stalled := (rfl)
@[simp] theorem Core.setD_wait (k : Core) (r : Fin 32) (v : Leg) : (k.setD r v).wait = k.wait := (rfl)
@[simp] theorem Core.setD_run (k : Core) (r : Fin 32) (v : Leg) : (k.setD r v).run = k.run := (rfl)
@[simp] theorem Core.setD_sect (k : Core) (r : Fin 32) (v : Leg) : (k.setD r v).sect = k.sect := (rfl)
@[simp] theorem Core.setD_cycleQ (k : Core) (r : Fin 32) (v : Leg) : (k.setD r v).cycleQ = k.cycleQ := (rfl)
@[simp] theorem Core.setD_tsrRing (k : Core) (r : Fin 32) (v : Leg) : (k.setD r v).tsrRing = k.tsrRing := (rfl)
@[simp] theorem Core.setD_tsrCount (k : Core) (r : Fin 32) (v : Leg) : (k.setD r v).tsrCount = k.tsrCount := (rfl)
@[simp] theorem Core.setD_flagsSum (k : Core) (r : Fin 32) (v : Leg) : (k.setD r v).flagsSum = k.flagsSum := (rfl)
@[simp] theorem Core.setD_taskInfo (k : Core) (r : Fin 32) (v : Leg) : (k.setD r v).taskInfo = k.taskInfo := (rfl)
@[simp] theorem Core.setD_partition (k : Core) (r : Fin 32) (v : Leg) : (k.setD r v).partition = k.partition := (rfl)
@[simp] theorem Core.setD_qStr (k : Core) (r : Fin 32) (v : Leg) : (k.setD r v).qStr = k.qStr := (rfl)
@[simp] theorem Core.setD_qGa (k : Core) (r : Fin 32) (v : Leg) : (k.setD r v).qGa = k.qGa := (rfl)
@[simp] theorem Core.setD_qJx (k : Core) (r : Fin 32) (v : Leg) : (k.setD r v).qJx = k.qJx := (rfl)
@[simp] theorem Core.setD_qVec (k : Core) (r : Fin 32) (v : Leg) : (k.setD r v).qVec = k.qVec := (rfl)
@[simp] theorem Core.setD_qSkt (k : Core) (r : Fin 32) (v : Leg) : (k.setD r v).qSkt = k.qSkt := (rfl)
@[simp] theorem Core.setD_qSyn (k : Core) (r : Fin 32) (v : Leg) : (k.setD r v).qSyn = k.qSyn := (rfl)
@[simp] theorem Core.setD_slots (k : Core) (r : Fin 32) (v : Leg) : (k.setD r v).slots = k.slots := (rfl)
@[simp] theorem Core.setD_ga (k : Core) (r : Fin 32) (v : Leg) : (k.setD r v).ga = k.ga := (rfl)
@[simp] theorem Core.setD_jx (k : Core) (r : Fin 32) (v : Leg) : (k.setD r v).jx = k.jx := (rfl)
@[simp] theorem Core.setD_vec (k : Core) (r : Fin 32) (v : Leg) : (k.setD r v).vec = k.vec := (rfl)
@[simp] theorem Core.setD_skt (k : Core) (r : Fin 32) (v : Leg) : (k.setD r v).skt = k.skt := (rfl)
@[simp] theorem Core.setD_sems (k : Core) (r : Fin 32) (v : Leg) : (k.setD r v).sems = k.sems := (rfl)
@[simp] theorem Core.setD_semQ (k : Core) (r : Fin 32) (v : Leg) : (k.setD r v).semQ = k.semQ := (rfl)
@[simp] theorem Core.setD_badPost (k : Core) (r : Fin 32) (v : Leg) : (k.setD r v).badPost = k.badPost := (rfl)
@[simp] theorem Core.setD_bars (k : Core) (r : Fin 32) (v : Leg) : (k.setD r v).bars = k.bars := (rfl)
@[simp] theorem Core.setD_queues (k : Core) (r : Fin 32) (v : Leg) : (k.setD r v).queues = k.queues := (rfl)
@[simp] theorem Core.setD_pools (k : Core) (r : Fin 32) (v : Leg) : (k.setD r v).pools = k.pools := (rfl)
@[simp] theorem Core.setD_routeCsr (k : Core) (r : Fin 32) (v : Leg) : (k.setD r v).routeCsr = k.routeCsr := (rfl)
@[simp] theorem Core.setD_routeB8 (k : Core) (r : Fin 32) (v : Leg) : (k.setD r v).routeB8 = k.routeB8 := (rfl)
@[simp] theorem Core.setD_routeB16 (k : Core) (r : Fin 32) (v : Leg) : (k.setD r v).routeB16 = k.routeB16 := (rfl)
@[simp] theorem Core.setD_routeBmp (k : Core) (r : Fin 32) (v : Leg) : (k.setD r v).routeBmp = k.routeBmp := (rfl)
@[simp] theorem Core.setD_routeDot (k : Core) (r : Fin 32) (v : Leg) : (k.setD r v).routeDot = k.routeDot := (rfl)
@[simp] theorem Core.setD_waitCfg (k : Core) (r : Fin 32) (v : Leg) : (k.setD r v).waitCfg = k.waitCfg := (rfl)
@[simp] theorem Core.setD_fring (k : Core) (r : Fin 32) (v : Leg) : (k.setD r v).fring = k.fring := (rfl)
@[simp] theorem Core.setD_pstate (k : Core) (r : Fin 32) (v : Leg) : (k.setD r v).pstate = k.pstate := (rfl)
@[simp] theorem Core.setD_step (k : Core) (r : Fin 32) (v : Leg) : (k.setD r v).step = k.step := (rfl)
@[simp] theorem Core.setD_resetting (k : Core) (r : Fin 32) (v : Leg) : (k.setD r v).resetting = k.resetting := (rfl)
@[simp] theorem Core.setD_lead (k : Core) (r : Fin 32) (v : Leg) : (k.setD r v).lead = k.lead := (rfl)
@[simp] theorem Core.setD_met (k : Core) (r : Fin 32) (v : Leg) : (k.setD r v).met = k.met := (rfl)
@[simp] theorem Core.setD_boxOpen (k : Core) (r : Fin 32) (v : Leg) : (k.setD r v).boxOpen = k.boxOpen := (rfl)
@[simp] theorem Core.setD_seen (k : Core) (r : Fin 32) (v : Leg) : (k.setD r v).seen = k.seen := (rfl)
@[simp] theorem Core.setD_still (k : Core) (r : Fin 32) (v : Leg) : (k.setD r v).still = k.still := (rfl)
@[simp] theorem Core.setD_waited (k : Core) (r : Fin 32) (v : Leg) : (k.setD r v).waited = k.waited := (rfl)
@[simp] theorem Core.setD_own (k : Core) (r : Fin 32) (v : Leg) : (k.setD r v).own = k.own := (rfl)

@[simp] theorem Core.setG_getP (k : Core) (r : Fin 32) (v : Word) (q : Fin 8) : (k.setG r v).getP q = k.getP q := by simp [Core.getP]
@[simp] theorem Core.setG_getD (k : Core) (r : Fin 32) (v : Word) (q : Fin 32) : (k.setG r v).getD q = k.getD q := by simp [Core.getD]
@[simp] theorem Core.setP_getG (k : Core) (r : Fin 8) (v : Bool) (q : Fin 32) : (k.setP r v).getG q = k.getG q := by simp [Core.getG]
@[simp] theorem Core.setP_getD (k : Core) (r : Fin 8) (v : Bool) (q : Fin 32) : (k.setP r v).getD q = k.getD q := by simp [Core.getD]
@[simp] theorem Core.setD_getG (k : Core) (r : Fin 32) (v : Leg) (q : Fin 32) : (k.setD r v).getG q = k.getG q := by simp [Core.getG]
@[simp] theorem Core.setD_getP (k : Core) (r : Fin 32) (v : Leg) (q : Fin 8) : (k.setD r v).getP q = k.getP q := by simp [Core.getP]

end Sys2Proof.Machine
end

