-- ==== Sys2Proof/Laws/Ops.lean ====
section
/-! SUPPORT. What the shared operations can do: ECC reads, memory writes, taking a core fault, and the program counter of a core. -/

namespace Sys2Proof.Machine

/-! ### ECC reads -/

/-- A read that meets no marked unit finds nothing and changes nothing. -/
theorem State.eccRead_clean (s : State) (rs : List (Nat × Nat)) (h : ∀ m ∈ s.ecc, unitHit rs m.1 = false) :
    s.eccRead rs = (s, ⟨none, false⟩) := by
  have e : s.ecc.filter (fun m => unitHit rs m.1) = [] := by
    simp only [List.filter_eq_nil_iff]
    intro m hm; simp [h m hm]
  simp only [State.eccRead, e, List.foldl_nil, List.find?_nil, Option.map_none, List.any_nil]

/-- A read with no marked unit in the part. -/
@[simp] theorem State.eccRead_nil (s : State) (rs : List (Nat × Nat)) (h : s.ecc = []) : s.eccRead rs = (s, ⟨none, false⟩) :=
  s.eccRead_clean rs (by simp [h])

@[simp] theorem State.msix_mem (s : State) (fn : Fin 9) (v : Nat) : (s.msix fn v).mem = s.mem := by
  simp only [State.msix]; split <;> rfl

@[simp] theorem State.msix_cores (s : State) (fn : Fin 9) (v : Nat) : (s.msix fn v).cores = s.cores := by
  simp only [State.msix]; split <;> rfl

@[simp] theorem State.pfFault_mem (s : State) (b : Nat) : (s.pfFault b).mem = s.mem := by simp [State.pfFault]

@[simp] theorem State.pfFault_cores (s : State) (b : Nat) : (s.pfFault b).cores = s.cores := by simp [State.pfFault]

@[simp] theorem State.pfEvent_mem (s : State) (b v : Nat) : (s.pfEvent b v).mem = s.mem := by simp [State.pfEvent]

@[simp] theorem State.pfEvent_cores (s : State) (b v : Nat) : (s.pfEvent b v).cores = s.cores := by simp [State.pfEvent]

@[simp] theorem State.pkcRecord_mem (s : State) (r : FRec) : (s.pkcRecord r).mem = s.mem := by
  unfold State.pkcRecord; exact State.modPkg_mem _ _

@[simp] theorem State.pkcRecord_cores (s : State) (r : FRec) : (s.pkcRecord r).cores = s.cores := by
  unfold State.pkcRecord; exact State.modPkg_cores _ _

@[simp] theorem State.fatal_mem (s : State) (r : BitVec 8) : (s.fatal r).mem = s.mem := by
  unfold State.fatal; split
  · rfl
  · simp only [State.pfFault_mem, State.pkcReport, State.pkcRecord_mem, State.modPkg_mem]

@[simp] theorem State.fatal_cores (s : State) (r : BitVec 8) : (s.fatal r).cores = s.cores := by
  unfold State.fatal; split
  · rfl
  · simp only [State.pfFault_cores, State.pkcReport, State.pkcRecord_cores, State.modPkg_cores]

theorem State.uncCounters_mem (s : State) (d u : Fin 8) (a : Nat) : (s.uncCounters d u a).mem = s.mem := by
  unfold State.uncCounters; rw [State.modPkg_mem, State.modDie_mem]

theorem State.uncThreshold_mem (s : State) : s.uncThreshold.mem = s.mem := by
  unfold State.uncThreshold; split
  · exact State.fatal_mem s 1
  · rfl

theorem State.uncUnowned_mem (s : State) (a : Nat) : (s.uncUnowned a).mem = s.mem := by
  unfold State.uncUnowned; split
  · exact State.fatal_mem s 2
  · rfl

@[simp] theorem State.countUnc_mem (s : State) (a : Nat) : (s.countUnc a).mem = s.mem := by
  unfold State.countUnc; split
  · rfl
  · rw [State.uncUnowned_mem, State.uncThreshold_mem, State.uncCounters_mem]

@[simp] theorem State.countCorr_mem (s : State) (d u : Fin 8) : (s.countCorr d u).mem = s.mem := by
  unfold State.countCorr; rw [State.modDie_mem]

@[simp] theorem State.eccMark_mem (s : State) (u : Nat) (k : EccMark) : (s.eccMark u k).mem = s.mem := by
  cases k
  · simp only [State.eccMark]; split
    · rw [State.countCorr_mem]
    · rfl
  · simp only [State.eccMark]; rw [State.countUnc_mem]
  · rfl

theorem State.uncCounters_cores (s : State) (d u : Fin 8) (a : Nat) : (s.uncCounters d u a).cores = s.cores := by
  unfold State.uncCounters; rw [State.modPkg_cores, State.modDie_cores]

theorem State.uncThreshold_cores (s : State) : s.uncThreshold.cores = s.cores := by
  unfold State.uncThreshold; split
  · exact State.fatal_cores s 1
  · rfl

theorem State.uncUnowned_cores (s : State) (a : Nat) : (s.uncUnowned a).cores = s.cores := by
  unfold State.uncUnowned; split
  · exact State.fatal_cores s 2
  · rfl

@[simp] theorem State.countUnc_cores (s : State) (a : Nat) : (s.countUnc a).cores = s.cores := by
  unfold State.countUnc; split
  · rfl
  · rw [State.uncUnowned_cores, State.uncThreshold_cores, State.uncCounters_cores]

@[simp] theorem State.countCorr_cores (s : State) (d u : Fin 8) : (s.countCorr d u).cores = s.cores := by
  unfold State.countCorr; rw [State.modDie_cores]

@[simp] theorem State.eccMark_cores (s : State) (u : Nat) (k : EccMark) : (s.eccMark u k).cores = s.cores := by
  cases k
  · simp only [State.eccMark]; split
    · rw [State.countCorr_cores]
    · rfl
  · simp only [State.eccMark]; rw [State.countUnc_cores]
  · rfl

/-- A read through ECC changes no byte of memory: it corrects, marks, counts and reports. -/
@[simp] theorem State.eccRead_mem (s : State) (rs : List (Nat × Nat)) : (s.eccRead rs).1.mem = s.mem := by
  simp only [State.eccRead]
  generalize s.ecc.filter _ = l
  induction l generalizing s with
  | nil => rfl
  | cons m l ih => rw [List.foldl_cons, ih]; simp

/-- A read through ECC changes no core. -/
@[simp] theorem State.eccRead_cores (s : State) (rs : List (Nat × Nat)) : (s.eccRead rs).1.cores = s.cores := by
  simp only [State.eccRead]
  generalize s.ecc.filter _ = l
  induction l generalizing s with
  | nil => rfl
  | cons m l ih => rw [List.foldl_cons, ih]; simp

@[simp] theorem State.eccRead_core (s : State) (rs : List (Nat × Nat)) (c : CoreId) : (s.eccRead rs).1.core c = s.core c :=
  State.core_congr (s.eccRead_cores rs) c

/-! ### Memory writes -/

/-- The read of a read-modify-write changes no byte of memory. -/
@[simp] theorem State.partialRead_mem (s : State) (a n : Nat) : (s.partialRead a n).mem = s.mem := by
  simp only [State.partialRead]
  generalize s.ecc.filter _ = l
  induction l generalizing s with
  | nil => rfl
  | cons m l ih => rw [List.foldl_cons, ih]; simp

/-- The read of a read-modify-write changes no core. -/
@[simp] theorem State.partialRead_cores (s : State) (a n : Nat) : (s.partialRead a n).cores = s.cores := by
  simp only [State.partialRead]
  generalize s.ecc.filter _ = l
  induction l generalizing s with
  | nil => rfl
  | cons m l ih => rw [List.foldl_cons, ih]; simp

/-- A write through ECC keeps the canonical form. -/
theorem State.memWrite_wf {s : State} (h : s.mem.wf = true) (a : Nat) (bs : List Byte) : (s.memWrite a bs).mem.wf = true := by
  unfold State.memWrite
  split
  · exact Memory.wf_write bs a h
  · generalize bs.zipIdx = l
    simp only [State.partialRead_mem]
    generalize (s.partialRead a bs.length).ecc = e
    generalize s.mem = m at h
    induction l generalizing m with
    | nil => exact h
    | cons p l ih =>
      rw [List.foldl_cons]
      apply ih
      split
      · exact h
      · exact Memory.wf_set h _ _

@[simp] theorem State.memWrite_cores (s : State) (a : Nat) (bs : List Byte) : (s.memWrite a bs).cores = s.cores := by
  unfold State.memWrite; split <;> simp

@[simp] theorem State.memWrite_core (s : State) (a : Nat) (bs : List Byte) (c : CoreId) : (s.memWrite a bs).core c = s.core c :=
  State.core_congr (s.memWrite_cores a bs) c

/-- With no marked unit a write is a plain write. -/
theorem State.memWrite_plain {s : State} (h : s.ecc = []) (a : Nat) (bs : List Byte) : s.memWrite a bs = { s with mem := s.mem.write a bs } := by
  simp [State.memWrite, h]

/-- A byte outside the written range reads as before. -/
theorem State.memWrite_get_other {s : State} (h : s.mem.wf = true) {a x : Nat} {bs : List Byte} (o : x < a ∨ a + bs.length ≤ x) :
    (s.memWrite a bs).mem.get x = s.mem.get x := by
  unfold State.memWrite
  split
  · exact Memory.get_write_other h o
  · simp only [State.partialRead_mem]
    have key : ∀ (bad : Nat → Bool) (l : List (Byte × Nat)) (m : Memory), m.wf = true → (∀ p ∈ l, a + p.2 ≠ x) →
        (l.foldl (fun m p => if bad (a + p.2) then m else m.set (a + p.2) p.1) m).get x = m.get x := by
      intro bad l
      induction l with
      | nil => intros; rfl
      | cons p l ih =>
        intro m hm hl
        rw [List.foldl_cons]
        have hp : a + p.2 ≠ x := hl p (by simp)
        have hl' : ∀ q ∈ l, a + q.2 ≠ x := fun q hq => hl q (by simp [hq])
        split
        · exact ih m hm hl'
        · rw [ih _ (Memory.wf_set hm _ _) hl', Memory.get_set hm, if_neg (fun e => hp e.symm)]
    refine key (fun y => (s.partialRead a bs.length).ecc.any (fun m => decide (m.1 = unitOf y) && decide (m.2 ≠ .corr) &&
      !(decide (a ≤ m.1) && decide (m.1 + unitLen m.1 ≤ a + bs.length)))) _ _ h ?_
    intro p hp
    have := List.snd_lt_of_mem_zipIdx hp
    omega

/-- A write of some bits of a byte through ECC keeps the canonical form. -/
theorem State.memBits_wf {s : State} (h : s.mem.wf = true) (a lo bits v : Nat) : (s.memBits a lo bits v).mem.wf = true := by
  unfold State.memBits
  split
  · exact Memory.wf_setBits h a lo bits v
  · simp only
    split <;> simp [h, Memory.wf_setBits]

/-- Zeroing a range keeps the canonical form. -/
theorem State.memZero_wf {s : State} (h : s.mem.wf = true) (lo hi : Nat) : (s.memZero lo hi).mem.wf = true := Memory.wf_zero h lo hi

/-! ### Taking a core fault (R48, R514) -/

theorem State.writeRec_wf {s : State} (h : s.mem.wf = true) (c : CoreId) (r : FRec) : (s.writeRec c r).mem.wf = true := by
  simp only [State.writeRec, State.modCore_mem]; exact State.memWrite_wf h _ _

@[simp] theorem State.coreRecEvent_mem (s : State) (n : Fin 8) : (s.coreRecEvent n).mem = s.mem := by
  simp only [State.coreRecEvent]
  split
  · simp
  · split <;> simp

@[simp] theorem State.coreRecEvent_cores (s : State) (n : Fin 8) : (s.coreRecEvent n).cores = s.cores := by
  simp only [State.coreRecEvent]
  split
  · simp
  · split <;> simp

/-- Two cores that differ in their pool contexts at most. -/
def Core.likePools (k j : Core) : Prop := k = { j with pools := k.pools }

theorem Core.likePools_refl (k : Core) : k.likePools k := rfl

theorem Core.likePools_trans {a b d : Core} (h : a.likePools b) (g : b.likePools d) : a.likePools d := by
  unfold Core.likePools at *
  rw [h, g]

/-- A slot that waits no longer touches nothing of a core but POOLSTAT.WAITING. -/
theorem State.unwait_core (s : State) (c e : CoreId) (n : Fin 16) : ((s.unwait c n).core e).likePools (s.core e) := by
  unfold State.unwait
  split
  · have h : ∀ (f : Core → Core), vget (vget (s.cores.map (fun row => row.map f)) e.die) e.core = f (s.core e) := by
      intro f; simp only [vget, Vector.getElem_map, State.core]
    exact (congrArg (Core.likePools · (s.core e)) (h _)).mpr rfl
  · exact Core.likePools_refl _

theorem State.unwaitAll_core (s : State) (c e : CoreId) : ((s.unwaitAll c).core e).likePools (s.core e) := by
  unfold State.unwaitAll
  generalize fins 16 = l
  induction l generalizing s with
  | nil => exact Core.likePools_refl _
  | cons n l ih => rw [List.foldl_cons]; exact Core.likePools_trans (ih _) (s.unwait_core c e n)

@[simp] theorem State.unwait_mem (s : State) (c : CoreId) (n : Fin 16) : (s.unwait c n).mem = s.mem := by unfold State.unwait; split <;> rfl

@[simp] theorem State.unwaitAll_mem (s : State) (c : CoreId) : (s.unwaitAll c).mem = s.mem := by
  unfold State.unwaitAll
  generalize fins 16 = l
  induction l generalizing s with
  | nil => rfl
  | cons n l ih => rw [List.foldl_cons, ih, State.unwait_mem]

/-- Reports of several records change no memory. -/
theorem State.foldl_coreRecEvent_mem {α : Type} (l : List α) (p : Fin 8) (s : State) :
    (l.foldl (fun s _ => s.coreRecEvent p) s).mem = s.mem := by
  induction l generalizing s with
  | nil => rfl
  | cons _ l ih => rw [List.foldl_cons, ih, State.coreRecEvent_mem]

/-- Reports of several records change no core. -/
theorem State.foldl_coreRecEvent_cores {α : Type} (l : List α) (p : Fin 8) (s : State) :
    (l.foldl (fun s _ => s.coreRecEvent p) s).cores = s.cores := by
  induction l generalizing s with
  | nil => rfl
  | cons _ l ih => rw [List.foldl_cons, ih, State.coreRecEvent_cores]

theorem State.coreFaults_wf {s : State} (h : s.mem.wf = true) (c : CoreId) (rs : List FRec) (n : Nat) : (s.coreFaults c rs n).mem.wf = true := by
  have key : ∀ (l : List FRec) (s : State), s.mem.wf = true → (l.foldl (fun s r => s.writeRec c r) s).mem.wf = true := by
    intro l
    induction l with
    | nil => exact fun s h => h
    | cons r l ih => intro s h; exact ih _ (State.writeRec_wf h c r)
  simp only [State.coreFaults]
  split
  · exact h
  · split
    · simp only [State.foldl_coreRecEvent_mem, State.modCore_mem]; exact key _ _ ((s.unwaitAll_mem c).symm ▸ h)
    · exact key _ _ ((s.unwaitAll_mem c).symm ▸ h)

theorem State.coreFault_wf {s : State} (h : s.mem.wf = true) (c : CoreId) (r : FRec) : (s.coreFault c r).mem.wf = true :=
  State.coreFaults_wf h c [r] 0

/-- A second fault of a core only adds to SUPPRESSED (R514). -/
theorem State.coreFault_again {s : State} {c : CoreId} (h : (s.core c).fring.faulted = true) (r : FRec) :
    s.coreFault c r = s.modCore c (fun k => { k with fring := { k.fring with suppressed := satAdd k.fring.suppressed 1 } }) := by
  simp [State.coreFault, State.coreFaults, h]

theorem State.writeRec_core_ne (s : State) {c e : CoreId} (r : FRec) (h : e ≠ c) : (s.writeRec c r).core e = s.core e := by
  simp only [State.writeRec]; rw [State.core_modCore_ne _ _ h]; simp

/-- A core fault touches nothing of another core but the WAITING bits of its pool contexts (R48, R328). -/
theorem State.coreFaults_core_ne (s : State) {c e : CoreId} (rs : List FRec) (n : Nat) (h : e ≠ c) : ((s.coreFaults c rs n).core e).likePools (s.core e) := by
  have key : ∀ (l : List FRec) (s : State), (l.foldl (fun s r => s.writeRec c r) s).core e = s.core e := by
    intro l
    induction l with
    | nil => intro s; rfl
    | cons r l ih => intro s; rw [List.foldl_cons, ih, State.writeRec_core_ne _ _ h]
  simp only [State.coreFaults]
  split
  · rw [State.core_modCore_ne _ _ h]; exact Core.likePools_refl _
  · split
    · rw [State.core_congr (State.foldl_coreRecEvent_cores _ _ _) e, State.core_modCore_ne _ _ h, key]; exact s.unwaitAll_core c e
    · rw [State.core_modCore_ne _ _ h, key]; exact s.unwaitAll_core c e

/-! ### The program counter (R24, R342) -/

/-- Where no loop body ends, control goes on at the next instruction. -/
theorem loopNext_none {pc : Nat} {ls : List LoopRec} (h : ∀ l ∈ ls.head?, l.stop ≠ pc) : loopNext pc ls = (pc, ls) := by
  cases ls with
  | nil => rfl
  | cons l ls => have : l.stop ≠ pc := h l (by simp); simp [loopNext, this]

/-- Control goes on inside the text where no loop body ends. -/
theorem State.reach_plain {s : State} {c : CoreId} {pc : Nat} (h : ∀ l ∈ (s.core c).loops.head?, l.stop ≠ pc) (t : pc < (s.core c).textLen) :
    s.reach c pc = s.modCore c (fun k => { k with pc := BitVec.ofNat 32 pc }) := by
  have e := loopNext_none h
  have t' : ¬ pc ≥ (s.core c).textLen := by omega
  simp only [State.reach, e]
  rw [if_neg t']
  simp only [State.modCore]

/-- The same at the end of an instruction of `n` words. -/
theorem State.advance_plain {s : State} {c : CoreId} {n : Nat} (h : ∀ l ∈ (s.core c).loops.head?, l.stop ≠ (s.core c).pc.toNat + 8 * n)
    (t : (s.core c).pc.toNat + 8 * n < (s.core c).textLen) :
    s.advance c n = s.modCore c (fun k => { k with pc := BitVec.ofNat 32 ((s.core c).pc.toNat + 8 * n) }) :=
  State.reach_plain h t

theorem State.reach_wf {s : State} (h : s.mem.wf = true) (c : CoreId) (pc : Nat) : (s.reach c pc).mem.wf = true := by
  simp only [State.reach]
  split
  · exact State.coreFault_wf h _ _
  · exact h

theorem State.advance_wf {s : State} (h : s.mem.wf = true) (c : CoreId) (n : Nat) : (s.advance c n).mem.wf = true := State.reach_wf h _ _

theorem State.reach_core_ne (s : State) {c e : CoreId} (pc : Nat) (h : e ≠ c) : ((s.reach c pc).core e).likePools (s.core e) := by
  simp only [State.reach]
  split
  · exact State.coreFaults_core_ne _ _ _ h
  · rw [State.core_modCore_ne _ _ h]; exact Core.likePools_refl _

theorem State.advance_core_ne (s : State) {c e : CoreId} (n : Nat) (h : e ≠ c) : ((s.advance c n).core e).likePools (s.core e) := s.reach_core_ne _ h

end Sys2Proof.Machine
end

