-- ==== Sys2Proof/Laws/Issue.lean ====
section
/-! SUPPORT. What the issue of an instruction can do, case by case, and pieces of it (R18 to R24, R339, R340). -/

namespace Sys2Proof.Machine

/-- Nothing stands in the way of an instruction: its core runs, its words are clean, its predicate reads 1, its encoding is good and no operand is owed. -/
structure State.Free (s : State) (i : Instr) (c : CoreId) (p : Fin 8) : Prop where
  die : s.hasDie c.die = true
  ready : (s.core c).ready = true
  clean : ∀ m ∈ s.ecc, unitHit [(clmAddr c + (s.core c).pc.toNat, 8 * iwords i)] m.1 = false
  pred : (s.core c).getP p = true
  settled : p = 0 ∨ (s.pendingP c).contains p = false
  enc : (i.encOk && i.accOk) = true
  paid : s.owed c i = false

/-- A free instruction whose own condition holds has its effect. -/
theorem State.issue_free {s : State} {i : Instr} {c : CoreId} {p : Fin 8} {may : State → Bool} {f : State → State}
    (h : s.Free i c p) (m : may s = true) : s.issue i c p may f = .next (f s) := by
  have hp : ¬(p ≠ 0 ∧ (s.pendingP c).contains p = true) := by
    rintro ⟨h1, h2⟩
    rcases h.settled with h3 | h3
    · exact h1 h3
    · rw [h2] at h3; cases h3
  simp only [State.issue, h.die, h.ready, Bool.not_true, Bool.false_eq_true, if_false, State.eccRead_clean s _ h.clean, hp, h.pred, h.enc, h.paid, m]

/-- A free instruction whose own condition fails stalls. -/
theorem State.issue_stalls {s : State} {i : Instr} {c : CoreId} {p : Fin 8} {may : State → Bool} {f : State → State}
    (h : s.Free i c p) (m : may s = false) : s.issue i c p may f = .next (s.stallOn c i) := by
  have hp : ¬(p ≠ 0 ∧ (s.pendingP c).contains p = true) := by
    rintro ⟨h1, h2⟩
    rcases h.settled with h3 | h3
    · exact h1 h3
    · rw [h2] at h3; cases h3
  simp only [State.issue, h.die, h.ready, Bool.not_true, Bool.false_eq_true, if_false, State.eccRead_clean s _ h.clean, hp, h.pred, h.enc, h.paid, m,
    Bool.not_false, if_true]

/-- On a core of the variant every issue answers a next state: one of the seven outcomes of the issue. -/
theorem State.issue_cases (s : State) (i : Instr) (c : CoreId) (p : Fin 8) (may : State → Bool) (f : State → State) (d : s.hasDie c.die = true) :
    s.issue i c p may f = .next s ∨
    (∃ a, s.issue i c p may f = .next ((s.eccRead [(clmAddr c + (s.core c).pc.toNat, 8 * iwords i)]).1.uncFault c 0x0802 (s.core c).pc 0 a)) ∨
    (let r := (s.eccRead [(clmAddr c + (s.core c).pc.toNat, 8 * iwords i)]).1
     s.issue i c p may f = .next (r.stallOn c i) ∨
     s.issue i c p may f = .next (r.advance c (iwords i)) ∨
     s.issue i c p may f = .next (r.illegal c .encoding (s.core c).pc (badWord i)) ∨
     (s.issue i c p may f = .next (f r) ∧ may r = true ∧ (s.core c).getP p = true ∧ (i.encOk && i.accOk) = true)) := by
  simp only [State.issue, d, Bool.not_true, Bool.false_eq_true, if_false]
  by_cases hr : (s.core c).ready = true
  · simp only [hr, Bool.not_true, Bool.false_eq_true, if_false]
    right
    generalize he : s.eccRead [(clmAddr c + (s.core c).pc.toNat, 8 * iwords i)] = e
    obtain ⟨r, x⟩ := e
    have hc : r.core c = s.core c := by
      have := s.eccRead_core [(clmAddr c + (s.core c).pc.toNat, 8 * iwords i)] c
      rw [he] at this; exact this
    simp only
    split
    · exact .inl ⟨_, rfl⟩
    · right
      split
      · exact .inl rfl
      · split
        · exact .inr (.inl rfl)
        · rename_i hg
          split
          · exact .inr (.inr (.inl rfl))
          · rename_i hk
            split
            · exact .inl rfl
            · split
              · exact .inl rfl
              · rename_i hm
                refine .inr (.inr (.inr ⟨rfl, ?_, ?_, ?_⟩))
                · simpa using hm
                · rw [← hc]; simpa using hg
                · simpa using hk
  · have hr' : (s.core c).ready = false := by simpa using hr
    simp only [hr', Bool.not_false, if_true]
    exact .inl trivial

/-- On a die that the variant does not have an issue changes nothing. -/
theorem State.issue_noDie {s : State} {c : CoreId} (d : s.hasDie c.die = false) (i : Instr) (p : Fin 8) (may : State → Bool) (f : State → State) :
    s.issue i c p may f = .next s := by
  simp [State.issue, d]

@[simp] theorem State.takeSeq_fst (s : State) (c : CoreId) : (s.takeSeq c).1 = (s.core c).seq := rfl

@[simp] theorem State.takeSeq_snd (s : State) (c : CoreId) : (s.takeSeq c).2 = s.modCore c (fun k => { k with seq := k.seq + 1 }) := rfl

end Sys2Proof.Machine
end

