-- ==== Sys2Proof/Laws/PerInstr.lean ====
section
/-! SUPPORT. Of every instruction, as syntax: its encoding fills bits 48:0 with fields that hold their values, under a class of 4 bits and an opcode of 6 (R335). -/

namespace Sys2Proof.Laws.Fields

open Sys2Proof

/-- A list of fields fills `n` bits, and every value fits its field. -/
def Fits (l : List (Nat × Nat)) (n : Nat) : Prop := (l.map Prod.snd).sum = n ∧ ∀ f ∈ l, f.1 < 2 ^ f.2

/-- The encoding of an instruction, where it has one: class, opcode, operand fields and extension word fit their places (R335, R336). -/
def Statement (i : Instr) : Prop :=
  ∀ e, i.enc = some e → e.cls < 16 ∧ e.op < 64 ∧ Fits e.body 49 ∧ (∀ x, e.ext = some x → Fits x 64)

/-! ### Layouts -/

theorem laya_fits (l : LayA) : Fits l.fields 49 := by
  refine ⟨by simp only [LayA.fields, List.map_cons, List.map_nil, List.sum_cons, List.sum_nil]; rfl, ?_⟩
  simp only [LayA.fields, List.mem_cons, List.not_mem_nil, or_false, forall_eq_or_imp, forall_eq]
  refine ⟨(l.imm).isLt, Bool.toNat_lt l.u, l.rb.isLt, l.ra.isLt, l.rd.isLt, Bool.toNat_lt l.im⟩

theorem layf_fits (l : LayF) (form : Nat) (h : form < 2) : Fits (l.fields form) 49 := by
  refine ⟨by simp only [LayF.fields, List.map_cons, List.map_nil, List.sum_cons, List.sum_nil]; rfl, ?_⟩
  simp only [LayF.fields, List.mem_cons, List.not_mem_nil, or_false, forall_eq_or_imp, forall_eq]
  refine ⟨by decide, l.ra.isLt, l.sem.isLt, by omega, (l.mask).isLt⟩

theorem layl_fits (l : LayL) : Fits l.fields 49 := by
  refine ⟨by simp only [LayL.fields, List.map_cons, List.map_nil, List.sum_cons, List.sum_nil]; rfl, ?_⟩
  simp only [LayL.fields, List.mem_cons, List.not_mem_nil, or_false, forall_eq_or_imp, forall_eq]
  refine ⟨(l.imm).isLt, by decide, (l.space).isLt, Bool.toNat_lt l.sx, (l.size).isLt, l.ra.isLt, l.r.isLt, by decide⟩

theorem layset_fits (l : LaySet) : Fits l.fields 49 := by
  refine ⟨by simp only [LaySet.fields, List.map_cons, List.map_nil, List.sum_cons, List.sum_nil]; rfl, ?_⟩
  simp only [LaySet.fields, List.mem_cons, List.not_mem_nil, or_false, forall_eq_or_imp, forall_eq]
  refine ⟨(l.imm).isLt, by decide, Bool.toNat_lt l.tbl, l.ra.isLt, l.dd.isLt, by decide⟩

theorem laymod_fits (l : LayMod) : Fits l.fields 49 := by
  refine ⟨by simp only [LayMod.fields, List.map_cons, List.map_nil, List.sum_cons, List.sum_nil]; rfl, ?_⟩
  simp only [LayMod.fields, List.mem_cons, List.not_mem_nil, or_false, forall_eq_or_imp, forall_eq]
  refine ⟨(l.imm).isLt, by decide, (l.field).isLt, l.ra.isLt, l.dd.isLt, Bool.toNat_lt l.im⟩

theorem layview_fits (l : LayView) : Fits l.fields 49 := by
  refine ⟨by simp only [LayView.fields, List.map_cons, List.map_nil, List.sum_cons, List.sum_nil]; rfl, ?_⟩
  simp only [LayView.fields, List.mem_cons, List.not_mem_nil, or_false, forall_eq_or_imp, forall_eq]
  refine ⟨by decide, l.rc.isLt, l.rb.isLt, l.ra.isLt, l.ds.isLt, l.dd.isLt, by decide⟩

theorem lays_fits (l : LayS) : Fits l.fields 49 := by
  refine ⟨by simp only [LayS.fields, List.map_cons, List.map_nil, List.sum_cons, List.sum_nil]; rfl, ?_⟩
  simp only [LayS.fields, List.mem_cons, List.not_mem_nil, or_false, forall_eq_or_imp, forall_eq]
  refine ⟨by decide, l.esem.isLt, Bool.toNat_lt l.een, l.done.isLt, Bool.toNat_lt l.den, l.rcount.isLt, Bool.toNat_lt l.sstrict, Bool.toNat_lt l.lite, Bool.toNat_lt l.merge, Bool.toNat_lt l.idxq, l.idx.isLt, l.dst.isLt, l.src.isLt, l.slot.isLt, by decide⟩

theorem layx_fits (l : LayX) : Fits l.fields 64 := by
  refine ⟨by simp only [LayX.fields, List.map_cons, List.map_nil, List.sum_cons, List.sum_nil]; rfl, ?_⟩
  simp only [LayX.fields, List.mem_cons, List.not_mem_nil, or_false, forall_eq_or_imp, forall_eq]
  refine ⟨by decide, (l.grp).isLt, Bool.toNat_lt l.gkind, l.msem.isLt, Bool.toNat_lt l.men, (l.pgran).isLt, l.prog.isLt, Bool.toNat_lt l.pen⟩

theorem layc_fits (l : LayC) : Fits l.fields 49 := by
  refine ⟨by simp only [LayC.fields, List.map_cons, List.map_nil, List.sum_cons, List.sum_nil]; rfl, ?_⟩
  simp only [LayC.fields, List.mem_cons, List.not_mem_nil, or_false, forall_eq_or_imp, forall_eq]
  refine ⟨by decide, (l.bcvt).isLt, Bool.toNat_lt l.bce, (l.acvt).isLt, Bool.toNat_lt l.ace, l.re.isLt, l.rx.isLt, Bool.toNat_lt l.ovf, (l.rmode).isLt, (l.exwMode).isLt, Bool.toNat_lt l.exact', (l.bclass).isLt, (l.aclass).isLt, Bool.toNat_lt l.kind, (l.acc).isLt, Bool.toNat_lt l.dual, l.ctx.isLt, l.array.isLt⟩

theorem layp_fits (l : LayP) : Fits l.fields 49 := by
  refine ⟨by simp only [LayP.fields, List.map_cons, List.map_nil, List.sum_cons, List.sum_nil]; rfl, ?_⟩
  simp only [LayP.fields, List.mem_cons, List.not_mem_nil, or_false, forall_eq_or_imp, forall_eq]
  refine ⟨Bool.toNat_lt l.wgt, l.free.isLt, Bool.toNat_lt l.fen, l.done.isLt, Bool.toNat_lt l.den, l.rt.isLt, l.ro.isLt, l.rk.isLt, l.dc.isLt, l.db.isLt, l.da.isLt, Bool.toNat_lt l.fin, Bool.toNat_lt l.start, l.ctx.isLt, l.array.isLt⟩

theorem layr_fits (l : LayR) (form : Nat) (h : form < 4) : Fits (l.fields form) 49 := by
  refine ⟨by simp only [LayR.fields, List.map_cons, List.map_nil, List.sum_cons, List.sum_nil]; rfl, ?_⟩
  simp only [LayR.fields, List.mem_cons, List.not_mem_nil, or_false, forall_eq_or_imp, forall_eq]
  refine ⟨by decide, l.done.isLt, Bool.toNat_lt l.den, l.rt.isLt, l.ro.isLt, by decide, l.rd.isLt, l.rs.isLt, l.d.isLt, by omega, l.ctx.isLt, l.array.isLt⟩

theorem layj_fits (l : LayJ) : Fits l.fields 49 := by
  refine ⟨by simp only [LayJ.fields, List.map_cons, List.map_nil, List.sum_cons, List.sum_nil]; rfl, ?_⟩
  simp only [LayJ.fields, List.mem_cons, List.not_mem_nil, or_false, forall_eq_or_imp, forall_eq]
  refine ⟨by decide, l.gc.isLt, l.pd.isLt, l.rt.isLt, Bool.toNat_lt l.tsrc, (l.kind).isLt, l.d2.isLt, l.ds.isLt⟩

theorem layd_fits (l : LayD) : Fits l.fields 64 := by
  refine ⟨by simp only [LayD.fields, List.map_cons, List.map_nil, List.sum_cons, List.sum_nil]; rfl, ?_⟩
  simp only [LayD.fields, List.mem_cons, List.not_mem_nil, or_false, forall_eq_or_imp, forall_eq]
  refine ⟨by decide, l.rowsem.isLt, by decide, l.re.isLt, l.rx.isLt, Bool.toNat_lt l.ovf, (l.rmode).isLt, (l.exwMode).isLt, Bool.toNat_lt l.exact', (l.bclass).isLt, (l.aclass).isLt, Bool.toNat_lt l.kind, (l.acc).isLt⟩

theorem layv_fits (l : LayV) : Fits l.fields 49 := by
  refine ⟨by simp only [LayV.fields, List.map_cons, List.map_nil, List.sum_cons, List.sum_nil]; rfl, ?_⟩
  simp only [LayV.fields, List.mem_cons, List.not_mem_nil, or_false, forall_eq_or_imp, forall_eq]
  refine ⟨(l.opt).isLt, l.done.isLt, Bool.toNat_lt l.den, Bool.toNat_lt l.stw, l.rw.isLt, l.rs.isLt, by decide, Bool.toNat_lt l.ovf, (l.rmode).isLt, Bool.toNat_lt l.scal, l.dz.isLt, l.dy.isLt, l.dx.isLt, l.dd.isLt⟩

theorem layy_fits (l : LayY) : Fits l.fields 49 := by
  refine ⟨by simp only [LayY.fields, List.map_cons, List.map_nil, List.sum_cons, List.sum_nil]; rfl, ?_⟩
  simp only [LayY.fields, List.mem_cons, List.not_mem_nil, or_false, forall_eq_or_imp, forall_eq]
  refine ⟨by decide, l.gd.isLt, l.pd.isLt, l.rto.isLt, (l.imm).isLt, l.ra.isLt, Bool.toNat_lt l.im, l.core.isLt, Bool.toNat_lt l.die, l.sem.isLt⟩

theorem layb_fits (l : LayB) : Fits l.fields 49 := by
  refine ⟨by simp only [LayB.fields, List.map_cons, List.map_nil, List.sum_cons, List.sum_nil]; rfl, ?_⟩
  simp only [LayB.fields, List.mem_cons, List.not_mem_nil, or_false, forall_eq_or_imp, forall_eq]
  refine ⟨by decide, l.pd.isLt, l.rto.isLt, by decide, l.ch.isLt⟩

theorem layt_fits (l : LayT) (form : Nat) (h : form < 4) : Fits (l.fields form) 49 := by
  refine ⟨by simp only [LayT.fields, List.map_cons, List.map_nil, List.sum_cons, List.sum_nil]; rfl, ?_⟩
  simp only [LayT.fields, List.mem_cons, List.not_mem_nil, or_false, forall_eq_or_imp, forall_eq]
  refine ⟨by decide, l.gd.isLt, by decide, l.ra.isLt, by decide, by omega, l.k.isLt⟩

theorem layq_fits (l : LayQ) : Fits l.fields 49 := by
  refine ⟨by simp only [LayQ.fields, List.map_cons, List.map_nil, List.sum_cons, List.sum_nil]; rfl, ?_⟩
  simp only [LayQ.fields, List.mem_cons, List.not_mem_nil, or_false, forall_eq_or_imp, forall_eq]
  refine ⟨by decide, l.gd.isLt, by decide, l.ra.isLt, by decide, Bool.toNat_lt l.eop, Bool.toNat_lt l.sop, l.q.isLt⟩

theorem layk_fits (l : LayK) : Fits l.fields 49 := by
  refine ⟨by simp only [LayK.fields, List.map_cons, List.map_nil, List.sum_cons, List.sum_nil]; rfl, ?_⟩
  simp only [LayK.fields, List.mem_cons, List.not_mem_nil, or_false, forall_eq_or_imp, forall_eq]
  refine ⟨by decide, l.done.isLt, Bool.toNat_lt l.den, l.rt.isLt, l.ro.isLt, (l.acvt).isLt, Bool.toNat_lt l.ace, l.rd.isLt, l.db.isLt, l.da.isLt, by decide, l.array.isLt⟩

theorem cc_num_lt (cc : CC) : cc.num < 10 := by cases cc <;> decide

theorem no_ext {n : Nat} : ∀ x, (none : Option (List (Nat × Nat))) = some x → Fits x n := by intro x h; cases h

theorem one_ext {y : List (Nat × Nat)} {n : Nat} (h : Fits y n) : ∀ x, some y = some x → Fits x n := by intro x e; cases e; exact h

theorem x_ext (o : Option LayX) : ∀ x, o.map LayX.fields = some x → Fits x 64 := by
  intro x e; cases o with
  | none => cases e
  | some y => cases e; exact layx_fits y

theorem w_ext (o : Option Word) : ∀ x, o.map (fun w => [(w.toNat, 64)]) = some x → Fits x 64 := by
  intro x e; cases o with
  | none => cases e
  | some y =>
    cases e
    exact ⟨rfl, by intro f hf; simp only [List.mem_cons, List.not_mem_nil, or_false] at hf; subst hf; exact y.isLt⟩

/-! ### One lemma for each constructor -/

theorem nop (c : CoreId) (p : Fin 8) (l : LayA) : Statement (.nop c p l) := by
  intro e h; cases h; exact ⟨(by decide : (0 : Nat) < 16), (by decide : (0 : Nat) < 64), laya_fits l, no_ext⟩
theorem jmp (c : CoreId) (p : Fin 8) (l : LayA) : Statement (.jmp c p l) := by
  intro e h; cases h; exact ⟨(by decide : (0 : Nat) < 16), (by decide : (1 : Nat) < 64), laya_fits l, no_ext⟩
theorem call (c : CoreId) (p : Fin 8) (l : LayA) : Statement (.call c p l) := by
  intro e h; cases h; exact ⟨(by decide : (0 : Nat) < 16), (by decide : (2 : Nat) < 64), laya_fits l, no_ext⟩
theorem ret (c : CoreId) (p : Fin 8) (l : LayA) : Statement (.ret c p l) := by
  intro e h; cases h; exact ⟨(by decide : (0 : Nat) < 16), (by decide : (3 : Nat) < 64), laya_fits l, no_ext⟩
theorem loop (c : CoreId) (p : Fin 8) (l : LayA) : Statement (.loop c p l) := by
  intro e h; cases h; exact ⟨(by decide : (0 : Nat) < 16), (by decide : (4 : Nat) < 64), laya_fits l, no_ext⟩
theorem halt (c : CoreId) (p : Fin 8) (l : LayA) : Statement (.halt c p l) := by
  intro e h; cases h; exact ⟨(by decide : (0 : Nat) < 16), (by decide : (5 : Nat) < 64), laya_fits l, no_ext⟩
theorem trap (c : CoreId) (p : Fin 8) (l : LayA) : Statement (.trap c p l) := by
  intro e h; cases h; exact ⟨(by decide : (0 : Nat) < 16), (by decide : (6 : Nat) < 64), laya_fits l, no_ext⟩
theorem fenceKSem (c : CoreId) (p : Fin 8) (l : LayF) : Statement (.fenceKSem c p l) := by
  intro e h; cases h; exact ⟨(by decide : (0 : Nat) < 16), (by decide : (7 : Nat) < 64), layf_fits l 0 (by decide), no_ext⟩
theorem fenceKDrain (c : CoreId) (p : Fin 8) (l : LayF) : Statement (.fenceKDrain c p l) := by
  intro e h; cases h; exact ⟨(by decide : (0 : Nat) < 16), (by decide : (7 : Nat) < 64), layf_fits l 1 (by decide), no_ext⟩
theorem br (c : CoreId) (p : Fin 8) (cc : CC) (l : LayA) : Statement (.br c p cc l) := by
  intro e h; cases h; exact ⟨(by decide : (0 : Nat) < 16), (by have := cc_num_lt cc; omega : 16 + cc.num < 64), laya_fits l, no_ext⟩
theorem add (c : CoreId) (p : Fin 8) (l : LayA) : Statement (.add c p l) := by
  intro e h; cases h; exact ⟨(by decide : (1 : Nat) < 16), (by decide : (0 : Nat) < 64), laya_fits l, no_ext⟩
theorem sub (c : CoreId) (p : Fin 8) (l : LayA) : Statement (.sub c p l) := by
  intro e h; cases h; exact ⟨(by decide : (1 : Nat) < 16), (by decide : (1 : Nat) < 64), laya_fits l, no_ext⟩
theorem mul (c : CoreId) (p : Fin 8) (l : LayA) : Statement (.mul c p l) := by
  intro e h; cases h; exact ⟨(by decide : (1 : Nat) < 16), (by decide : (2 : Nat) < 64), laya_fits l, no_ext⟩
theorem and (c : CoreId) (p : Fin 8) (l : LayA) : Statement (.and c p l) := by
  intro e h; cases h; exact ⟨(by decide : (1 : Nat) < 16), (by decide : (3 : Nat) < 64), laya_fits l, no_ext⟩
theorem or (c : CoreId) (p : Fin 8) (l : LayA) : Statement (.or c p l) := by
  intro e h; cases h; exact ⟨(by decide : (1 : Nat) < 16), (by decide : (4 : Nat) < 64), laya_fits l, no_ext⟩
theorem xor (c : CoreId) (p : Fin 8) (l : LayA) : Statement (.xor c p l) := by
  intro e h; cases h; exact ⟨(by decide : (1 : Nat) < 16), (by decide : (5 : Nat) < 64), laya_fits l, no_ext⟩
theorem shl (c : CoreId) (p : Fin 8) (l : LayA) : Statement (.shl c p l) := by
  intro e h; cases h; exact ⟨(by decide : (1 : Nat) < 16), (by decide : (6 : Nat) < 64), laya_fits l, no_ext⟩
theorem shr (c : CoreId) (p : Fin 8) (l : LayA) : Statement (.shr c p l) := by
  intro e h; cases h; exact ⟨(by decide : (1 : Nat) < 16), (by decide : (7 : Nat) < 64), laya_fits l, no_ext⟩
theorem sar (c : CoreId) (p : Fin 8) (l : LayA) : Statement (.sar c p l) := by
  intro e h; cases h; exact ⟨(by decide : (1 : Nat) < 16), (by decide : (8 : Nat) < 64), laya_fits l, no_ext⟩
theorem min (c : CoreId) (p : Fin 8) (l : LayA) : Statement (.min c p l) := by
  intro e h; cases h; exact ⟨(by decide : (1 : Nat) < 16), (by decide : (9 : Nat) < 64), laya_fits l, no_ext⟩
theorem max (c : CoreId) (p : Fin 8) (l : LayA) : Statement (.max c p l) := by
  intro e h; cases h; exact ⟨(by decide : (1 : Nat) < 16), (by decide : (10 : Nat) < 64), laya_fits l, no_ext⟩
theorem li (c : CoreId) (p : Fin 8) (l : LayA) (x : Option Word) : Statement (.li c p l x) := by
  intro e h; cases h; exact ⟨(by decide : (1 : Nat) < 16), (by decide : (11 : Nat) < 64), laya_fits l, w_ext x⟩
theorem sel (c : CoreId) (p : Fin 8) (l : LayA) : Statement (.sel c p l) := by
  intro e h; cases h; exact ⟨(by decide : (1 : Nat) < 16), (by decide : (12 : Nat) < 64), laya_fits l, no_ext⟩
theorem cmp (c : CoreId) (p : Fin 8) (cc : CC) (l : LayA) : Statement (.cmp c p cc l) := by
  intro e h; cases h; exact ⟨(by decide : (1 : Nat) < 16), (by have := cc_num_lt cc; omega : 16 + cc.num < 64), laya_fits l, no_ext⟩
theorem ld (c : CoreId) (p : Fin 8) (l : LayL) (h : HostEnd) (v : Word) : Statement (.ld c p l h v) := by
  intro e h; cases h; exact ⟨(by decide : (2 : Nat) < 16), (by decide : (0 : Nat) < 64), layl_fits l, no_ext⟩
theorem st (c : CoreId) (p : Fin 8) (l : LayL) : Statement (.st c p l) := by
  intro e h; cases h; exact ⟨(by decide : (2 : Nat) < 16), (by decide : (1 : Nat) < 64), layl_fits l, no_ext⟩
theorem csrRd (c : CoreId) (p : Fin 8) (l : LayL) : Statement (.csrRd c p l) := by
  intro e h; cases h; exact ⟨(by decide : (2 : Nat) < 16), (by decide : (2 : Nat) < 64), layl_fits l, no_ext⟩
theorem csrWr (c : CoreId) (p : Fin 8) (l : LayL) : Statement (.csrWr c p l) := by
  intro e h; cases h; exact ⟨(by decide : (2 : Nat) < 16), (by decide : (3 : Nat) < 64), layl_fits l, no_ext⟩
theorem lgSet (c : CoreId) (p : Fin 8) (l : LaySet) : Statement (.lgSet c p l) := by
  intro e h; cases h; exact ⟨(by decide : (2 : Nat) < 16), (by decide : (8 : Nat) < 64), layset_fits l, no_ext⟩
theorem lgMod (c : CoreId) (p : Fin 8) (l : LayMod) : Statement (.lgMod c p l) := by
  intro e h; cases h; exact ⟨(by decide : (2 : Nat) < 16), (by decide : (9 : Nat) < 64), laymod_fits l, no_ext⟩
theorem lgView (c : CoreId) (p : Fin 8) (l : LayView) : Statement (.lgView c p l) := by
  intro e h; cases h; exact ⟨(by decide : (2 : Nat) < 16), (by decide : (10 : Nat) < 64), layview_fits l, no_ext⟩
theorem strLoad (c : CoreId) (p : Fin 8) (l : LayS) (x : Option LayX) : Statement (.strLoad c p l x) := by
  intro e h; cases h; exact ⟨(by decide : (3 : Nat) < 16), (by decide : (0 : Nat) < 64), lays_fits l, x_ext x⟩
theorem strStore (c : CoreId) (p : Fin 8) (l : LayS) (x : Option LayX) : Statement (.strStore c p l x) := by
  intro e h; cases h; exact ⟨(by decide : (3 : Nat) < 16), (by decide : (1 : Nat) < 64), lays_fits l, x_ext x⟩
theorem strGather (c : CoreId) (p : Fin 8) (l : LayS) (x : Option LayX) : Statement (.strGather c p l x) := by
  intro e h; cases h; exact ⟨(by decide : (3 : Nat) < 16), (by decide : (2 : Nat) < 64), lays_fits l, x_ext x⟩
theorem strMcast (c : CoreId) (p : Fin 8) (l : LayS) (x : LayX) : Statement (.strMcast c p l x) := by
  intro e h; cases h; exact ⟨(by decide : (3 : Nat) < 16), (by decide : (3 : Nat) < 64), lays_fits l, one_ext (layx_fits x)⟩
theorem strRate (c : CoreId) (p : Fin 8) (l : LayS) : Statement (.strRate c p l) := by
  intro e h; cases h; exact ⟨(by decide : (3 : Nat) < 16), (by decide : (8 : Nat) < 64), lays_fits l, no_ext⟩
theorem strResume (c : CoreId) (p : Fin 8) (l : LayS) : Statement (.strResume c p l) := by
  intro e h; cases h; exact ⟨(by decide : (3 : Nat) < 16), (by decide : (9 : Nat) < 64), lays_fits l, no_ext⟩
theorem strAbort (c : CoreId) (p : Fin 8) (l : LayS) : Statement (.strAbort c p l) := by
  intro e h; cases h; exact ⟨(by decide : (3 : Nat) < 16), (by decide : (10 : Nat) < 64), lays_fits l, no_ext⟩
theorem arrCfg (c : CoreId) (p : Fin 8) (l : LayC) : Statement (.arrCfg c p l) := by
  intro e h; cases h; exact ⟨(by decide : (4 : Nat) < 16), (by decide : (0 : Nat) < 64), layc_fits l, no_ext⟩
theorem arrMm (c : CoreId) (p : Fin 8) (l : LayP) : Statement (.arrMm c p l) := by
  intro e h; cases h; exact ⟨(by decide : (4 : Nat) < 16), (by decide : (1 : Nat) < 64), layp_fits l, no_ext⟩
theorem arrDrainPlain (c : CoreId) (p : Fin 8) (l : LayR) : Statement (.arrDrainPlain c p l) := by
  intro e h; cases h; exact ⟨(by decide : (4 : Nat) < 16), (by decide : (2 : Nat) < 64), layr_fits l 0 (by decide), no_ext⟩
theorem arrDrainExw (c : CoreId) (p : Fin 8) (l : LayR) : Statement (.arrDrainExw c p l) := by
  intro e h; cases h; exact ⟨(by decide : (4 : Nat) < 16), (by decide : (2 : Nat) < 64), layr_fits l 1 (by decide), no_ext⟩
theorem arrDrainExwAdd (c : CoreId) (p : Fin 8) (l : LayR) : Statement (.arrDrainExwAdd c p l) := by
  intro e h; cases h; exact ⟨(by decide : (4 : Nat) < 16), (by decide : (2 : Nat) < 64), layr_fits l 2 (by decide), no_ext⟩
theorem arrSave (c : CoreId) (p : Fin 8) (l : LayR) : Statement (.arrSave c p l) := by
  intro e h; cases h; exact ⟨(by decide : (4 : Nat) < 16), (by decide : (3 : Nat) < 64), layr_fits l 0 (by decide), no_ext⟩
theorem arrLoad (c : CoreId) (p : Fin 8) (l : LayR) : Statement (.arrLoad c p l) := by
  intro e h; cases h; exact ⟨(by decide : (4 : Nat) < 16), (by decide : (4 : Nat) < 64), layr_fits l 0 (by decide), no_ext⟩
theorem jctRoute (c : CoreId) (p : Fin 8) (l : LayJ) : Statement (.jctRoute c p l) := by
  intro e h; cases h; exact ⟨(by decide : (5 : Nat) < 16), (by decide : (0 : Nat) < 64), layj_fits l, no_ext⟩
theorem jctSpmm (c : CoreId) (p : Fin 8) (l : LayP) (d : LayD) : Statement (.jctSpmm c p l d) := by
  intro e h; cases h; exact ⟨(by decide : (5 : Nat) < 16), (by decide : (1 : Nat) < 64), layp_fits l, one_ext (layd_fits d)⟩
theorem jctSpdot (c : CoreId) (p : Fin 8) (l : LayP) (d : LayD) : Statement (.jctSpdot c p l d) := by
  intro e h; cases h; exact ⟨(by decide : (5 : Nat) < 16), (by decide : (2 : Nat) < 64), layp_fits l, one_ext (layd_fits d)⟩
theorem jctBag (c : CoreId) (p : Fin 8) (l : LayP) (d : LayD) : Statement (.jctBag c p l d) := by
  intro e h; cases h; exact ⟨(by decide : (5 : Nat) < 16), (by decide : (3 : Nat) < 64), layp_fits l, one_ext (layd_fits d)⟩
theorem jctDrain (c : CoreId) (p : Fin 8) (l : LayR) : Statement (.jctDrain c p l) := by
  intro e h; cases h; exact ⟨(by decide : (5 : Nat) < 16), (by decide : (4 : Nat) < 64), layr_fits l 0 (by decide), no_ext⟩
theorem vAdd (c : CoreId) (p : Fin 8) (l : LayV) : Statement (.vAdd c p l) := by
  intro e h; cases h; exact ⟨(by decide : (6 : Nat) < 16), (by decide : (0 : Nat) < 64), layv_fits l, no_ext⟩
theorem vMul (c : CoreId) (p : Fin 8) (l : LayV) : Statement (.vMul c p l) := by
  intro e h; cases h; exact ⟨(by decide : (6 : Nat) < 16), (by decide : (1 : Nat) < 64), layv_fits l, no_ext⟩
theorem vFma (c : CoreId) (p : Fin 8) (l : LayV) : Statement (.vFma c p l) := by
  intro e h; cases h; exact ⟨(by decide : (6 : Nat) < 16), (by decide : (2 : Nat) < 64), layv_fits l, no_ext⟩
theorem vMax (c : CoreId) (p : Fin 8) (l : LayV) : Statement (.vMax c p l) := by
  intro e h; cases h; exact ⟨(by decide : (6 : Nat) < 16), (by decide : (3 : Nat) < 64), layv_fits l, no_ext⟩
theorem vExp (c : CoreId) (p : Fin 8) (l : LayV) : Statement (.vExp c p l) := by
  intro e h; cases h; exact ⟨(by decide : (6 : Nat) < 16), (by decide : (4 : Nat) < 64), layv_fits l, no_ext⟩
theorem vRsqrt (c : CoreId) (p : Fin 8) (l : LayV) : Statement (.vRsqrt c p l) := by
  intro e h; cases h; exact ⟨(by decide : (6 : Nat) < 16), (by decide : (5 : Nat) < 64), layv_fits l, no_ext⟩
theorem vCvt (c : CoreId) (p : Fin 8) (l : LayV) : Statement (.vCvt c p l) := by
  intro e h; cases h; exact ⟨(by decide : (6 : Nat) < 16), (by decide : (6 : Nat) < 64), layv_fits l, no_ext⟩
theorem vReduce (c : CoreId) (p : Fin 8) (l : LayV) : Statement (.vReduce c p l) := by
  intro e h; cases h; exact ⟨(by decide : (6 : Nat) < 16), (by decide : (7 : Nat) < 64), layv_fits l, no_ext⟩
theorem vNorm2 (c : CoreId) (p : Fin 8) (l : LayV) : Statement (.vNorm2 c p l) := by
  intro e h; cases h; exact ⟨(by decide : (6 : Nat) < 16), (by decide : (8 : Nat) < 64), layv_fits l, no_ext⟩
theorem vLd (c : CoreId) (p : Fin 8) (l : LayV) : Statement (.vLd c p l) := by
  intro e h; cases h; exact ⟨(by decide : (6 : Nat) < 16), (by decide : (9 : Nat) < 64), layv_fits l, no_ext⟩
theorem vSt (c : CoreId) (p : Fin 8) (l : LayV) : Statement (.vSt c p l) := by
  intro e h; cases h; exact ⟨(by decide : (6 : Nat) < 16), (by decide : (10 : Nat) < 64), layv_fits l, no_ext⟩
theorem semAdd (c : CoreId) (p : Fin 8) (l : LayY) : Statement (.semAdd c p l) := by
  intro e h; cases h; exact ⟨(by decide : (7 : Nat) < 16), (by decide : (0 : Nat) < 64), layy_fits l, no_ext⟩
theorem semSub (c : CoreId) (p : Fin 8) (l : LayY) : Statement (.semSub c p l) := by
  intro e h; cases h; exact ⟨(by decide : (7 : Nat) < 16), (by decide : (1 : Nat) < 64), layy_fits l, no_ext⟩
theorem semWait (c : CoreId) (p : Fin 8) (l : LayY) : Statement (.semWait c p l) := by
  intro e h; cases h; exact ⟨(by decide : (7 : Nat) < 16), (by decide : (2 : Nat) < 64), layy_fits l, no_ext⟩
theorem semTake (c : CoreId) (p : Fin 8) (l : LayY) : Statement (.semTake c p l) := by
  intro e h; cases h; exact ⟨(by decide : (7 : Nat) < 16), (by decide : (3 : Nat) < 64), layy_fits l, no_ext⟩
theorem semRead (c : CoreId) (p : Fin 8) (l : LayY) : Statement (.semRead c p l) := by
  intro e h; cases h; exact ⟨(by decide : (7 : Nat) < 16), (by decide : (4 : Nat) < 64), layy_fits l, no_ext⟩
theorem barArrive (c : CoreId) (p : Fin 8) (l : LayB) : Statement (.barArrive c p l) := by
  intro e h; cases h; exact ⟨(by decide : (7 : Nat) < 16), (by decide : (8 : Nat) < 64), layb_fits l, no_ext⟩
theorem barWait (c : CoreId) (p : Fin 8) (l : LayB) : Statement (.barWait c p l) := by
  intro e h; cases h; exact ⟨(by decide : (7 : Nat) < 16), (by decide : (9 : Nat) < 64), layb_fits l, no_ext⟩
theorem dspTake (c : CoreId) (p : Fin 8) (l : LayT) : Statement (.dspTake c p l) := by
  intro e h; cases h; exact ⟨(by decide : (7 : Nat) < 16), (by decide : (16 : Nat) < 64), layt_fits l (2 * l.retire.toNat) (by cases l.retire <;> decide), no_ext⟩
theorem dspSetLimit (c : CoreId) (p : Fin 8) (l : LayT) : Statement (.dspSetLimit c p l) := by
  intro e h; cases h; exact ⟨(by decide : (7 : Nat) < 16), (by decide : (17 : Nat) < 64), layt_fits l 0 (by decide), no_ext⟩
theorem dspSetNext (c : CoreId) (p : Fin 8) (l : LayT) : Statement (.dspSetNext c p l) := by
  intro e h; cases h; exact ⟨(by decide : (7 : Nat) < 16), (by decide : (17 : Nat) < 64), layt_fits l 1 (by decide), no_ext⟩
theorem dspSetRetire (c : CoreId) (p : Fin 8) (l : LayT) : Statement (.dspSetRetire c p l) := by
  intro e h; cases h; exact ⟨(by decide : (7 : Nat) < 16), (by decide : (17 : Nat) < 64), layt_fits l 2 (by decide), no_ext⟩
theorem qPush (c : CoreId) (p : Fin 8) (l : LayQ) : Statement (.qPush c p l) := by
  intro e h; cases h; exact ⟨(by decide : (7 : Nat) < 16), (by decide : (24 : Nat) < 64), layq_fits l, no_ext⟩
theorem qPop (c : CoreId) (p : Fin 8) (l : LayQ) : Statement (.qPop c p l) := by
  intro e h; cases h; exact ⟨(by decide : (7 : Nat) < 16), (by decide : (25 : Nat) < 64), layq_fits l, no_ext⟩
theorem sktPass (c : CoreId) (p : Fin 8) (l : LayK) : Statement (.sktPass c p l) := by
  intro e h; cases h; exact ⟨(by decide : (8 : Nat) < 16), (by decide : (0 : Nat) < 64), layk_fits l, no_ext⟩
theorem sktSelect (c : CoreId) (p : Fin 8) (l : LayK) : Statement (.sktSelect c p l) := by
  intro e h; cases h; exact ⟨(by decide : (8 : Nat) < 16), (by decide : (1 : Nat) < 64), layk_fits l, no_ext⟩
theorem sktAudit (c : CoreId) (p : Fin 8) (l : LayK) : Statement (.sktAudit c p l) := by
  intro e h; cases h; exact ⟨(by decide : (8 : Nat) < 16), (by decide : (2 : Nat) < 64), layk_fits l, no_ext⟩
theorem queueRoomIssue (c : CoreId) : Statement (.queueRoomIssue c) := by intro e h; cases h
theorem pendingResultArrive (c : CoreId) (r : Fin 32) : Statement (.pendingResultArrive c r) := by intro e h; cases h
theorem engineCommandBegin (c : CoreId) (u : Unit') : Statement (.engineCommandBegin c u) := by intro e h; cases h
theorem fenceOpen (c : CoreId) (e : Engine) : Statement (.fenceOpen c e) := by intro e h; cases h
theorem arrFreePost (c : CoreId) (a : ArrPath) : Statement (.arrFreePost c a) := by intro e h; cases h
theorem arrBankSwitch (c : CoreId) (a : ArrBlocks) : Statement (.arrBankSwitch c a) := by intro e h; cases h
theorem exwChunkAddComplete (c : CoreId) (e : Engine) : Statement (.exwChunkAddComplete c e) := by intro e h; cases h
theorem arrDrainComplete (c : CoreId) (a : Fin 2) : Statement (.arrDrainComplete c a) := by intro e h; cases h
theorem arrSaveComplete (c : CoreId) (a : Fin 2) : Statement (.arrSaveComplete c a) := by intro e h; cases h
theorem strictViolationFault (c : CoreId) (e : Engine) : Statement (.strictViolationFault c e) := by intro e h; cases h
theorem metaErr (c : CoreId) (e : Engine) : Statement (.metaErr c e) := by intro e h; cases h
theorem jctRouteComplete (c : CoreId) : Statement (.jctRouteComplete c) := by intro e h; cases h
theorem jctTileEnd (c : CoreId) : Statement (.jctTileEnd c) := by intro e h; cases h
theorem jctDrainComplete (c : CoreId) : Statement (.jctDrainComplete c) := by intro e h; cases h
theorem sktPassComplete (c : CoreId) (a : Fin 2) : Statement (.sktPassComplete c a) := by intro e h; cases h
theorem sktSelectComplete (c : CoreId) : Statement (.sktSelectComplete c) := by intro e h; cases h
theorem sktAuditComplete (c : CoreId) : Statement (.sktAuditComplete c) := by intro e h; cases h
theorem vecComplete (c : CoreId) : Statement (.vecComplete c) := by intro e h; cases h
theorem coreHaltReport (c : CoreId) : Statement (.coreHaltReport c) := by intro e h; cases h
theorem haltComplete (c : CoreId) : Statement (.haltComplete c) := by intro e h; cases h
theorem taskEnd (n : Fin 8) : Statement (.taskEnd n) := by intro e h; cases h
theorem transferIssue (c : CoreId) (n : Fin 16) : Statement (.transferIssue c n) := by intro e h; cases h
theorem transferDeliver (c : CoreId) (n : Fin 16) (t : Nat) (data : List Byte) (h : HostEnd) : Statement (.transferDeliver c n t data h) := by intro e h; cases h
theorem mergeCloseTimeout (c : CoreId) (n : Fin 16) : Statement (.mergeCloseTimeout c n) := by intro e h; cases h
theorem slotPagingSave (c : CoreId) (n : Fin 16) : Statement (.slotPagingSave c n) := by intro e h; cases h
theorem pageRequestSend (c : CoreId) (n : Fin 16) : Statement (.pageRequestSend c n) := by intro e h; cases h
theorem prgResponse (f : Fin 9) (prg : Nat) (ok : Bool) : Statement (.prgResponse f prg ok) := by intro e h; cases h
theorem streamStop (c : CoreId) (n : Fin 16) : Statement (.streamStop c n) := by intro e h; cases h
theorem atsTranslationComplete (f : Fin 9) (addr : AtsRange) (size : Nat) (rd wr : Bool) : Statement (.atsTranslationComplete f addr size rd wr) := by intro e h; cases h
theorem atsInvalidate (f : Fin 9) (addr size tag : Nat) : Statement (.atsInvalidate f addr size tag) := by intro e h; cases h
theorem poolRelease (a : Agent) (t : PoolAt) (v : Word) : Statement (.poolRelease a t v) := by intro e h; cases h
theorem queuePushPortWrite (a : Agent) (c : CoreId) (q : Fin 8) (full : Bool) (v : Word) : Statement (.queuePushPortWrite a c q full v) := by intro e h; cases h
theorem sempostAdd (a : Agent) (c : CoreId) (n : Fin 64) (full : PostForm) (amt : BitVec 32) : Statement (.sempostAdd a c n full amt) := by intro e h; cases h
theorem sempostSub (a : Agent) (c : CoreId) (n : Fin 64) (full : PostForm) (amt : BitVec 32) : Statement (.sempostSub a c n full amt) := by intro e h; cases h
theorem waitTimeout (c : CoreId) : Statement (.waitTimeout c) := by intro e h; cases h
theorem stall (c : CoreId) : Statement (.stall c) := by intro e h; cases h
theorem coreGate (c : CoreId) : Statement (.coreGate c) := by intro e h; cases h
theorem coreWake (c : CoreId) : Statement (.coreWake c) := by intro e h; cases h
theorem coreCollapse (c : CoreId) : Statement (.coreCollapse c) := by intro e h; cases h
theorem coreUncollapse (c : CoreId) : Statement (.coreUncollapse c) := by intro e h; cases h
theorem dspCtlHostWrite (f : Fin 9) (d : Fin 8) (k : Fin 16) (v : Word) : Statement (.dspCtlHostWrite f d k v) := by intro e h; cases h
theorem sqTailDoorbell (f : Fin 9) (v : Word) : Statement (.sqTailDoorbell f v) := by intro e h; cases h
theorem cqHeadDoorbell (f : Fin 9) (v : Word) : Statement (.cqHeadDoorbell f v) := by intro e h; cases h
theorem ringCfgWrite (f : Fin 9) (v : Word) : Statement (.ringCfgWrite f v) := by intro e h; cases h
theorem cqIrqWrite (f : Fin 9) (v : Word) : Statement (.cqIrqWrite f v) := by intro e h; cases h
theorem submissionFetch (f : Fin 9) (e : List Byte) : Statement (.submissionFetch f e) := by intro e h; cases h
theorem load (f : Fin 9) (cid : BitVec 16) : Statement (.load f cid) := by intro e h; cases h
theorem abort (f : Fin 9) (cid : BitVec 16) : Statement (.abort f cid) := by intro e h; cases h
theorem setRole (f : Fin 9) (cid : BitVec 16) : Statement (.setRole f cid) := by intro e h; cases h
theorem addMember (f : Fin 9) (cid : BitVec 16) : Statement (.addMember f cid) := by intro e h; cases h
theorem submitJob (f : Fin 9) (cid : BitVec 16) : Statement (.submitJob f cid) := by intro e h; cases h
theorem completionWrite (f : Fin 9) : Statement (.completionWrite f) := by intro e h; cases h
theorem cqInterruptTimeout (f : Fin 9) : Statement (.cqInterruptTimeout f) := by intro e h; cases h
theorem msixUnmask (f : Fin 9) (v : Fin 128) : Statement (.msixUnmask f v) := by intro e h; cases h
theorem hostBar2Write (f : Fin 9) (off : Nat) (data : List Byte) (ep : Bool) : Statement (.hostBar2Write f off data ep) := by intro e h; cases h
theorem hostBar2Read (f : Fin 9) (off len : Nat) : Statement (.hostBar2Read f off len) := by intro e h; cases h
theorem registerWrite (f : Fin 9) (w : HostWrite) : Statement (.registerWrite f w) := by intro e h; cases h
theorem flrVf (n : Fin 8) : Statement (.flrVf n) := by intro e h; cases h
theorem flrPf : Statement (.flrPf) := by intro e h; cases h
theorem workListReceive (w : WorkList) : Statement (.workListReceive w) := by intro e h; cases h
theorem mailboxWrite (f : Fin 9) (d : Fin 8) (second : Bool) (v : Word) : Statement (.mailboxWrite f d second v) := by intro e h; cases h
theorem grpDoneWrite (f : Fin 9) (d : Fin 8) (v : Word) : Statement (.grpDoneWrite f d v) := by intro e h; cases h
theorem completionAccept (src : BitVec 12) (epoch : BitVec 32) (slot : Fin 64) (step : BitVec 16) : Statement (.completionAccept src epoch slot step) := by intro e h; cases h
theorem heartbeatTimer : Statement (.heartbeatTimer) := by intro e h; cases h
theorem heartbeatReceive (src : BitVec 12) (epoch : BitVec 32) (fault : Bool) : Statement (.heartbeatReceive src epoch fault) := by intro e h; cases h
theorem heartbeatCheck : Statement (.heartbeatCheck) := by intro e h; cases h
theorem epochReceive (m : EpochMsg) : Statement (.epochReceive m) := by intro e h; cases h
theorem epochAckReceive (src : BitVec 12) (epoch : BitVec 32) : Statement (.epochAckReceive src epoch) := by intro e h; cases h
theorem epochAckTimeout : Statement (.epochAckTimeout) := by intro e h; cases h
theorem surveyTimer : Statement (.surveyTimer) := by intro e h; cases h
theorem surveyRequestReceive (src : BitVec 12) (num : SurveyNum) (epoch : BitVec 32) : Statement (.surveyRequestReceive src num epoch) := by intro e h; cases h
theorem surveyReplyReceive (src : BitVec 12) (num : SurveyNum) (epoch : BitVec 32) (lo hi : Leg) (count : Nat) : Statement (.surveyReplyReceive src num epoch lo hi count) := by intro e h; cases h
theorem surveyChildTimeout : Statement (.surveyChildTimeout) := by intro e h; cases h
theorem surveyDigestTimeout : Statement (.surveyDigestTimeout) := by intro e h; cases h
theorem carReceive (l : Fin 72) (fec : FecCheck) (car : List Byte) : Statement (.carReceive l fec car) := by intro e h; cases h
theorem railWrite : Statement (.railWrite) := by intro e h; cases h
theorem railRead : Statement (.railRead) := by intro e h; cases h
theorem railMcwrite : Statement (.railMcwrite) := by intro e h; cases h
theorem railReadResp : Statement (.railReadResp) := by intro e h; cases h
theorem railWriteAck : Statement (.railWriteAck) := by intro e h; cases h
theorem railErr : Statement (.railErr) := by intro e h; cases h
theorem railReduce : Statement (.railReduce) := by intro e h; cases h
theorem railBarrier (m : BarMsg) : Statement (.railBarrier m) := by intro e h; cases h
theorem railCtrl (m : CtrlMsg) : Statement (.railCtrl m) := by intro e h; cases h
theorem replayTimeout (l : Fin 72) : Statement (.replayTimeout l) := by intro e h; cases h
theorem nakRepeat (l : Fin 72) : Statement (.nakRepeat l) := by intro e h; cases h
theorem groupPadTimeout (l : Fin 72) : Statement (.groupPadTimeout l) := by intro e h; cases h
theorem messageCloseTimeout (c : CoreId) (n : Fin 16) : Statement (.messageCloseTimeout c n) := by intro e h; cases h
theorem responseTimeout (tag : BitVec 16) : Statement (.responseTimeout tag) := by intro e h; cases h
theorem linkTrainingComplete (l : Fin 72) (r : Training) : Statement (.linkTrainingComplete l r) := by intro e h; cases h
theorem linkRetrainTimeout (l : Fin 72) : Statement (.linkRetrainTimeout l) := by intro e h; cases h
theorem linkRetryTimer (l : Fin 72) : Statement (.linkRetryTimer l) := by intro e h; cases h
theorem railIsolationTimeout : Statement (.railIsolationTimeout) := by intro e h; cases h
theorem scrub (a : Nat) (e : Finding) : Statement (.scrub a e) := by intro e h; cases h
theorem eccRateWindow : Statement (.eccRateWindow) := by intro e h; cases h
theorem vauxPor : Statement (.vauxPor) := by intro e h; cases h
theorem coldReset (low : Bool) (strap : Byte) : Statement (.coldReset low strap) := by intro e h; cases h
theorem pwrfail : Statement (.pwrfail) := by intro e h; cases h
theorem brownout : Statement (.brownout) := by intro e h; cases h
theorem sag (mv : BitVec 32) : Statement (.sag mv) := by intro e h; cases h
theorem sagClear : Statement (.sagClear) := by intro e h; cases h
theorem sagHoldExpire : Statement (.sagHoldExpire) := by intro e h; cases h
theorem clkfail : Statement (.clkfail) := by intro e h; cases h
theorem refclkReturn : Statement (.refclkReturn) := by intro e h; cases h
theorem throttle (d : Fin 8) (temp : BitVec 16) : Statement (.throttle d temp) := by intro e h; cases h
theorem hot (d : Fin 8) (temp : BitVec 16) : Statement (.hot d temp) := by intro e h; cases h
theorem thermtrip (d : Fin 8) (temp : BitVec 16) : Statement (.thermtrip d temp) := by intro e h; cases h
theorem regfault : Statement (.regfault) := by intro e h; cases h
theorem perst : Statement (.perst) := by intro e h; cases h
theorem activate : Statement (.activate) := by intro e h; cases h
theorem warm : Statement (.warm) := by intro e h; cases h
theorem dieReset (d : Fin 8) : Statement (.dieReset d) := by intro e h; cases h
theorem coreReset (c : CoreId) : Statement (.coreReset c) := by intro e h; cases h
theorem powerControlStep (r : PowerStep) : Statement (.powerControlStep r) := by intro e h; cases h
theorem pwrCapWrite (v : Word) : Statement (.pwrCapWrite v) := by intro e h; cases h
theorem mgmt (certOk : Bool) : Statement (.mgmt certOk) := by intro e h; cases h
theorem early (stack : Option (Fin 16)) : Statement (.early stack) := by intro e h; cases h
theorem full (tf : Bool) : Statement (.full tf) := by intro e h; cases h
theorem bootPushGo (len : BitVec 25) : Statement (.bootPushGo len) := by intro e h; cases h
theorem bootFailReturn : Statement (.bootFailReturn) := by intro e h; cases h
theorem getMeasurements (r : Requester) (idx : Byte) (nonce : List Byte) : Statement (.getMeasurements r idx nonce) := by intro e h; cases h
theorem getCertificate (r : Requester) (slot : Fin 8) : Statement (.getCertificate r slot) := by intro e h; cases h
theorem challenge (r : Requester) (nonce : List Byte) : Statement (.challenge r nonce) := by intro e h; cases h
theorem keyExchange (r : Requester) (peer : BitVec 12) (rootOk : PeerChain) (debug : Bool) : Statement (.keyExchange r peer rootOk debug) := by intro e h; cases h
theorem setOwner (r : Requester) (ec ml : List Byte) : Statement (.setOwner r ec ml) := by intro e h; cases h
theorem changeOwner (r : Requester) (ec ml : List Byte) (a : OwnerAuth) : Statement (.changeOwner r ec ml a) := by intro e h; cases h
theorem setPolicy (r : Requester) (only : Bool) (a : OwnerAuth) : Statement (.setPolicy r only a) := by intro e h; cases h
theorem clearOwner (r : Requester) (a : OwnerAuth) : Statement (.clearOwner r a) := by intro e h; cases h
theorem getDebugNonce (r : Requester) : Statement (.getDebugNonce r) := by intro e h; cases h
theorem unlockDebug (r : Requester) (t : DbgToken) : Statement (.unlockDebug r t) := by intro e h; cases h
theorem lockInterface (n : Fin 8) (nonce : List Byte) : Statement (.lockInterface n nonce) := by intro e h; cases h
theorem getDeviceInterfaceReport (n : Fin 8) : Statement (.getDeviceInterfaceReport n) := by intro e h; cases h
theorem startInterfaceRequest (n : Fin 8) : Statement (.startInterfaceRequest n) := by intro e h; cases h
theorem stopInterfaceRequest (n : Fin 8) : Statement (.stopInterfaceRequest n) := by intro e h; cases h
theorem keyProg (f : Fin 9) : Statement (.keyProg f) := by intro e h; cases h
theorem kSetStop (f : Fin 9) : Statement (.kSetStop f) := by intro e h; cases h
theorem partitionCreate (n : Fin 8) (w : Word) : Statement (.partitionCreate n w) := by intro e h; cases h
theorem pldmGetSensorReading (id : Byte) (v : Nat) : Statement (.pldmGetSensorReading id v) := by intro e h; cases h
theorem pldmSetEffecter (v : Nat) : Statement (.pldmSetEffecter v) := by intro e h; cases h
theorem pldmGetFruRecord : Statement (.pldmGetFruRecord) := by intro e h; cases h
theorem pldmUpdateComponent (id : Fin 3) (img : List Byte) : Statement (.pldmUpdateComponent id img) := by intro e h; cases h
theorem pldmActivateFirmware : Statement (.pldmActivateFirmware) := by intro e h; cases h
theorem setEndpointId (eid : Byte) : Statement (.setEndpointId eid) := by intro e h; cases h
theorem entdaa (addr : BitVec 7) : Statement (.entdaa addr) := by intro e h; cases h
theorem setdasa (addr : Dasa) : Statement (.setdasa addr) := by intro e h; cases h
theorem rstdaa : Statement (.rstdaa) := by intro e h; cases h
theorem vauxLoss : Statement (.vauxLoss) := by intro e h; cases h
theorem pwrOkRise (strap : Byte) : Statement (.pwrOkRise strap) := by intro e h; cases h
theorem brownoutClear : Statement (.brownoutClear) := by intro e h; cases h
theorem perstDeassert : Statement (.perstDeassert) := by intro e h; cases h
theorem pcieLinkDown : Statement (.pcieLinkDown) := by intro e h; cases h
theorem dieResetComplete (d : Fin 8) : Statement (.dieResetComplete d) := by intro e h; cases h
theorem coreResetComplete (c : CoreId) : Statement (.coreResetComplete c) := by intro e h; cases h
theorem joinTimeout (part : BitVec 12) : Statement (.joinTimeout part) := by intro e h; cases h
theorem delayedEpochRaise : Statement (.delayedEpochRaise) := by intro e h; cases h
theorem debugPortAccess (a : DbgAccess) : Statement (.debugPortAccess a) := by intro e h; cases h
theorem jctFreePost (c : CoreId) : Statement (.jctFreePost c) := by intro e h; cases h

end Sys2Proof.Laws.Fields
end

