-- ==== Sys2Proof/Safety.lean ====
section
/-! DEFINITION. What a safe run is: every step from a state answers a next state. -/

namespace Sys2Proof

open Sys2Proof.Machine

/-- The next `k` steps from `s` all answer a next state. -/
def Safe (s : State) : Nat → Prop
  | 0 => True
  | k + 1 => match Machine.step s with
    | .next t => Safe t k
    | .fault _ => False
    | .refused _ => False

end Sys2Proof
end

