-- ==== Sys2Proof/Tests/Slice0.lean ====
section
/-! SUPPORT. Tests: the spec's own examples, ill-formed commands, and for every statement states and operands that meet the hypotheses of its clauses. -/

namespace Sys2Proof.Tests

set_option Elab.async false

open Sys2Proof Sys2Proof.Machine Sys2Proof.Claims

/-! ### Small states -/

/-- Core 0 of die 0. -/
def c0 : CoreId := ⟨0, 0⟩

/-- A section of partition 0 with text of 4,096 bytes, every semaphore, slot, queue, barrier channel and counter. -/
def sect : Section := ⟨0, 1, 0, 4096, 8192, 65536, 131072, 786432, 0xFFFFFFFFFFFFFFFF, 0xFFFF, 0xFF, 0xFF, 0xFFFF, List.replicate 64 0⟩

/-- A core that runs that section at PC 64. -/
def ready (k : Core) : Core := { k with run := .running, sect := some sect, pc := 64 }

/-- The reset state with core 0 running, and changed by `f`. -/
def at0 (f : Core → Core) : State := State.reset.modCore c0 (fun k => f (ready k))

/-- The state after a step; the state itself where the step stops. -/
def nextOr (s : State) (o : Host.Outcome State Fault Refusal) : State :=
  match o with
  | .next t => t
  | _ => s

/-- Whether an outcome is a next state in which `p` holds. -/
def goes (o : Host.Outcome State Fault Refusal) (p : State → Bool) : Bool :=
  match o with
  | .next t => p t
  | _ => false

theorem next_of_goes {o : Host.Outcome State Fault Refusal} {p : State → Bool} (h : goes o p = true) : ∃ t, o = .next t ∧ p t = true := by
  cases o <;> simp_all [goes]

/-! ### Sequencer: hypotheses met -/

/-- `rd` 1, `ra` 0, an immediate of 5. -/
def ia : LayA := ⟨true, 1, 0, 0, false, 5⟩

/-- `rd` 1, `ra` 2, `rb` 3. -/
def rr : LayA := ⟨false, 1, 2, 3, false, 0⟩

/-- Every field 0. -/
def zz : LayA := ⟨false, 0, 0, 0, false, 0⟩

/-- A jump of `n` words. -/
def jw (n : Nat) : LayA := ⟨true, 0, 0, 0, false, BitVec.ofNat 32 (8 * n)⟩

/-- A `br` of two words over `ra` 2 and `rb` 3. -/
def bw : LayA := ⟨false, 0, 2, 3, false, 16⟩

/-- A `loop` of `n` words, `k` times. -/
def lw (k n : Nat) : LayA := ⟨true, 0, 0, 0, false, BitVec.ofNat 32 (65536 * k + n)⟩

/-- Core 0 runs. -/
def s0 : State := at0 id

/-- Core 0 runs the last word of its text, within no loop. -/
def sEnd : State := at0 (fun k => { k with pc := 4088 })

/-- Core 0 runs with `n` return addresses and `m` loop levels. -/
def sDeep (n m : Nat) : State := at0 (fun k => { k with ret := List.replicate n 128, loops := List.replicate m ⟨64, 256, 3⟩ })

/-- Core 0 runs the last word of a loop body with `n` repeats left, inside another of the same end. -/
def sBody (n : Nat) : State := at0 (fun k => { k with loops := [⟨64, 72, n⟩, ⟨32, 72, 5⟩] })

/-- As `sBody`, the outer body being longer. -/
def sBody2 : State := at0 (fun k => { k with loops := [⟨64, 72, 0⟩, ⟨32, 96, 5⟩] })

theorem test_meets_AluResults :
    Straight s0 c0 1 ∧ Free s0 (.add c0 0 ia) c0 0 ∧ Free s0 (.sub c0 0 ia) c0 0 ∧ Free s0 (.mul c0 0 ia) c0 0 ∧ Free s0 (.and c0 0 ia) c0 0 ∧
    Free s0 (.or c0 0 ia) c0 0 ∧ Free s0 (.xor c0 0 ia) c0 0 ∧ Free s0 (.shl c0 0 ia) c0 0 ∧ Free s0 (.shr c0 0 ia) c0 0 ∧ Free s0 (.sar c0 0 ia) c0 0 ∧
    Free s0 (.min c0 0 ia) c0 0 ∧ Free s0 (.max c0 0 ia) c0 0 := by
  repeat' apply And.intro
  all_goals decide +kernel

theorem test_meets_AluResults_moves :
    Straight s0 c0 1 ∧ Straight s0 c0 2 ∧ Free s0 (.nop c0 0 zz) c0 0 ∧ Free s0 (.li c0 0 ⟨true, 7, 0, 0, false, 9⟩ none) c0 0 ∧
    Free s0 (.li c0 0 ⟨true, 7, 0, 0, false, 0⟩ (some 9)) c0 0 ∧ Free s0 (.sel c0 0 rr) c0 0 ∧ Free s0 (.cmp c0 0 .lt ia) c0 0 := by
  repeat' apply And.intro
  all_goals decide +kernel

theorem test_meets_ControlFlow :
    (Free s0 (.jmp c0 0 (jw 2)) c0 0 ∧ Lands s0 c0 (target (s0.core c0) (jw 2)) false) ∧
    (Free s0 (.call c0 0 (jw 2)) c0 0 ∧ (s0.core c0).ret.length < 16 ∧ Lands s0 c0 (target (s0.core c0) (jw 2)) false) ∧
    (Free (sDeep 1 0) (.ret c0 0 zz) c0 0 ∧ ((sDeep 1 0).core c0).ret = [128] ∧ Lands (sDeep 1 0) c0 128 false) ∧
    (Free s0 (.br c0 0 .eq bw) c0 0 ∧ holds .eq ((s0.core c0).getG 2) ((s0.core c0).getG 3) = true ∧ Lands s0 c0 80 false) ∧
    (Free s0 (.br c0 0 .ne bw) c0 0 ∧ holds .ne ((s0.core c0).getG 2) ((s0.core c0).getG 3) = false ∧ Straight s0 c0 1) ∧
    (Free (sDeep 0 3) (.loop c0 0 (lw 2 4)) c0 0 ∧ Straight (sDeep 0 3) c0 1 ∧ ((sDeep 0 3).core c0).loops.length < 4) ∧
    (Free s0 (.loop c0 0 (lw 0 4)) c0 0 ∧ (s0.core c0).loops = [] ∧ 64 + 8 + 8 * 4 < (s0.core c0).textLen) ∧
    Free s0 (.halt c0 0 zz) c0 0 := by
  repeat' apply And.intro
  all_goals decide +kernel

theorem test_meets_ControlFaults :
    (Free (sDeep 16 0) (.call c0 0 (jw 2)) c0 0 ∧ ((sDeep 16 0).core c0).ret.length = 16) ∧ (Free s0 (.ret c0 0 zz) c0 0 ∧ (s0.core c0).ret = []) ∧
    (Free (sDeep 0 4) (.loop c0 0 (lw 1 4)) c0 0 ∧ ((sDeep 0 4).core c0).loops.length = 4) ∧
    (Free s0 (.jmp c0 0 (jw 504)) c0 0 ∧ ¬Lands s0 c0 (target (s0.core c0) (jw 504)) false) ∧
    (Free sEnd (.nop c0 0 zz) c0 0 ∧ (sEnd.core c0).loops = [] ∧ (sEnd.core c0).textLen ≤ (sEnd.core c0).pc.toNat + 8) ∧
    Free s0 (.trap c0 0 ⟨false, 0, 1, 0, false, 7⟩) c0 0 := by
  repeat' apply And.intro
  all_goals decide +kernel

theorem test_meets_LoopBodyEnd :
    (Free (sBody 2) (.nop c0 0 zz) c0 0 ∧ ((sBody 2).core c0).loops = [⟨64, 72, 2⟩, ⟨32, 72, 5⟩] ∧ 72 = ((sBody 2).core c0).pc.toNat + 8 ∧ 64 < ((sBody 2).core c0).textLen) ∧
    (Free (sBody 0) (.nop c0 0 zz) c0 0 ∧ ((sBody 0).core c0).loops = [⟨64, 72, 0⟩, ⟨32, 72, 5⟩] ∧ 32 < ((sBody 0).core c0).textLen) ∧
    (Free sBody2 (.nop c0 0 zz) c0 0 ∧ (sBody2.core c0).loops = [⟨64, 72, 0⟩, ⟨32, 96, 5⟩] ∧ 72 < (sBody2.core c0).textLen) := by
  repeat' apply And.intro
  all_goals decide +kernel

/-! ### Sequencer: results -/

theorem test_add_wraps : (nextOr s0 (exec (.add c0 0 ⟨true, 1, 1, 0, false, 1⟩) (at0 (fun k => k.setG 1 0xFFFFFFFFFFFFFFFF))) |>.core c0).getG 1 = 0 := by decide +kernel

theorem test_sub_borrows : (nextOr s0 (exec (.sub c0 0 ia) s0) |>.core c0).getG 1 = 0xFFFFFFFFFFFFFFFB := by decide +kernel

theorem test_sar_sign : (nextOr s0 (exec (.sar c0 0 ⟨true, 1, 1, 0, false, 4⟩) (at0 (fun k => k.setG 1 0x8000000000000000))) |>.core c0).getG 1 = 0xF800000000000000 := by
  decide +kernel

theorem test_g0_discards : ((nextOr s0 (exec (.add c0 0 ⟨true, 0, 0, 0, false, 7⟩) s0)).core c0).getG 0 = 0 := by decide +kernel

theorem test_max_unsigned : (nextOr s0 (exec (.max c0 0 ⟨true, 1, 0, 0, true, 0xFFFFFFFF⟩) s0) |>.core c0).getG 1 = 0xFFFFFFFFFFFFFFFF := by decide +kernel

theorem test_call_pushes : ((nextOr s0 (exec (.call c0 0 (jw 2)) s0)).core c0).ret = [72] ∧ ((nextOr s0 (exec (.call c0 0 (jw 2)) s0)).core c0).pc = 80 := by decide +kernel

theorem test_loop_repeats : ((nextOr s0 (exec (.nop c0 0 zz) (sBody 2))).core c0).pc = 64 ∧ ((nextOr s0 (exec (.nop c0 0 zz) (sBody 0))).core c0).pc = 32 := by
  decide +kernel

theorem test_false_predicate : ((nextOr s0 (exec (.add c0 3 ia) s0)).core c0).getG 1 = 0 ∧ ((nextOr s0 (exec (.add c0 3 ia) s0)).core c0).pc = 72 := by decide +kernel

/-! ### `ld`, `st`, CSRs and legends -/

/-- `ld` or `st` of 8 bytes with `r` 1 at the address in `ra` 2. -/
def ml (space : BitVec 2) : LayL := { imm := 0, space := space, sx := false, size := 3, ra := 2, r := 1 }

/-- Partition 0 with 4 GiB of Tier N, 2 GiB of Tier F and every die. -/
def part0 : Word := BitVec.ofNat 64 (4 * 2 ^ 10 + 2 * 2 ^ 32 + 255 * 2 ^ 44 + 2 ^ 52)

/-- A state with that partition at FULL, with Tier F. -/
def parted (s : State) : State := s.modPkg (fun p => { p with partMem := vset p.partMem 0 part0, level := 3, tierF := true, memCfg := memCfgReset 2 64 ||| (1 <<< 5), sec := { p.sec with keys := 1 } })

/-- Core 0 runs in that partition with an address in `g2`. -/
def sAddr (a : Nat) : State := parted (at0 (fun k => k.setG 2 (BitVec.ofNat 64 a)))

/-- A remote or local 8-byte access of Tier N, Tier F, depot, another CLM, the host window and a die's registers. -/
def places : List Nat := [4096, tierFBase + 64, depotAddr 0 + 128, clmAddr ⟨0, 1⟩ + 8192, hostBase + 64, dieRegBase + 64]

theorem test_meets_LdResults :
    (∀ sp ∈ [0, 1, 2], Free (sAddr 8192) (.ld c0 0 (ml (BitVec.ofNat 2 sp)) .good 7) c0 0 ∧ Straight (sAddr 8192) c0 1 ∧
      (memAddr ((sAddr 8192).core c0) (ml (BitVec.ofNat 2 sp))).toNat = 8192 ∧ (sAddr 8192).ecc = [] ∧ ((sAddr 8192).core c0).sect = some sect) ∧
    (∀ a ∈ places, Free (sAddr a) (.ld c0 0 (ml 2) .good 7) c0 0 ∧ Straight (sAddr a) c0 1 ∧ a % 8 = 0 ∧ (sAddr a).devAddr a = .loc a ∧ (sAddr a).inBounds 0 a 8 = true) ∧
    (s0.region (hostBase + 64) = .host 64 ∧ s0.region (dieRegBase + 64) = .dieReg 0 64 ∧ s0.region (depotAddr 0 + 128) = .depot 0 128) := by
  repeat' apply And.intro
  all_goals decide +kernel

/-- A translation of 16 pages from host page 0x8000 to 0x40000 for the PF, which may be read and, with `wr`, written. -/
def atcE (wr : Bool) : AtcEntry := ⟨0, 0x8000, 0x10000, 0x40000, true, wr⟩

/-- `sAddr` of host address 0x9040 with ATS and these translations. -/
def sAts (es : List AtcEntry) : State := ((sAddr (hostBase + 0x9040)).modFn 0 (fun h => { h with ats := true })).modPkg (fun p => { p with atc := es })

/-- The same without translations, these pages having been asked for. -/
def sAsked (asked : List (Fin 9 × Nat)) : State := (sAts []).modPkg (fun p => { p with atsAsked := asked })

theorem test_meets_LdSt_ats :
    (Free (sAts [atcE true]) (.ld c0 0 (ml 2) .good 7) c0 0 ∧ Free (sAts [atcE true]) (.st c0 0 (ml 2)) c0 0 ∧ (sAts [atcE true]).storesOut c0 = false ∧
      Straight (sAts [atcE true]) c0 1 ∧ (sAts [atcE true]).devAddr (hostBase + 0x9040) = .loc (hostBase + 0x9040) ∧ (sAts [atcE true]).inBounds 0 (hostBase + 0x9040) 8 = true ∧
      (sAts [atcE true]).region (hostBase + 0x9040) = .host 0x9040 ∧ (sAts [atcE true]).fnOf 0 = 0 ∧ ((sAts [atcE true]).fn 0).ats = true ∧
      (sAts [atcE true]).atcFind 0 9 = some (atcE true) ∧ (atcE true).rd = true ∧ (atcE true).wr = true) ∧
    (Free (sAts []) (.ld c0 0 (ml 2) .good 7) c0 0 ∧ (sAts []).atcFind 0 9 = none ∧ (sAts []).pkg.atsAsked.contains (0, 9) = false ∧ (sAts []).nonPosted 0 < 1024) ∧
    (∀ asked ∈ [[(0, 9)], List.replicate 1024 (0, 5)], Free (sAsked asked) (.ld c0 0 (ml 2) .good 7) c0 0 ∧ (sAsked asked).atcFind 0 9 = none ∧
      ((sAsked asked).pkg.atsAsked.contains (0, 9) = true ∨ 1024 ≤ (sAsked asked).nonPosted 0)) := by
  repeat' apply And.intro
  all_goals decide +kernel

theorem test_ld_translated : (nextOr s0 (exec (.ld c0 0 (ml 2) .good 7) (sAts [atcE true]))).outbox = [.hostReadTr 0 0x41040 8] ∧
    (nextOr s0 (exec (.ld c0 0 (ml 2) .good 7) (sAts []))).outbox = [.atsRequest 0 0x9000 false] := by decide +kernel

/-- `sAddr` with the poison syndrome in the unit at an address. -/
def sPoison (a : Nat) : State := { sAddr a with ecc := [(clmAddr c0 + a, .poison)] }

theorem test_meets_LdStFaults :
    (Free (sAddr 8193) (.ld c0 0 (ml 0) .good 7) c0 0 ∧ Free (sAddr 8193) (.st c0 0 (ml 0)) c0 0 ∧ (sAddr 8193).storesOut c0 = false ∧
      (memAddr ((sAddr 8193).core c0) (ml 0)).toNat % 8 ≠ 0) ∧
    (Free (sAddr (2 ^ 23)) (.ld c0 0 (ml 0) .good 7) c0 0 ∧ 2 ^ 23 < (memAddr ((sAddr (2 ^ 23)).core c0) (ml 0)).toNat + 8) ∧
    (Free (sAddr (2 ^ 20)) (.ld c0 0 (ml 1) .good 7) c0 0 ∧ 2 ^ 20 ≤ (memAddr ((sAddr (2 ^ 20)).core c0) (ml 1)).toNat) ∧
    (Free (sAddr (4 * gib)) (.ld c0 0 (ml 2) .good 7) c0 0 ∧ (sAddr (4 * gib)).devAddr (4 * gib) = .loc (4 * gib) ∧ (sAddr (4 * gib)).inBounds 0 (4 * gib) 8 = false) ∧
    (∀ x ∈ [(0, 2 ^ 23), (1, 2 ^ 20), (1, 0x4000), (2, 2 ^ 48), (2, 4 * gib)],
      Free (sAddr x.2) (.st c0 0 (ml (BitVec.ofNat 2 x.1))) c0 0 ∧ (sAddr x.2).storesOut c0 = false ∧ x.2 % 8 = 0 ∧ (memAddr ((sAddr x.2).core c0) (ml 0)).toNat = x.2) ∧
    (isDspCtl 0x4000 = true ∧ (sAddr 0).devAddr (2 ^ 48) = .bad ∧ Free (sAddr (2 ^ 48)) (.ld c0 0 (ml 2) .good 7) c0 0) ∧
    (Free (sPoison 8192) (.ld c0 0 (ml 0) .good 7) c0 0 ∧ (sPoison 8192).ecc = [(clmAddr c0 + 8192, .poison)] ∧ unitHit [(clmAddr c0 + 8192, 8)] (clmAddr c0 + 8192) = true) := by
  repeat' apply And.intro
  all_goals decide +kernel

theorem test_meets_StResults :
    (∀ a ∈ [4096, 2 ^ 23 - 8], Free (sAddr a) (.st c0 0 (ml 0)) c0 0 ∧ Straight (sAddr a) c0 1 ∧ (sAddr a).storesOut c0 = false ∧ (sAddr a).textRegion c0 ≤ a) ∧
    (Free (sAddr 4088) (.st c0 0 (ml 0)) c0 0 ∧ 4088 < (sAddr 4088).textRegion c0) ∧ (Free (sAddr 0x3408) (.st c0 0 (ml 1)) c0 0 ∧ isDspCtl 0x3408 = false) ∧
    (∀ a ∈ places, Free (sAddr a) (.st c0 0 (ml 2)) c0 0 ∧ Straight (sAddr a) c0 1 ∧ (sAddr a).storesOut c0 = false ∧ (sAddr a).devAddr a = .loc a ∧ (sAddr a).inBounds 0 a 8 = true) ∧
    ((sAddr 0).region (clmAddr ⟨0, 1⟩ + 8192) = .clm ⟨0, 1⟩ 8192 ∧ (sAddr 0).textRegion ⟨0, 1⟩ ≤ 8192) ∧
    (∃ t, exec (.st c0 0 (ml 0)) (sAddr 8192) = .next t ∧ decide ((t.core c0).fring = ((sAddr 8192).core c0).fring) = true) ∧ (sAddr 8192).mem.wf = true := by
  refine ⟨by decide +kernel, by decide +kernel, by decide +kernel, by decide +kernel, by decide +kernel, next_of_goes ?_, by decide +kernel⟩
  decide +kernel

/-- `csr.rd` or `csr.wr` of CSR `n`. -/
def cr (n : BitVec 32) (r ra : Fin 32) : LayL := { imm := n, space := 0, sx := false, size := 0, ra := ra, r := r }

theorem test_meets_CsrResults :
    (∀ n ∈ [0, 1, 2, 3, 4, 5, 6, 7], Free s0 (.csrRd c0 0 (cr (BitVec.ofNat 32 n) 1 0)) c0 0 ∧ Free s0 (.csrWr c0 0 (cr (BitVec.ofNat 32 n) 0 1)) c0 0) ∧ Straight s0 c0 1 := by
  repeat' apply And.intro
  all_goals decide +kernel

/-- A state whose task has one legend in its table, and whose `d2` is an extended legend. -/
def sLeg : State := (at0 (fun k => k.setD 2 (setFld 0 198 1 1))).modPkg (fun p => { p with legTab := [(1, [7])] })

theorem test_meets_LegendResults :
    (Straight sLeg c0 1 ∧ Free sLeg (.lgSet c0 0 { tbl := false, dd := 1, ra := 0, imm := 8192 }) c0 0 ∧ sLeg.ecc = []) ∧
    (Free sLeg (.lgSet c0 0 { tbl := true, dd := 1, ra := 0, imm := 0 }) c0 0 ∧ (sLeg.core c0).sect = some sect ∧
      sLeg.pkg.legTab.find? (fun e => e.1 = sect.task) = some (sect.task, [7])) ∧
    Free sLeg (.lgMod c0 0 { im := true, dd := 1, ra := 0, field := 1, imm := 5 }) c0 0 ∧
    (Free sLeg (.lgView c0 0 { dd := 1, ds := 0, ra := 0, rb := 0, rc := 0 }) c0 0 ∧ Leg.extd ((sLeg.core c0).getD 0) = false) ∧
    (Free sLeg (.lgView c0 0 { dd := 4, ds := 2, ra := 0, rb := 0, rc := 0 }) c0 0 ∧ Leg.extd ((sLeg.core c0).getD 2) = true) ∧
    Free sLeg (.lgView c0 0 { dd := 31, ds := 2, ra := 0, rb := 0, rc := 0 }) c0 0 ∧
    (Leg.sparse 0 = 0 ∧ Fmt.ofCode (Leg.fmtCode 0) = some .int8 ∧ Fmt.int8.bits % 8 = 0 ∧ Leg.ndim 0 ≤ 2) := by
  repeat' apply And.intro
  all_goals decide +kernel

theorem test_st_stores_little_endian : (nextOr s0 (exec (.st c0 0 (ml 0)) ((sAddr 8192).modCore c0 (fun k => k.setG 1 0x1122334455667788)))).mem.read (clmAddr c0 + 8192) 3 =
    [0x88, 0x77, 0x66] := by decide +kernel

theorem test_ld_sign_extends : (nextOr s0 (exec (.ld c0 0 { ml 0 with size := 1, sx := true } .good 0) { sAddr 8192 with mem := Memory.empty.write (clmAddr c0 + 8192) [0xFE, 0xFF] }) |>.core c0).getG 1 =
    0xFFFFFFFFFFFFFFFE := by decide +kernel

theorem test_st_text_faults : ((nextOr s0 (exec (.st c0 0 (ml 0)) (sAddr 0))).core c0).fring.first = 0x0205 := by decide +kernel

/-! ### Semaphores, barriers, dispatch, queues and pools -/

/-- `sem.*` on semaphore 3 of the same core with the immediate `n`, no timeout and `pd` 1. -/
def ly (n : BitVec 16) : LayY := { sem := 3, die := false, core := 0, im := true, ra := 0, imm := n, rto := 0, pd := 1, gd := 0 }

/-- The layout of `sem.add` and `sem.sub` with the same operands. -/
def lya : LayY := { ly 2 with pd := 0 }

/-- The layout of `sem.read` of semaphore 3 into `g1`. -/
def lyr : LayY := { lya with im := false, imm := 0, gd := 1 }

/-- Core 0 runs with semaphore 3 at `v`, the host being up at FULL. -/
def sSem (v : BitVec 32) : State := (at0 (fun k => { k with sems := vset k.sems 3 v })).modPkg (fun p => { p with pcieUp := true, level := 3 })

/-- The same with a section that declares nothing. -/
def sBare : State := (sSem 5).modCore c0 (fun k => { k with sect := some { sect with semMask := 0 } })

/-- A part of a group whose partition 0 owns die 0, with Rail up. -/
def sRail : State := (parted (sSem 5)).modPkg (fun p => { p with railUp := true, grp := { p.grp with role := 1 } })

/-- Two further posts of an FCLK cycle, one of them subtracting. -/
def more : List PostAt := [⟨.host 0, true, false, 4⟩, ⟨.host 0, true, true, 1⟩]

theorem test_meets_SemaphoreUpdates :
    (Straight (sSem 5) c0 1 ∧ Quiet (sSem 5) c0 3 ∧ boxOf c0 lya = c0) ∧ AtOnce (sSem 5) (.semAdd c0 0 lya) c0 0 ∧ AtOnce (sSem 5) (.semSub c0 0 lya) c0 0 ∧
    (Reaches (sSem 5) (.host 0) c0 ∧ ((sSem 5).core c0).sect = some sect ∧ sect.semMask.getLsbD 3 = true) ∧
    (Reaches sBare (.host 0) c0 ∧ Quiet sBare c0 3 ∧ (sBare.core c0).sect = some { sect with semMask := 0 }) ∧
    (Reaches sRail (.remote 7) c0 ∧ (sRail.core c0).sect = some sect ∧ Quiet sRail c0 3) ∧
    (∀ w ∈ more, w.full = true ∧ Reaches (sSem 5) w.agent c0 ∧ Reaches sBare w.agent c0) := by
  repeat' apply And.intro
  all_goals decide +kernel

/-- A wait on semaphore 3 for 5. -/
def w5 (kind : BitVec 2) : Wait := ⟨kind, 3, 0, 5, true, 2, true⟩

/-- `sSem 5` with that wait at core 0. -/
def sHeld : State := (sSem 5).modCore c0 (fun k => { k with wait := some (w5 1) })

theorem test_meets_SemaphoreWaits :
    (∀ n ∈ [5, 6], AtOnce (sSem 5) (.semWait c0 0 (ly (BitVec.ofNat 16 n))) c0 0 ∧ AtOnce (sSem 5) (.semTake c0 0 (ly (BitVec.ofNat 16 n))) c0 0 ∧
      (decide (((sSem 5).sem c0 3 - amount ((sSem 5).core c0) (ly (BitVec.ofNat 16 n))).toNat < 2 ^ 31) = decide (n = 5))) ∧
    AtOnce (sSem 5) (.semRead c0 0 lyr) c0 0 ∧
    ((sHeld.core c0).wait = some (w5 1) ∧ (sHeld.sem c0 3 - (w5 1).tgt).toNat < 2 ^ 31) := by
  repeat' apply And.intro
  all_goals decide +kernel

/-- Core 0 behind a timed wait of a kind, semaphore 3 being at `v`; a barrier wait is on channel 3 for generation 5. -/
def sTimed (v : BitVec 32) (kind : BitVec 2) : State := (sSem v).modCore c0 (fun k => { k with wait := some (w5 kind) })

/-- Core 0 has shown the picture `still` times without activity, its limit being 10 cycles. -/
def sStill (n : Nat) : State :=
  (sTimed 4 1).modCore c0 (fun k => let k : Core := { k with waitCfg := 10, still := n, moved := false }; { k with seen := some k.act })

theorem test_meets_TimeoutsAndStall :
    (∀ p ∈ [(4, 1), (4, 2), (5, 1)], ((sTimed (BitVec.ofNat 32 p.1) (BitVec.ofNat 2 p.2)).core c0).wait = some (w5 (BitVec.ofNat 2 p.2)) ∧
      ((sTimed (BitVec.ofNat 32 p.1) (BitVec.ofNat 2 p.2)).core c0).run = .running ∧ Straight (sTimed (BitVec.ofNat 32 p.1) (BitVec.ofNat 2 p.2)) c0 1 ∧
      ((sTimed (BitVec.ofNat 32 p.1) (BitVec.ofNat 2 p.2)).core c0).boxOpen.getLsbD 3 = false ∧
      decide (((sTimed (BitVec.ofNat 32 p.1) (BitVec.ofNat 2 p.2)).sem c0 3 - 5).toNat < 2 ^ 31) = decide (p.1 = 5)) ∧
    ((sTimed 4 3).core c0).wait = some (w5 3) ∧
    (∀ n ∈ [9, 10], ((sStill n).core c0).run = .running ∧ ((sStill n).core c0).waitCfg.toNat % 2 ^ 32 = 10 ∧ ((sStill n).core c0).still = n ∧
      ((sStill n).core c0).atWork = false ∧ ((sStill n).core c0).moved = false ∧ ((sStill n).core c0).seen = some ((sStill n).core c0).act) ∧
    (sStill 9).hasDie c0.die = true := by
  repeat' apply And.intro
  all_goals decide +kernel

theorem test_stall_at_limit : ((nextOr s0 (exec (.stall c0) (sStill 10))).core c0).fring.first = 0x0600 ∧ ((nextOr s0 (exec (.stall c0) (sStill 9))).core c0).fring.faulted = false := by
  decide +kernel

theorem test_deadline : ((nextOr s0 (exec (.waitTimeout c0) (sTimed 5 1))).core c0).getP 2 = true ∧ ((nextOr s0 (exec (.waitTimeout c0) (sTimed 4 1))).core c0).getP 2 = false ∧
    ((nextOr s0 (exec (.waitTimeout c0) (sTimed 4 1))).core c0).wait = none := by decide +kernel

/-- The take of 5 sees the sum 2 + 4 - 1 of the posts of a cycle (R311). -/
theorem test_posts_combine : (nextOr s0 (exec (.sempostAdd (.host 0) c0 3 ⟨true, more⟩ 2) (sTimed 0 2))).sem c0 3 = 0 ∧
    ((nextOr s0 (exec (.sempostAdd (.host 0) c0 3 ⟨true, []⟩ 2) (sTimed 0 2))).core c0).wait.isSome = true := by decide +kernel

/-- Core 1 of die 0. -/
def c1 : CoreId := ⟨0, 1⟩

/-- A task of cores 0 and 1 of die 0, of function 0. -/
def task1 : Task := ⟨1, 0, 0, [0], [c0, c1], false, false, [], [], [], 0⟩

/-- Both cores run the task; `arr` says whether core 1 has arrived at channel 2. -/
def sBar (arr : Bool) : State :=
  ((at0 (fun k => { k with bars := vset k.bars 2 ⟨false, 0xFFFFFFFF, 0⟩ })).modCore c1 (fun k => { ready k with bars := vset k.bars 2 ⟨arr, 0xFFFFFFFF, 0⟩ })).modPkg
    (fun p => { p with tasks := [task1] })

/-- `bar.*` on channel 2. -/
def lb (pd : Fin 8) : LayB := ⟨2, 0, pd⟩

/-- Core 0 behind a `bar.arrive` whose channel has (`g` = target) or has not completed. -/
def sGen (g : BitVec 32) : State := at0 (fun k => { k with bars := vset k.bars 2 ⟨true, g, 0⟩ })

theorem test_meets_Barriers :
    (∀ b ∈ [false, true], AtOnce (sBar b) (.barArrive c0 0 (lb 0)) c0 0 ∧ (vget ((sBar b).core c0).bars 2).arr = false ∧ (sBar b).coreTask c0 = some task1 ∧
      (sBar b).participants task1 2 = [c0, c1] ∧ (sBar b).crossPart task1 2 = false ∧ (sBar b).arrived c1 2 = b) ∧
    task1.cores.Nodup ∧ Straight (sBar true) c0 1 ∧
    (AtOnce (sGen 0) (.barWait c0 0 (lb 1)) c0 0 ∧ ((0 : BitVec 32) - 0).toNat < 2 ^ 31) ∧
    (AtOnce (sGen 0xFFFFFFFF) (.barWait c0 0 (lb 1)) c0 0 ∧ ¬((0xFFFFFFFF : BitVec 32) - 0).toNat < 2 ^ 31) := by
  repeat' apply And.intro
  all_goals decide +kernel

/-- A dispatch counter; the core's held tickets, the requeue list and the counts. -/
def dspc (held requeue : List (BitVec 32)) (next limit : BitVec 32) : Dispatch :=
  { Dispatch.reset with held := vset (Vector.replicate 16 []) 0 held, requeue := requeue, next := next, limit := limit }

/-- Core 0 runs with counter 4 so set, the host being up. -/
def sDsp (x : Dispatch) : State := (sSem 0).modDsp 0 4 (fun _ => x)

/-- `dsp.take` on counter 4, `gd` 1. -/
def lt (retire : Bool) : LayT := ⟨4, retire, 0, 1⟩

/-- `dsp.set` on counter 4. -/
def lds : LayT := ⟨4, false, 0, 0⟩

/-- One counter for each row of the dispatch table of chapter 8. -/
def dspRows : List Dispatch := [dspc [] [7, 9] 3 8, dspc [] [] 3 8, dspc [2] [] 8 8, dspc [] [] 8 8]

theorem test_meets_DispatchCounters :
    (∀ x ∈ dspRows, AtOnce (sDsp x) (.dspTake c0 0 (lt false)) c0 0 ∧ ((sDsp x).core c0).takeOut 4 = false ∧ (sDsp x).dsp 0 4 = x ∧ (vget x.held 0).length < 4) ∧
    (AtOnce (sDsp (dspc [2] [] 3 8)) (.dspTake c0 0 (lt true)) c0 0 ∧ 0 < (vget (dspc [2] [] 3 8).held 0).length) ∧
    AtOnce (sDsp (dspc [] [] 3 8)) (.dspSetLimit c0 0 lds) c0 0 ∧
    (AtOnce (sDsp (dspc [] [] 3 8)) (.dspSetNext c0 0 lds) c0 0 ∧ ∀ i, vget (dspc [] [] 3 8).held i = []) ∧
    AtOnce (sDsp (dspc [2] [] 3 8)) (.dspSetRetire c0 0 lds) c0 0 ∧
    ((sDsp (dspc [] [] 3 8)).arrives (.host 0) = true ∧ (sDsp (dspc [] [] 3 8)).reaches (.host 0) 0 = true ∧ ((sDsp (dspc [] [] 3 8)).die 0).resetting = false ∧
      (sDsp (dspc [] [] 3 8)).dieOwner 0 = none) ∧ Straight (sDsp (dspc [] [] 3 8)) c0 1 := by
  repeat' apply And.intro
  all_goals decide +kernel

/-- What a take on counter 4 owes to `gd`. -/
def owedBy (x : Dispatch) : List Word := ((nextOr s0 (exec (.engineCommandBegin c0 .syn) (nextOr s0 (exec (.dspTake c0 0 (lt false)) (sDsp x))))).core c0).results.map (·.val)

theorem test_dispatch_table : dspRows.map owedBy = [[7], [3], [0xFFFFFFFE], [0xFFFFFFFF]] := by decide +kernel

/-- Core 0 runs with queue 1 holding `n` words of a packet that has ended, the group's role set and Rail up. -/
def sQueue (n : Nat) : State := sRail.modCore c0 (fun k => { k with queues := vset k.queues 1 { HwQueue.reset with words := List.replicate n (5, .good), vis := n } })

/-- `q.push` of a packet of one word on queue 1, and `q.pop` of that queue. -/
def lq (push : Bool) : LayQ := if push then ⟨1, true, true, 2, 0⟩ else ⟨1, false, false, 0, 1⟩

/-- `sQueue` with notices to semaphore 5. -/
def sNotice (n : Nat) : State := (sQueue n).modCore c0 (fun k => { k with queues := vset k.queues 1 { vget k.queues 1 with nen := true, nsem := 5 } })

theorem test_queue_notice : (nextOr s0 (exec (.queuePushPortWrite (.host 0) c0 1 true 0x4000000000000000) (sNotice 0))).sem c0 5 = 1 := by decide +kernel

theorem test_meets_Queues :
    (∀ n ∈ [0, 255], AtOnce (sNotice n) (.qPush c0 0 (lq true)) c0 0 ∧ Quiet (sNotice n) c0 5 ∧ Reaches (sNotice n) (.host 0) c0 ∧
      (vget ((sNotice n).core c0).queues 1).nen = true ∧ (vget ((sNotice n).core c0).queues 1).words.length = n) ∧
    (∀ n ∈ [0, 255], AtOnce (sQueue n) (.qPush c0 0 (lq true)) c0 0 ∧ (vget ((sQueue n).core c0).queues 1).words.length = n ∧ Straight (sQueue n) c0 1) ∧
    (∀ n ∈ [0, 256], AtOnce (sQueue n) (.qPop c0 0 (lq false)) c0 0 ∧ ((sQueue n).core c0).consumes 1 = false ∧ (vget ((sQueue n).core c0).queues 1).vis = n) ∧
    (∀ n ∈ [0, 256], Reaches (sQueue n) (.host 0) c0 ∧ Reaches (sQueue n) (.remote 7) c0) := by
  repeat' apply And.intro
  all_goals decide +kernel

/-- A pool of 4,096 free bytes with one reservation. -/
def pool1 : Pool := ⟨8192, 16384, 4096, 0, 0, [⟨1024, 512, 256, c0, 0⟩]⟩

/-- Core 0's pool 2 and the die's pool 3. -/
def sPool : State := ((sSem 0).modCore c0 (fun k => { k with pools := vset k.pools 2 (some pool1) })).modDie 0 (fun d => { d with pools := vset d.pools 3 (some pool1) })

theorem test_meets_PoolReleases :
    (Reaches sPool (.host 0) c0 ∧ vget (sPool.core c0).pools 2 = some pool1 ∧ pool1.resv[0]? = some ⟨1024, 512, 256, c0, 0⟩ ∧ pool1.resv[1]? = none) ∧
    (sPool.arrives (.host 0) = true ∧ sPool.reaches (.host 0) 0 = true ∧ (sPool.die 0).resetting = false ∧ vget (sPool.die 0).pools 3 = some pool1) := by
  repeat' apply And.intro
  all_goals decide +kernel

/-- Core 0 with its run state and power state changed. -/
def sPow (f : Core → Core) : State := State.reset.modCore c0 f

/-- `sHeld` after that many cycles of its wait. -/
def sLend (n : Nat) : State := sHeld.modCore c0 (fun k => { k with waited := n })

theorem test_meets_CorePowerStates :
    (∀ n ∈ [99, 100], ((sLend n).core c0).wait.isSome = true ∧ ((sLend n).core c0).run = .running ∧ ((sLend n).core c0).unitsIdle = true ∧
      ((sLend n).core c0).waitCfg.getLsbD 48 = true ∧ ((sLend n).core c0).waitCfg.toNat / 2 ^ 32 % 2 ^ 16 = 100 ∧ ((sLend n).core c0).pstate = .run) ∧
    ((sPow (fun k => { k with waitCfg := 0 })).core c0).waitCfg.getLsbD 48 = false ∧
    (((sPow (fun k => { k with pstate := .gated })).core c0).pstate = .gated ∧ ((sPow (fun k => { k with pstate := .gated })).core c0).wait = none) ∧
    ((sPow id).hasDie c0.die = true ∧ ((sPow id).core c0).sect = none ∧ ((sPow id).core c0).pstate = .run ∧ ((sPow id).core c0).resetting = false ∧ ((sPow id).modPins (fun p => { p with vaux := true, vin := true, pwrOk := true, coldRst := true, refclk := true, thermN := true })).pkg.pins.held = false) ∧
    ((sPow (fun k => { k with pstate := .collapsed })).core c0).pstate = .collapsed := by
  repeat' apply And.intro
  all_goals decide +kernel

/-! ### The engines at issue -/

/-- A two-dimensional legend of format code `f` at byte address `b` with extents `e0`, `e1` and row stride `st`; `more` adds further fields. -/
def mkLeg (f b e0 e1 st : Nat) (more : Nat := 0) : Leg :=
  BitVec.ofNat 256 (b + e0 * 2 ^ 64 + e1 * 2 ^ 84 + 2 * 2 ^ 176 + f * 2 ^ 179 + st * 2 ^ 201 + more)

/-- SPARSE, TRN, EXTD and SCALE of a legend. -/
def spBits (sp : Nat) : Nat := sp * 2 ^ 183 + 2 ^ 198

/-- The CLM of core 0. -/
def m0 : Nat := clmAddr c0

/-- Legends: an INT8 tile of 8 × 8 (1); FP32 output (2); CSR (3, 4); a transposed table (5); a list (6, 7); TERN with scales (8, 9); the tile in Tier N (10); MCAST's offset (11); the tile with an extent of 129 (12), outside the CLM (13), with 4 K positions (14); a bitmap row (15, 16); E2M1 with two block sizes (17 to 20). -/
def regs : List (Fin 32 × Leg) :=
  [(1, mkLeg 0 (m0 + 8192) 8 8 8), (2, mkLeg 13 (m0 + 16384) 8 8 32), (3, mkLeg 0 (m0 + 24576) 8 8 0 (spBits 1)),
   (4, BitVec.ofNat 256 (4096 * 2 ^ 120 + 8192 * 2 ^ 160)), (5, mkLeg 0 (m0 + 8192) 8 8 8 (2 ^ 197)), (6, mkLeg 0 (m0 + 24576) 8 8 0 (spBits 6)),
   (7, BitVec.ofNat 256 (4096 * 2 ^ 120)), (8, mkLeg 5 (m0 + 8192) 8 8 8 (spBits 0 + 2 ^ 192)), (9, BitVec.ofNat 256 (4096 * 2 ^ 200)),
   (10, mkLeg 0 4096 8 8 8), (11, mkLeg 0 8192 8 8 8), (12, mkLeg 0 (m0 + 8192) 8 129 8), (13, mkLeg 13 4096 8 8 32), (14, mkLeg 0 (m0 + 8192) 4 8 8),
   (17, mkLeg 10 (m0 + 8192) 64 8 32 (spBits 0 + 2 ^ 192)), (18, BitVec.ofNat 256 (4096 * 2 ^ 200)),
   (19, mkLeg 10 (m0 + 8192) 64 8 32 (spBits 0 + 2 * 2 ^ 192)), (20, BitVec.ofNat 256 (4096 * 2 ^ 200))]

/-- A core with those legends and `g3` = 0x3400, a multiple of 64. -/
def withRegs (k : Core) : Core := regs.foldl (fun k r => k.setD r.1 r.2) (k.setG 3 0x3400)

/-- Core 0 runs with those legends. -/
def sEng : State := parted (at0 withRegs)

/-- `arr.cfg` and the other layouts with the legends above. -/
def lc : LayC := ⟨0, 0, false, 2, true, 0, 0, true, 0, 0, false, 0, 3, false, 0, false, 0⟩
def lp (a b o : Fin 32) (fin : Bool) : LayP := ⟨0, 0, true, fin, a, b, o, 0, 0, 0, true, 1, false, 0, false⟩
def lr (d rs : Fin 32) : LayR := ⟨0, 0, d, rs, 0, 0, 0, true, 1⟩

/-- What an `arr.mm` may not get past, one for each clause. -/
def badMm : List (LayP × Bool × Bool × Bool) :=
  [(lp 0 1 2 true, false, true, true), (lp 1 0 2 true, true, false, true), (lp 1 1 0 true, true, true, false), (lp 6 1 2 true, true, true, true),
   (lp 12 1 2 true, true, true, true), (lp 10 1 2 true, true, true, true), (lp 1 12 2 true, true, true, true), (lp 1 14 2 true, true, true, true), (lp 17 19 2 true, true, true, true)]

/-- A configuration of the classes `a` and `b`, without an epilogue array. -/
def cfgOf (a b : BitVec 2) (ex : Bool) : CtxCfg := ⟨{ lc with aclass := a, bclass := b, exact' := ex }, 0, 0x3400, List.replicate 12 0xFF ++ List.replicate 52 0, false⟩

/-- Core 0 with array 0 so configured, with a tile in progress or none and commands in its queue. -/
def sGa (q : CtxCfg) (t : Option Tile) (xs : List ArrCmd) : State :=
  sEng.modCore c0 (fun k => { k with qGa := #v[xs.map (fun x => .cmd 5 96 x), []], ga := vmod k.ga 0 (fun g => { g with ctx := vset g.ctx 0 ⟨some q, t⟩ }) })

theorem test_meets_ArrayIssue_configured :
    (∀ x ∈ [((1 : BitVec 2), (0 : BitVec 2)), (0, 1)], Fits (sGa (cfgOf x.1 x.2 true) none []) (.arrMm c0 0 (lp 1 1 2 true)) c0 0 (gaEngine 0) ∧
      ((sGa (cfgOf x.1 x.2 true) none []).core c0).cfgAt 0 0 = some { lc with aclass := x.1, bclass := x.2 } ∧
      decide (x.1 ≠ Cls.c8.code ∨ x.2 ≠ Cls.c8.code) = true ∧ (arrFmt ((sEng.core c0).view 1) false 0).cls = .c8) ∧
    (((sEng.core c0).view 1).valid = true ∧ ((sEng.core c0).view 1).lanes = 8 ∧ Leg.sparse ((sEng.core c0).view 1).prim = 0 ∧ Leg.scale ((sEng.core c0).view 1).prim = 0 ∧
      viewInClm c0 ((sEng.core c0).view 1) = true ∧ outShape c0 ((sEng.core c0).view 2) 8 8 = true ∧ outShape c0 ((sEng.core c0).view 14) 8 8 = false) := by
  repeat' apply And.intro
  all_goals decide +kernel

theorem test_meets_ArrayIssue :
    (Straight sEng c0 1 ∧ Fits sEng (.arrCfg c0 0 lc) c0 0 (gaEngine 0) ∧ ExwFits (sEng.core c0) (low (sEng.core c0) lc.rx)) ∧
    (Fits sEng (.arrMm c0 0 (lp 1 1 2 true)) c0 0 (gaEngine 0) ∧ mmBad c0 ((sEng.core c0).cfgAt 0 0) true ((sEng.core c0).view 1) ((sEng.core c0).view 1) ((sEng.core c0).view 2) = none) ∧
    (Fits sEng (.arrDrainPlain c0 0 (lr 2 0)) c0 0 (gaEngine 0) ∧ Drains c0 false ((sEng.core c0).view 2)) ∧
    (Fits sEng (.arrDrainExw c0 0 (lr 2 0)) c0 0 (gaEngine 0) ∧ ExwFits (sEng.core c0) (low (sEng.core c0) 0)) ∧
    (Fits sEng (.arrDrainExw c0 0 (lr 2 3)) c0 0 (gaEngine 0) ∧ ¬ExwFits (sEng.core c0) (low (sEng.core c0) 3)) ∧
    (Fits sEng (.arrDrainExwAdd c0 0 (lr 2 0)) c0 0 (gaEngine 0) ∧ ((sEng.core c0).view 2).valid = true ∧ ((sEng.core c0).view 2).rows = 8) ∧
    (∀ r ∈ [(0 : Fin 32), 3], Fits sEng (.arrSave c0 0 (lr r 0)) c0 0 (gaEngine 0) ∧ Fits sEng (.arrLoad c0 0 (lr r 0)) c0 0 (gaEngine 0) ∧
      (low (sEng.core c0) r).toNat % 64 = 0 ∧ (low (sEng.core c0) r).toNat + saveLen (Acc.ofCode 2) ≤ 2 ^ 23) ∧
    (∀ x ∈ badMm, Fits sEng (.arrMm c0 0 x.1) c0 0 (gaEngine 0) ∧ ((sEng.core c0).view x.1.da).valid = x.2.1 ∧ ((sEng.core c0).view x.1.db).valid = x.2.2.1 ∧
      ((sEng.core c0).view x.1.dc).valid = x.2.2.2) ∧
    (Leg.sparse ((sEng.core c0).view 6).prim = 6 ∧ ((sEng.core c0).view 12).lanes = 129 ∧ viewInClm c0 ((sEng.core c0).view 10) = false ∧
      ((sEng.core c0).view 14).kExt ≠ ((sEng.core c0).view 1).kExt ∧ ((sEng.core c0).view 17).blk ≠ ((sEng.core c0).view 19).blk) ∧
    (Fits sEng (.arrDrainPlain c0 0 (lr 13 0)) c0 0 (gaEngine 0) ∧ ((sEng.core c0).view 13).valid = true ∧ viewInClm c0 ((sEng.core c0).view 13) = false) := by
  repeat' apply And.intro
  all_goals decide +kernel

/-- Word D of the junction commands. -/
def ld' : LayD := ⟨0, false, 0, 0, false, 0, 0, false, 0, 0, 0⟩

/-- `skt.*`. -/
def lk (a b : Fin 32) : LayK := ⟨0, a, b, 0, false, 0, 0, 0, true, 1⟩

theorem test_meets_JunctionAndSketchIssue :
    Straight sEng c0 2 ∧
    (Fits sEng (.jctRoute c0 0 ⟨3, 5, 0, false, 0, 1, 4⟩) c0 0 .jx ∧ routeBad c0 0 ((sEng.core c0).view 3) ((sEng.core c0).view 5) = none) ∧
    (Fits sEng (.jctSpmm c0 0 (lp 3 5 2 true) ld') c0 0 .jx ∧ sEng.jmBad c0 .spmm false ld' 0 true ((sEng.core c0).view 3) ((sEng.core c0).view 5) ((sEng.core c0).view 2) = none) ∧
    (Fits sEng (.jctSpdot c0 0 (lp 3 3 2 true) ld') c0 0 .jx ∧ sEng.jmBad c0 .spdot false ld' 0 true ((sEng.core c0).view 3) ((sEng.core c0).view 3) ((sEng.core c0).view 2) = none) ∧
    (Fits sEng (.jctBag c0 0 (lp 6 1 2 true) ld') c0 0 .jx ∧ sEng.jmBad c0 .bag false ld' 0 true ((sEng.core c0).view 6) ((sEng.core c0).view 1) ((sEng.core c0).view 2) = none) ∧
    (Fits sEng (.jctDrain c0 0 (lr 2 0)) c0 0 .jx ∧ Drains c0 (sEng.core c0).jctOvf ((sEng.core c0).view 2)) ∧
    (Fits sEng (.sktPass c0 0 (lk 1 8)) c0 0 .skt ∧ (sEng.core c0).sktBad c0 0 ((sEng.core c0).view 1) ((sEng.core c0).view 8) false 0 = none) ∧
    Fits sEng (.sktSelect c0 0 (lk 0 0)) c0 0 .skt ∧ Fits sEng (.sktAudit c0 0 (lk 0 0)) c0 0 .skt := by
  repeat' apply And.intro
  all_goals decide +kernel

/-- `v.*` from `x`, `y` and `z` to `d`. -/
def lv (d x y z : Fin 32) : LayV := ⟨d, x, y, z, false, 0, false, 0, 0, false, false, 0, 0⟩

/-- A command that passes its checks. -/
abbrev vecOk (i : Instr) (op : VOp) (l : LayV) : Prop := Fits sEng i c0 0 .vec ∧ vecBad c0 (vecCmd (sEng.core c0) op l) l.rw = none

/-- An FP32 vector of one row (register 21). -/
def sVec : State := sEng.modCore c0 (fun k => k.setD 21 (mkLeg 13 (m0 + 65536) 1 8 4))

theorem test_meets_VectorIssue :
    Straight sEng c0 1 ∧ vecOk (.vAdd c0 0 (lv 2 2 2 0)) .add (lv 2 2 2 0) ∧ vecOk (.vMul c0 0 (lv 2 2 2 0)) .mul (lv 2 2 2 0) ∧ vecOk (.vFma c0 0 (lv 2 2 2 2)) .fma (lv 2 2 2 2) ∧
    vecOk (.vMax c0 0 (lv 2 2 2 0)) .max (lv 2 2 2 0) ∧ vecOk (.vExp c0 0 (lv 2 2 0 0)) .exp (lv 2 2 0 0) ∧ vecOk (.vRsqrt c0 0 (lv 2 2 0 0)) .rsqrt (lv 2 2 0 0) ∧
    (∀ o ∈ [0, 1], vecOk (.vCvt c0 0 { lv 1 2 0 0 with opt := BitVec.ofNat 6 o }) .cvt { lv 1 2 0 0 with opt := BitVec.ofNat 6 o }) ∧
    (Fits sVec (.vReduce c0 0 (lv 21 2 0 0)) c0 0 .vec ∧ vecBad c0 (vecCmd (sVec.core c0) .reduce (lv 21 2 0 0)) 0 = none) ∧
    (Fits sVec (.vNorm2 c0 0 (lv 21 2 0 0)) c0 0 .vec ∧ vecBad c0 (vecCmd (sVec.core c0) .norm2 (lv 21 2 0 0)) 0 = none) ∧
    vecOk (.vLd c0 0 (lv 4 2 0 0)) .ld (lv 4 2 0 0) ∧ vecOk (.vSt c0 0 (lv 2 0 0 0)) .st (lv 2 0 0 0) := by
  repeat' apply And.intro
  all_goals decide +kernel

/-- `str.*` of slot 2 from `s` to `d` under the index legend `i`. -/
def ls (s d i : Fin 32) : LayS := ⟨2, s, d, i, false, false, false, false, 0, true, 1, false, 0⟩

/-- Word X of a multicast to the broadcast group of the die. -/
def lx : LayX := ⟨false, 0, 0, false, 0, false, 0⟩

/-- A command that passes its checks. -/
abbrev strOk (i : Instr) (x : Option LayX) (kd : StrKind) (l : LayS) : Prop :=
  Fits sEng i c0 0 .str ∧ Straight sEng c0 (iwords i) ∧ sEng.moveBad c0 2 ((sEng.core c0).moveOf kd l x) (((i.words.bind Prod.snd).getD 0).setWidth 32) = none

/-- Core 0 with slot 2 stopped for the cause `n`. -/
def sStop (n : BitVec 5) : State := sEng.modCore c0 (fun k => { k with slots := vmod k.slots 2 (fun x => { x with st := .stopped, cause := n }) })

/-- `str.resume` and `str.abort` of slot 2. -/
def lso : LayS := ⟨2, 0, 0, 0, false, false, false, false, 0, false, 0, false, 0⟩

theorem test_meets_StreamIssue :
    (∀ x ∈ [none, some { lx with pen := true }], strOk (.strLoad c0 0 (ls 10 1 0) x) x .load (ls 10 1 0) ∧ strOk (.strStore c0 0 (ls 1 10 0) x) x .store (ls 1 10 0) ∧
      strOk (.strGather c0 0 (ls 10 1 6) x) x .gather (ls 10 1 6)) ∧
    strOk (.strMcast c0 0 (ls 10 11 0) lx) (some lx) .mcast (ls 10 11 0) ∧ Fits sEng (.strRate c0 0 { lso with src := 3 }) c0 0 .str ∧
    Fits sEng (.strAbort c0 0 lso) c0 0 .str ∧ Fits sEng (.strResume c0 0 lso) c0 0 .str ∧
    (∀ n ∈ [1, 2, 6], Fits (sStop (BitVec.ofNat 5 n)) (.strResume c0 0 lso) c0 0 .str ∧ (vget ((sStop (BitVec.ofNat 5 n)).core c0).slots 2).st = .stopped) := by
  repeat' apply And.intro
  all_goals decide +kernel

/-- Core 0 with a fence on semaphore 3 behind what it may pass in every queue; the semaphore holds 5. -/
def sFences : State := (sSem 5).modCore c0 (fun k => { k with
  qStr := [.cmd 1 64 (.rate 2 1), .fence 9 (.sem 3 5)], qGa := #v[[.fence 9 (.sem 3 5)], [.fence 9 (.sem 3 5)]], qJx := [.fence 9 (.sem 3 5)],
  qSkt := [.cmd 2 72 (.pass 0), .fence 9 (.sem 3 5)], qSyn := [.fence 9 (.sem 3 5)] })

/-- Core 0 with a fence on semaphore 3 at the head of the vector queue; the semaphore holds 5. -/
def sFence : State := (sSem 5).modCore c0 (fun k => { k with qVec := [.fence 9 (.sem 3 5)] })

/-- Core 0 with that fence, which saw its value before the semaphore fell to 4, and with a vector command of number 4 in its unit. -/
def sMet : State := (sSem 4).modCore c0 (fun k => { k with qVec := [.fence 9 (.sem 3 5)], met := [(.vec, 9)], vec := some (4, 96, vecCmd k .add (lv 2 2 2 0)) })

theorem test_meets_Fences :
    (Straight sEng c0 1 ∧ Free sEng (.fenceKSem c0 0 ⟨127, 3, 3⟩) c0 0 ∧ Free sEng (.fenceKDrain c0 0 ⟨127, 0, 0⟩) c0 0 ∧
      ∀ e ∈ maskEngines 127, (sEng.core c0).queued e < queueDepth e) ∧
    ((sFence.core c0).qVec = [.fence 9 (.sem 3 5)] ∧ sFence.fenceHolds c0 .vec 9 (.sem 3 5) = true ∧ sFence.fenceHolds c0 .vec 9 (.sem 3 6) = false ∧
      (sFence.sem c0 3 - 5).toNat < 2 ^ 31) ∧
    (∀ e ∈ maskEngines 111, (sFences.core c0).marker e = some (9, .sem 3 5) ∧ sFences.fenceHolds c0 e 9 (.sem 3 5) = true ∧ sFences.fenceHolds c0 e 9 (.sem 3 6) = false) ∧
    (sMet.fenceHolds c0 .vec 9 (.sem 3 5) = true ∧ ¬(sMet.sem c0 3 - 5).toNat < 2 ^ 31) ∧
    ((sMet.core c0).vec.isSome = true ∧ (sFence.core c0).vec = none ∧ ((sFence.modCore c0 (fun k => { k with qVec := [] })).core c0).qVec = []) := by
  repeat' apply And.intro
  all_goals decide +kernel

/-- `sEng` with `g4` owed to a result, and predicate 2 to a route command. -/
def sOwed : State := sEng.modCore c0 (fun k => { k with results := [⟨3, 4, 77, none⟩], jx := { k.jx with routes := [(8, 2, 5, true, 0)] } })

/-- The commands at the head of the queues of core 0. -/
def sBegin : State := (sSem 5).modCore c0 (fun k => { k with
  qVec := [.cmd 1 64 (vecCmd (withRegs k) .add (lv 2 2 2 0))], qSkt := [.cmd 2 72 (.select 0 none)], qSyn := [.cmd 3 80 (.semAdd 0 3 2)],
  qStr := [.cmd 4 88 (.rate 2 0x10004)], qGa := #v[[.cmd 5 96 (.cfg lc 0 64)], [.cmd 6 104 (.mm 0 (tileCmd (withRegs k) (lp 1 1 2 true)))]] })

/-- The bytes of a load's record, and of a sketch descriptor, at CLM 0x3400. -/
def recBytes : List Byte := [2, 1, 0, 1]
def sktBytes : List Byte := leBytes 4 65536 ++ leBytes 4 131072 ++ leBytes 4 196608 ++ leBytes 4 64 ++ leBytes 4 0x3F800000

/-- A state with bytes at CLM 0x3400 and ones in the first operand. -/
def withClm (bs : List Byte) (s : State) : State := { s with mem := (Memory.empty.write (clmAddr c0 + 0x2000) (List.replicate 64 1)).write (clmAddr c0 + 0x3400) bs }

/-- A tile of 8 × 8 of zeros whose next block is `k`. -/
def tile8 (k : Nat) : Tile := Tile.open' ((cfgOf 0 0 true).info false) 8 8 false k

/-- An `arr.mm` that opens or continues a tile, and ends it or not. -/
def mmOf (start fin : Bool) : ArrCmd := .mm 0 (tileCmd (sEng.core c0) { lp 1 1 2 fin with start := start })

/-- An operand with NMPAT 1 and STRICT bit 0, whose rows break the pattern. -/
def strictLeg : Leg := mkLeg 0 (m0 + 8192) 8 8 8 (2 ^ 187 + 2 ^ 194)

/-- The command over that operand. -/
def mmStrict : ArrCmd := .mm 0 { tileCmd (sEng.core c0) (lp 1 1 2 true) with a := ⟨1, strictLeg, 0⟩ }

/-- What array 0 holds after it took its command. -/
def gaAfter (s : State) : GridArray := vget ((nextOr s (exec (.engineCommandBegin c0 (.ga 0)) s)).core c0).ga 0

theorem test_meets_ArraySums :
    (∀ x ∈ [(none, true, true), (some (tile8 0), false, true), (some (tile8 0), false, false)],
      let s := withClm [] (sGa (cfgOf 0 0 true) x.1 [mmOf x.2.1 x.2.2])
      (s.core c0).pstate = .run ∧ s.ecc = [] ∧ (vget (s.core c0).ga 0).ready (mmOf x.2.1 x.2.2) = true ∧ x.2.1 = x.1.isNone ∧
        (∀ t ∈ x.1, t.b16 = false ∧ t.loaded = false) ∧ epiReach (cfgOf 0 0 true).epi 0 8 8 = true ∧
        (gaAfter s).fault = none ∧ (gaAfter s).todo.length = x.2.2.toNat) ∧
    ((gaAfter (withClm [] (sGa (cfgOf 0 0 true) none [mmStrict]))).fault.map FaultPt.ctx = some 0 ∧ (gaAfter (withClm [] (sGa (cfgOf 0 0 true) none [mmStrict]))).todo = []) := by
  repeat' apply And.intro
  all_goals decide +kernel

/-- The drain, save, load and sketch commands of array 0. -/
def arrCmds : List ArrCmd :=
  [.drain 0 ((sEng.core c0).view 2) 0 77 (some 5), .save 0 0x3400 none, .load 0 0x3400 (some 5), .skt ((sEng.core c0).view 1) ((sEng.core c0).view 8) 0x3400 false 0 0 77 none]

theorem test_meets_ArrayBegins :
    (∀ x ∈ arrCmds, (vget ((sGa (cfgOf 0 0 true) none [x]).core c0).ga 0).ready x = true ∧ ((sGa (cfgOf 0 0 true) none [x]).core c0).passHeld 5 = false ∧
      (sGa (cfgOf 0 0 true) none [x]).ecc = [] ∧ QuietOpt (sGa (cfgOf 0 0 true) none [x]) c0 (some 5)) ∧
    (epiReach (cfgOf 0 0 true).epi 0 8 8 = true ∧ epiReach (leBytes 4 (2 ^ 23 - 4) ++ List.replicate 60 0) 0 8 8 = false) ∧
    ((withClm recBytes sEng).mem.read (clmAddr c0 + 0x3400) 6 = [2, 1, 0, 1, 0, 0] ∧ sktDescOk ((withClm sktBytes sEng).mem.read (clmAddr c0 + 0x3400) 64) 0 8 0 8 = true) ∧
    (((gaAfter (withClm recBytes (sGa (cfgOf 0 0 true) none [arrCmds.getD 2 (mmOf true true)]))).ctx)[0].tile.isSome = true ∧
      ((gaAfter (withClm [] (sGa (cfgOf 0 0 true) none [arrCmds.getD 2 (mmOf true true)]))).ctx)[0].tile = none ∧
      (gaAfter (withClm sktBytes (sGa (cfgOf 0 0 true) none [arrCmds.getD 3 (mmOf true true)]))).skt.isSome = true) := by
  repeat' apply And.intro
  all_goals decide +kernel

theorem test_drain_waits_for_the_unit : sMet.fenceHolds c0 .vec 9 (.drain 0x10) = false ∧ sFence.fenceHolds c0 .vec 9 (.drain 0x10) = true := by decide +kernel

/-- Core 0 stalled with a select command, whose queue has room. -/
def sStalled : State := sEng.modCore c0 (fun k => { k with stalled := some (.sktSelect c0 0 (lk 0 0)) })

theorem test_meets_QueueRoom :
    (sStalled.core c0).stalled = some (.sktSelect c0 0 (lk 0 0)) ∧ sStalled.hasDie 0 = true ∧ (sStalled.core c0).run = .running ∧ (sStalled.core c0).pstate = .run ∧
    (sStalled.core c0).wait = none ∧ (sStalled.core c0).resetting = false ∧
    Fits (sStalled.modCore c0 (fun k => { k with stalled := none })) (.sktSelect c0 0 (lk 0 0)) c0 0 .skt ∧ Straight (sStalled.modCore c0 (fun k => { k with stalled := none })) c0 1 := by
  repeat' apply And.intro
  all_goals decide +kernel

theorem test_meets_FalsePredicates :
    sEng.hasDie 0 = true ∧ (sEng.core c0).ready = true ∧ sEng.ecc = [] ∧ (sEng.pendingP c0).contains 3 = false ∧ (sEng.core c0).getP 3 = false ∧
    (readG1 c0 3 0 0 0 none = some (.nop c0 3 zz) ∧ Straight sEng c0 (iwords (.nop c0 3 zz))) ∧
    (readG1 c0 3 1 11 0 (some 9) = some (.li c0 3 ⟨false, 0, 0, 0, false, 0⟩ (some 9)) ∧ Straight sEng c0 (iwords (.li c0 3 zz (some 9)))) := by
  repeat' apply And.intro
  all_goals decide +kernel

theorem test_meets_StallsAndBegins :
    (sOwed.hasDie 0 = true ∧ (sOwed.core c0).ready = true ∧ (sOwed.pendingP c0).contains 2 = true ∧ (sOwed.pendingG c0).contains 4 = true) ∧
    ((Instr.sktSelect c0 0 (lk 1 0)).encOk = false ∧ ((Instr.sktSelect c0 0 { lk 0 0 with rd := 4 }).encOk && (Instr.sktSelect c0 0 { lk 0 0 with rd := 4 }).accOk) = true) ∧
    ((sEng.modCore c0 (fun k => { k with qSkt := List.replicate 4 (.cmd 0 0 (.select 0 none)) })).core c0).queued .skt = 4 ∧
    ((sBegin.core c0).pstate = .run ∧ (sBegin.core c0).vec = none ∧ (sBegin.core c0).skt = none ∧ SktCmd.isPass (.select 0 none) = false) ∧
    ((vget (sBegin.core c0).ga 0).ready (.cfg lc 0 64) = true ∧ (vget (vget (sBegin.core c0).ga 0).ctx 0).tile = none ∧ lc.dual = (vget (sBegin.core c0).ga 0).dual ∧ sBegin.ecc = [] ∧
      epiOk (sBegin.mem.read (clmAddr c0 + 64) 64) = true) ∧
    ((vget (sBegin.core c0).ga 1).ready (.mm 0 (tileCmd (sEng.core c0) (lp 1 1 2 true))) = true ∧ (vget (vget (sBegin.core c0).ga 1).ctx 0).cfg = none) ∧
    (Quiet sBegin c0 3 ∧ sBegin.storesOut c0 = false ∧ ((sPow (fun k => { k with pstate := .gated })).core c0).pstate ≠ .run) := by
  repeat' apply And.intro
  all_goals decide +kernel

theorem test_cfg_begins : ((vget (vget ((nextOr s0 (exec (.engineCommandBegin c0 (.ga 0)) sBegin)).core c0).ga 0).ctx 0).cfg.map (fun x => x.l)) = some lc := by decide +kernel

theorem test_mm_without_cfg_faults : ((nextOr s0 (exec (.engineCommandBegin c0 (.ga 1)) sBegin)).core c0).fring.first = 0x020B := by decide +kernel

/-! ### The events of the engines -/

/-- A tile of `m` × `n` in the FP32-fast accumulator of code 2, with no flag. -/
def info (m n : Nat) (exact' : Bool) : TileInfo := ⟨Acc.ofCode 2, exact', 0, 0, 0, false, [], false, m, n, 1, 3, 9, 0⟩

/-- Four zero banks, one of them saturated. -/
def cells4 : List Cell := [Cell.zero, { Cell.zero with sat := true }, Cell.zero, Cell.zero]

/-- A drain job of 2 × 2 for tag 77 and DONE 5; the output is FP32 at register 2. -/
def job (k : JobKind) : DrainJob := ⟨k, 0, 4, 96, info 2 2 false, cells4, true, ⟨2, mkLeg 13 (m0 + 16384) 2 2 8, 0⟩, 0, 77, some 5, 0, 0, 0⟩

/-- Core 0 with its array 0 changed. -/
def sArr (f : GridArray → GridArray) : State := withArr sEng c0 0 f

/-- A fault point of context 0. -/
def fp (cause : BitVec 16) : FaultPt := ⟨0, 64, 77, [(cause, 5)], 2⟩

/-- Array 0 with passes of both contexts under way, of 3 and of 2 blocks; the feeders took a block of context `x` last. -/
def sTwo (x : Fin 2) : State := sArr (fun g => { g with last := x, todo := [{ job .final with left := 3 }, { job .final with ctx := 1, left := 2 }] })

theorem test_meets_ArrayEvents :
    QuietOpt (sArr id) c0 (some 5) ∧ sEng.hasDie c0.die = true ∧
    ((vget ((sArr (fun g => { g with frees := [(0, 4, some 5)] })).core c0).ga 0).frees = [(0, 4, some 5)]) ∧
    ((vget ((sArr (fun g => { g with todo := [job .final] })).core c0).ga 0).todo = [job .final] ∧ (vget ((sArr (fun g => { g with todo := [job .final] })).core c0).ga 0).jobs = []) ∧
    (∃ q ∈ (vget ((sArr (fun g => { g with todo := [job .final], jobs := [job .final] })).core c0).ga 0).jobs, q.ctx = (job .final).ctx) ∧
    ((sArr (fun g => { g with saving := some ⟨4, 96, 0, 4096, [1, 2], some 5⟩ })).ecc = []) ∧
    (∀ x ∈ [(0x0400 : Nat), 0x0300, 0x020A], (vget ((sArr (fun g => { g with fault := some (fp (BitVec.ofNat 16 x)) })).core c0).ga 0).todo = []) ∧
    (vget ((sArr (fun g => { g with fault := some (fp 0x0400), todo := [job .final] })).core c0).ga 0).todo ≠ [] ∧
    (∀ x ∈ [(0 : Fin 2), 1], (vget ((sTwo x).core c0).ga 0).todo = [{ job .final with left := 3 }, { job .final with ctx := 1, left := 2 }] ∧ (vget ((sTwo x).core c0).ga 0).last = x) := by
  repeat' apply And.intro
  all_goals decide +kernel

/-- Array 0 with a pass of context 0 of 3 blocks and 2 blocks that context 1 owes. -/
def sOwe (x : Fin 2) : State := sArr (fun g => { g with last := x, owed := #v[0, 2], todo := [{ job .final with left := 3 }] })

/-- An owed block takes its turn, and both contexts may run dry (R138). -/
theorem test_owed_blocks_take_turns :
    (∀ x ∈ [(0 : Fin 2), 1], (vget ((sOwe x).core c0).ga 0).last = x ∧ vget (vget ((sOwe x).core c0).ga 0).owed 1 ≠ 0) ∧
    ((vget ((sOwe 0).core c0).ga 0).boundary 0).owed = #v[0, 1] ∧ ((vget ((sOwe 1).core c0).ga 0).boundary 0).todo.map (fun j => j.left) = [2] := by
  repeat' apply And.intro
  all_goals decide +kernel

/-- The blocks that both passes still lack after one boundary. -/
def leftAfter (x : Fin 2) (dry : BitVec 2) : List Nat := ((vget ((sTwo x).core c0).ga 0).boundary dry).todo.map (fun j => j.left)

theorem test_contexts_take_turns : leftAfter 0 0 = [3, 1] ∧ leftAfter 1 0 = [2, 2] ∧ leftAfter 0 2 = [2, 2] := by decide +kernel

theorem test_meets_ExwChunkAdded :
    (vget ((sArr (fun g => { g with jobs := [job .chunk] })).core c0).ga 0).jobs = [job .chunk] ∧ (sArr (fun g => { g with jobs := [job .chunk] })).mem.wf = true ∧
      (job .chunk).cells.length = 2 * 2 ∧ (sArr (fun g => { g with jobs := [job .chunk] })).ecc = [] := by
  repeat' apply And.intro
  all_goals decide +kernel

theorem test_meets_SaveLoadRoundTrip : (info 2 2 false).acc = Acc.ofCode (⟨lc, 0, 0, [], false⟩ : CtxCfg).l.acc.toNat := by decide +kernel

/-- A chunk that ends at the junction engine. -/
def sJxChunk : State := withJx sEng c0 (fun j => { j with jobs := [{ job .chunk with first := false }] })

theorem test_meets_ExwChunkAdded_junction : (sJxChunk.core c0).jx.jobs = [{ job .chunk with first := false }] ∧ sJxChunk.hasDie c0.die = true ∧ sJxChunk.ecc = [] ∧ sJxChunk.mem.wf = true := by
  repeat' apply And.intro
  all_goals decide +kernel

/-- A drain of an EXACT tile without an output. -/
def exJob : DrainJob := { job .final with info := { info 2 2 true with exwMode := 2 } }

theorem test_meets_DrainReports_exact : (vget ((sArr (fun g => { g with jobs := [exJob] })).core c0).ga 0).jobs = [exJob] ∧ (exJob.info.exact' && exJob.info.exwMode.getLsbD 1) = true ∧
    exJob.cells.length = exJob.info.m * exJob.info.n := by
  repeat' apply And.intro
  all_goals decide +kernel

/-- Core 0 with a tile to drain in array 0 (`i` = 0) or in the junction engine. -/
def sDrain (i : Nat) : State := if i = 0 then sArr (fun g => { g with jobs := [job .final] }) else withJx sEng c0 (fun j => { j with jobs := [job .final] })

theorem test_meets_DrainReports :
    (∀ i ∈ [0, 1], (sDrain i).ecc = [] ∧ (sDrain i).mem.wf = true ∧ QuietOpt (sDrain i) c0 (some 5) ∧
      (if i = 0 then (vget ((sDrain i).core c0).ga 0).jobs else ((sDrain i).core c0).jx.jobs) = [job .final]) ∧ (job .final).info.exact' = false := by
  repeat' apply And.intro
  all_goals decide +kernel

/-- A bag command whose one row adds row 6 of the table, behind semaphore 3. -/
def bag : BagRun := ⟨4, 96, tileCmd (sEng.core c0) (lp 6 1 2 true), [[(6, El.num 0)]], 3⟩

/-- The junction engine with that bag in its tile; semaphore 3 holds `v`. -/
def sBag (v : BitVec 32) : State :=
  (withJx sEng c0 (fun j => { j with bag := some bag, tile := some (⟨info 2 2 false, cells4, 0, 0, false, false, 2, 2, 2, 2, false⟩, ⟨.bag, ld', 0, 0, 8, 8, []⟩) })).modCore c0
    (fun k => { k with sems := vset k.sems 3 v })

/-- A route command over the CSR operand in register 3 against the threshold of its register. -/
def lj : LayJ := ⟨3, 5, 0, true, 3, 1, 4⟩

/-- Core 0 with that command at the head of the junction queue. -/
def sRoute : State := sEng.modCore c0 (fun k => { k with qJx := [.cmd 4 96 (.route lj (k.view 3) (k.view 5) 0x3400)] })

theorem test_meets_JunctionEvents :
    ((sRoute.core c0).jx.fault = none ∧ sRoute.ecc = [] ∧ (sRoute.core c0).pstate = .run ∧ lj.kind = 0 ∧ lj.tsrc = true ∧ Leg.sparse ((sEng.core c0).view 3).prim = 1) ∧
    ((withJx sEng c0 (fun j => { j with routes := [(4, 1, 4, true, 6)] })).core c0).jx.routes = [(4, 1, 4, true, 6)] ∧
    (((withJx sEng c0 (fun j => { j with todo := [job .final] })).core c0).jx.todo = [job .final] ∧ ((withJx sEng c0 (fun j => { j with todo := [job .final] })).core c0).jx.jobs = []) ∧
    (((withJx sEng c0 (fun j => { j with frees := [(4, some 5)] })).core c0).jx.frees = [(4, some 5)] ∧ QuietOpt (withJx sEng c0 (fun j => { j with frees := [(4, some 5)] })) c0 (some 5)) ∧
    (∀ v ∈ [6, 7], ((sBag (BitVec.ofNat 32 v)).core c0).jx.bag = some bag ∧ ((sBag (BitVec.ofNat 32 v)).core c0).jx.frees = [] ∧ (sBag (BitVec.ofNat 32 v)).ecc = [] ∧
      QuietOpt (sBag (BitVec.ofNat 32 v)) c0 bag.m.free ∧ ((sBag (BitVec.ofNat 32 v)).core c0).rowsIn bag = decide (v = 7)) := by
  repeat' apply And.intro
  all_goals decide +kernel

/-- A junction tile command over the CSR operand; a start form names the zero descriptor at CLM 0x3400. -/
def jmOf (op : JOp) (a : Fin 32) (start fin : Bool) : JctCmd := .mm op { tileCmd (sEng.core c0) (lp a (if op = .spdot then 3 else 5) 2 fin) with start := start } ld' 0 0x3400 false

/-- The tile that such a command opens. -/
def jTile (op : JOp) : Tile × JctDecl := (Tile.open' (jctInfo ld' 0 (List.replicate 64 0)) 8 8 false 0, ⟨op, ld', 0, 0x3400, 8, 8, List.replicate 8 0⟩)

/-- Core 0 with a command at the head of the junction queue and a tile in progress or none. -/
def sJx (t : Option (Tile × JctDecl)) (x : JctCmd) : State := (withJx sEng c0 (fun j => { j with tile := t })).modCore c0 (fun k => { k with qJx := [.cmd 4 96 x] })

/-- The same with row 0 of the CSR operand holding the column 255, which is out of range, under STRICT. -/
def strictCsr : View := ⟨3, mkLeg 0 (m0 + 24576) 8 8 0 (spBits 1 + 7 * 2 ^ 194), ((sEng.core c0).view 3).ext⟩
def sJxBad : State :=
  { sJx none (.mm .spmm { tileCmd (sEng.core c0) (lp 3 5 2 true) with a := strictCsr } ld' 0 0x3400 false) with
    mem := (Memory.empty.write (strictCsr.aux0Addr + 4).toNat [1, 0, 0, 0]).write strictCsr.aux1Addr.toNat [255, 0] }

/-- What the junction engine holds after it took its command. -/
def jxAfter (s : State) : Junction := ((nextOr s (exec (.engineCommandBegin c0 .jx) s)).core c0).jx

theorem test_meets_JunctionSums :
    (∀ x ∈ [(JOp.spmm, (3 : Fin 32), true), (.spdot, 3, true), (.spdot, 3, false), (.bag, 6, true)], let s := sJx none (jmOf x.1 x.2.1 true x.2.2)
      (s.core c0).jx.ready (jmOf x.1 x.2.1 true x.2.2) = true ∧ s.ecc = [] ∧ (s.core c0).pstate = .run ∧ (s.core c0).jx.tile = none ∧
        epiOk (s.mem.read (clmAddr c0 + 0x3400) 64) = true ∧ epiReach (List.replicate 64 0) 0 8 8 = true ∧ (jxAfter s).fault = none ∧
        (jxAfter s).todo.length = (x.2.2 && decide (x.1 ≠ .bag)).toNat ∧ (jxAfter s).bag.isSome = decide (x.1 = .bag)) ∧
    (∀ op ∈ [JOp.spmm, .bag], (jctFits (jTile op).1 (jTile op).2 op (tileCmd (sEng.core c0) (lp (if op = .bag then 6 else 3) 5 2 true)) ld' 0 = true) ∧
      (jctFits (jTile op).1 (jTile op).2 op (tileCmd (sEng.core c0) (lp 3 5 2 true)) ld' 64 = false)) ∧
    ((sJx none (jmOf .spmm 3 false true)).core c0).jx.tile = none ∧ (jxAfter sJxBad).fault.isSome = true := by
  repeat' apply And.intro
  all_goals decide +kernel

/-- A select descriptor: 2 rows of 4 columns, above a threshold of 0, no audit, exact values at `x`. -/
def selBytes (x : Nat) : List Byte :=
  leBytes 8 (65536 + 64 * 2 ^ 32) ++ leBytes 8 (2 + 4 * 2 ^ 16) ++ leBytes 8 (0x80 * 2 ^ 16) ++ leBytes 8 (0xFFFFFFFF + 0x12000 * 2 ^ 32) ++
    leBytes 8 (0xFFFFFFFF + 0x13000 * 2 ^ 32) ++ leBytes 8 (x + 64 * 2 ^ 32) ++ leBytes 8 (0x15000 + 0x16000 * 2 ^ 32) ++ leBytes 8 0

/-- Core 0 with that descriptor at CLM 0x8000, bounds of 1 to 1 for its first entry, and a sketch command under way. -/
def sSel (e : Nat) (x : SktCmd) : State :=
  { sEng.modCore c0 (fun k => { k with skt := some (4, 96, x) }) with
    mem := (Memory.empty.write (clmAddr c0 + 0x8000) (selBytes e)).write (clmAddr c0 + 65536) (leBytes 8 (0x3F800000 * (1 + 2 ^ 32))) }

/-- The columns that a select names. -/
def selCols (s : State) : List Nat :=
  unionCols 4 (((List.range 2).map (fun m => s.selectRow c0 (SelDesc.ofBytes (s.mem.read (clmAddr c0 + 0x8000) 64)) m)).map RowSel.keep)

/-- Core 0 with a vector command under way. -/
def sVecRun (op : VOp) : State := sEng.modCore c0 (fun k => { k with vec := some (4, 96, { vecCmd k op (lv 2 2 2 0) with done := some 5, stw := some 4096 }) })

/-- The sketch pass at the end of array 0. -/
def run1 : SktRun := ⟨4, 96, [], info 2 2 false, cells4, 0, 77, some 5⟩

/-- The vector command with its extents alike, and a copy between views of one format. -/
def vAdd : VecCmd := vecCmd (sEng.core c0) .add (lv 2 2 2 0)
def vCopy : VecCmd := vecCmd (sEng.core c0) .cvt (lv 2 2 0 0)

theorem test_meets_VecCompletes_values :
    (∀ x ∈ vAdd.sources, Leg.ext0 x.prim = Leg.ext0 vAdd.x.prim) ∧ vAdd.copies = false ∧ Leg.scale vAdd.d.prim = 0 ∧ vCopy.copies = true ∧ vCopy.x.runs[0]?.isSome = true ∧
      ((vecValues sEng vAdd)[0]?.bind (fun r => r[0]?)).isSome = true := by
  repeat' apply And.intro
  all_goals decide +kernel

theorem test_meets_UnitCompletes :
    (∀ o ∈ [VOp.ld, VOp.add], ((sVecRun o).core c0).vec.isSome = true ∧ (sVecRun o).ecc = [] ∧ (sVecRun o).mem.wf = true ∧ QuietOpt (sVecRun o) c0 (some 5) ∧
      (((sVecRun o).core c0).view 2).fmt = .fp32) ∧
    ((vget ((sArr (fun g => { g with skt := some run1 })).core c0).ga 0).skt = some run1 ∧ QuietOpt (sArr (fun g => { g with skt := some run1 })) c0 run1.done) ∧
    (∀ x ∈ [0x14000, 2 ^ 23 - 64], (sSel x (.select 0x8000 (some 5))).mem.read (clmAddr c0 + 0x8000) 64 = selBytes x ∧ (sSel x (.select 0x8000 (some 5))).mem.wf = true ∧
      (sSel x (.select 0x8000 (some 5))).ecc = [] ∧ selOk (selBytes x) = true ∧ QuietOpt (sSel x (.select 0x8000 (some 5))) c0 (some 5) ∧
      selCols (sSel x (.select 0x8000 (some 5))) = [0]) ∧
    (selOk ((sSel 0 (.select 0 none)).mem.read (clmAddr c0) 64) = false ∧ (SelDesc.ofBytes (selBytes 0x14000)).noAudit = true) ∧
    ((SelDesc.ofBytes (selBytes 0x14000)).ulist + alignUp (2 * 4) 64 ≤ 2 ^ 23 ∧ (SelDesc.ofBytes (selBytes 0x14000)).exactv + 64 + 4 * 4 ≤ 2 ^ 23) := by
  repeat' apply And.intro
  all_goals decide +kernel

theorem test_select_and_audit_complete :
    goes (exec (.sktSelectComplete c0) (sSel 0x14000 (.select 0x8000 (some 5)))) (fun t => decide ((t.core c0).skt = none ∧ t.sem c0 5 = 1 ∧ t.mem.readN (clmAddr c0 + 0x16000) 4 = 1)) = true ∧
    goes (exec (.sktAuditComplete c0) (sSel 0x14000 (.audit 0x8000 77 (some 5)))) (fun t => decide ((t.core c0).skt = none ∧ t.sem c0 5 = 1 ∧ (t.core c0).tsrCount = 1)) = true ∧
    goes (exec (.sktSelectComplete c0) (sSel (2 ^ 23 - 64) (.select 0x8000 (some 5)))) (fun t => decide ((t.core c0).fring.first = 0x020E)) = true := by decide +kernel

theorem test_drain_posts_done : goes (exec (.arrDrainComplete c0 0) (sDrain 0)) (fun t => decide (t.sem c0 5 = 1 ∧ (t.core c0).tsrCount = 1 ∧ (t.core c0).flagsSum.getLsbD 0 = true)) = true := by
  decide +kernel

/-! ### Numbers: hypotheses met, and the worked examples of chapters 3 and 4 -/

theorem test_meets_ConvertRoundTrip :
    Fmt.e4m3 ∈ allFmts ∧ Fmt.e4m3 ≠ .fp32 ∧ RMode.rne ∈ modes ∧ 0x7E < 2 ^ Fmt.e4m3.bits ∧ Fmt.e4m3.badTern 0x7E = false ∧ (Fmt.e4m3.decode 0x7E).isFin = true := by decide +kernel

theorem test_meets_Conversions :
    ((-3 : Int) ≤ 0 ∧ 2 * (5 - 8 * (5 / 8)) ≥ 8 ∧ 2 * (4 - 8 * 0) = 8 ∧ 2 * (3 - 8 * 0) < 8 ∧ 16 % 8 = 0 ∧ RMode.rtz ∈ modes ∧ 65535 < 65536) := by decide +kernel

/-- A finite magnitude beyond the largest of E5M2 as rounded, and the operands of block partials with an infinity. -/
theorem test_meets_Conversions_overflow : (∀ sp ∈ Fmt.e5m2.fp, sp.maxCode < fpCode sp .rne false 1 16) ∧ Fmt.e5m2.fp.isSome = true := by
  repeat' apply And.intro
  all_goals decide +kernel

theorem test_meets_Accumulators_nonfinite :
    Meets [some (El.num 1)] [some El.nan] NanProduct ∧ Meets [some (El.inf false)] [some (El.num 0)] NanProduct ∧
    (Meets [some (El.inf false), some (El.inf true)] [some (El.num 1), some (El.num 2)] (InfProduct false) ∧
      Meets [some (El.inf false), some (El.inf true)] [some (El.num 1), some (El.num 2)] (InfProduct true)) ∧
    (¬Meets [some (El.inf false)] [some (El.num 1)] NanProduct ∧ ¬Meets [some (El.inf false)] [some (El.num 1)] (InfProduct true)) := by
  refine ⟨⟨0, _, _, rfl, rfl, Or.inr (Or.inl rfl)⟩, ⟨0, _, _, rfl, rfl, Or.inr (Or.inr (Or.inl ⟨_, rfl, rfl⟩))⟩,
    ⟨⟨0, _, _, rfl, rfl, Or.inr (Or.inl ⟨false, 1, rfl, rfl, by decide, rfl⟩)⟩, ⟨1, _, _, rfl, rfl, Or.inr (Or.inl ⟨true, 2, rfl, rfl, by decide, rfl⟩)⟩⟩, ?_, ?_⟩
  all_goals
    rintro ⟨i, a, b, ha, hb, h⟩
    cases i <;> simp at ha hb
    subst ha hb
    simp [NanProduct, InfProduct] at h

theorem test_meets_Accumulators :
    (Cell.zero.int .i32 + (-(2 ^ 31) - 1) < -(2 : Int) ^ 31 ∧ (2 : Int) ^ 47 ≤ Cell.zero.int .i48 + 2 ^ 47) ∧
    (127 < 0xFF ∧ dot [some 3, none] [some 5, some 7] = 15 ∧ dot [some 1] [none] = 0) ∧
    (-149 ≤ (Nat.log2 15 : Int) + (127 + 127 - 286) ∧ (Nat.log2 15 : Int) + (127 + 127 - 286) < 128) ∧
    (128 ≤ (Nat.log2 15 : Int) + (254 + 254 - 286) ∧ (Nat.log2 15 : Int) + (0 + 0 - 286) < -149) ∧
    ([some El.nan][0]? = some (some El.nan) ∧ [some (El.num 1)][0]? = some (some (El.num 1))) ∧
    (∀ n ∈ [0, 1, 2, 3], -(2 : Int) ^ 31 ≤ (([5, -7] : List Int).take n).sum ∧ (([5, -7] : List Int).take n).sum < 2 ^ 31) ∧
    ((2 : Int) ^ 31 ≤ Cell.zero.int .i32 + 2 ^ 31 ∧ Cell.zero.int .i48 + (-(2 ^ 47) - 1) < -(2 : Int) ^ 47) := by
  repeat' apply And.intro
  all_goals decide +kernel

/-- An exact word of value 5. -/
def exw5 : ExW := ⟨5, 1, false, false, false⟩

theorem test_meets_ExactWords : -(2 : Int) ^ 319 ≤ exw5.value ∧ exw5.value < 2 ^ 319 ∧ exw5.cls = 1 ∧ ({ exw5 with cls := 2 } : ExW).cls = 2 ∧
    (f32Val (Cell.zero.w0)).isFin = true ∧ (f32Val 0x7F800000).isFin = false := by decide +kernel

/-- A value n × 2^e. -/
def v2 (n : Int) (e : Int) : Val := .fin (decide (n < 0)) n.natAbs e

/-- The conversion table of chapter 3: 464 and 465 to E4M3, 61,440 to E5M2, −8.5 and 7.5 to INT4, −0.6 (by a nearby binary value) to UINT8, −1.5 to TERN, 1 + 2^−8 to BF16. -/
theorem test_convert_examples :
    convert .e4m3 .rne false (v2 464 0) = ⟨0x7E, false, false⟩ ∧ convert .e4m3 .rne false (v2 465 0) = ⟨0x7E, true, false⟩ ∧
    (convert .e5m2 .rne true (v2 61440 0)).code = 0x7C ∧ convert .int4 .rne false (v2 (-17) (-1)) = ⟨0x8, false, false⟩ ∧
    convert .int4 .rne false (v2 15 (-1)) = ⟨0x7, true, false⟩ ∧ convert .uint8 .rne false (v2 (-614) (-10)) = ⟨0, true, false⟩ ∧
    convert .tern .rne false (v2 (-3) (-1)) = ⟨3, true, false⟩ ∧ convert .bf16 .rne false (v2 257 (-8)) = ⟨0x3F80, false, false⟩ := by
  repeat' apply And.intro
  all_goals decide +kernel

theorem test_integer_saturates : (accAdd .i32 { Cell.zero with w0 := 0x7FFFFFFF } ⟨.ofInt 1, false, false⟩).sat = true := by decide +kernel

/-- An exact sketch estimate of −13/16. -/
def est : Cell := accAdd .cf32 Cell.zero ⟨v2 (-13) (-4), false, false⟩

/-- Row n = 41 of the example of chapter 8: ρ = 0.25, ν = 1.5, G = 2^−10 and ŷ = −0.8125 give U = −0.4365234375 and L = −1.1884765625. -/
theorem test_bound_example : boundEntry est (v2 1 (-2)) (v2 3 (-1)) (v2 1 (-10)) = (f32Of .rne (v2 (-447) (-10)), f32Of .rne (v2 (-1217) (-10))) := by decide +kernel

/-! ### Streams -/

/-- A request of `len` bytes from Tier N into the CLM of core 0, or into its text region. -/
def rq (len dst : Nat) : Req := ⟨4096, len, [m0 + dst], 0, 8, .elems, 0, 0, 0, 0, 0, 0, none⟩

/-- A load from Tier N by slot 2 with DONE 5 and ESEM 6. -/
def mv (esem : SemOpt) : MoveCmd := { (sEng.core c0).moveOf .load (ls 10 1 0) none with done := some 5, esem := esem }

/-- Slot 2 of core 0 as the load runs. -/
def slotOf (f : Slot → Slot) : Slot := f { Slot.reset with st := .running, cmd := some (4, 96, mv (some 6)), gather := { GatherSt.reset with ended := true } }

/-- Core 0 with that slot. -/
def sSlot (f : Slot → Slot) : State := sEng.modCore c0 (fun k => { k with slots := vset k.slots 2 (slotOf f) })

/-- The transfer of one request. -/
def xf (r : Req) : Xfer := .new 0 [r]

/-- A slot with one request to issue: in the bounds with an unlimited, a filled and an empty bucket; then one that writes the text region. -/
def sReq (i : Nat) : State := sSlot (fun x => { x with plan := [rq 64 (if i = 3 then 0 else 8192)], rate := if i = 0 then 0 else 1, bucket := if i = 1 then 65536 else 0 })

/-- A slot with an open merge of one request. -/
def sMerge : State := sSlot (fun x => { x with merge := [rq 8 8192] })

/-- The same with its bucket empty, and behind slot 1, which has a transfer ready. -/
def sMergeDry : State := sSlot (fun x => { x with merge := [rq 8 8192], rate := 1 })
def sMergeTurn : State := sMerge.modCore c0 (fun k => { k with lead := 1, slots := vset k.slots 1 { slotOf id with plan := [rq 64 9216] } })

/-- A slot whose merge has been closed. -/
def closedAt (s : State) : State := s.modSlot c0 2 (fun x => { x with closed := true })

theorem test_meets_TransferIssues_merge :
    (Moving sMergeDry c0 2 (mv (some 6)) ∧ RoomFor sMergeDry c0 2 ∧ Turn (closedAt sMergeDry) c0 2 ∧ Local sMergeDry c0 (xf (rq 8 8192)) ∧
      (sMergeDry.slot c0 2).bucket < 256 * (xf (rq 8 8192)).charge false) ∧
    Turn (closedAt sMerge) c0 2 ∧ (1 ∈ slotsBefore (sMergeTurn.core c0).lead 2 ∧ (closedAt sMergeTurn).slotReady c0 1 = true) := by
  refine ⟨⟨⟨?_, ⟨4, 96, ?_⟩, ?_⟩, ?_⟩, ?_⟩
  all_goals decide +kernel

/-- Slots 1 and 2 of core 0 with a request each; slot 1 takes the lead. -/
def sTurn : State := (sReq 0).modCore c0 (fun k => { k with lead := 1, slots := vset k.slots 1 { slotOf id with plan := [rq 64 9216] } })

theorem test_slots_take_turns : ((nextOr s0 (exec (.transferIssue c0 2) sTurn)).slot c0 2).out = [] ∧
    ((nextOr s0 (exec (.transferIssue c0 1) sTurn)).slot c0 1).out = [xf (rq 64 9216)] ∧ ((nextOr s0 (exec (.transferIssue c0 1) sTurn)).core c0).lead = 2 := by decide +kernel

theorem test_meets_TransferIssues :
    (Moving (sReq 0) c0 2 (mv (some 6)) ∧ Moving sMerge c0 2 (mv (some 6)) ∧ (mv (some 6)).merge = false) ∧ (RoomFor (sReq 0) c0 2 ∧ RoomFor sMerge c0 2) ∧
    (∀ i ∈ [0, 1, 2], Local (sReq i) c0 (xf (rq 64 8192)) ∧ (sReq i).poolDues c0 2 (xf (rq 64 8192)) = [] ∧
      decide (((sReq i).slot c0 2).rate = 0 ∨ 256 * (xf (rq 64 8192)).charge false ≤ ((sReq i).slot c0 2).bucket) = decide (i ≠ 2)) ∧
    ((sReq 3).xferBad c0 (xf (rq 64 0))).isSome = true ∧
    (Local sMerge c0 (xf (rq 8 8192)) ∧ sMerge.poolDues c0 2 (xf (rq 8 8192)) = [] ∧ (sMerge.slot c0 2).rate = 0) ∧
    ((∀ i ∈ [0, 1, 2, 3], Turn (sReq i) c0 2) ∧ (sReq 3).npFree c0 (xf (rq 64 0)) = true ∧ sTurn.slotReady c0 1 = true ∧ 1 ∈ slotsBefore (sTurn.core c0).lead 2) := by
  refine ⟨⟨⟨?_, ⟨4, 96, ?_⟩, ?_⟩, ⟨?_, ⟨4, 96, ?_⟩, ?_⟩, ?_⟩, ?_, ?_, ?_, ?_, ?_⟩
  all_goals decide +kernel

/-- The command `m` at the head of the stream queue of core 0, with its slot idle. -/
def sMove (m : MoveCmd) : State := sEng.modCore c0 (fun k => { k with qStr := [.cmd 4 88 (.move 2 m)] })

/-- A CSR source with its pointers in the CLM (`near`) or at the host, and an N:M source. -/
def csrMv (near : Bool) : MoveCmd := { mv none with src := ⟨3, mkLeg 0 (if near then m0 + 24576 else hostBase) 8 8 0 (spBits 1), ((sEng.core c0).view 3).ext⟩, dst := ⟨1, mkLeg 0 (m0 + 40960) 8 8 0 (spBits 1), ((sEng.core c0).view 3).ext⟩ }
def nmMv : MoveCmd := { mv none with src := ⟨3, mkLeg 0 4096 8 8 0 (spBits 5 + 2 ^ 187), ((sEng.core c0).view 3).ext⟩, dst := ⟨1, mkLeg 0 (m0 + 40960) 8 8 0 (spBits 5 + 2 ^ 187), ((sEng.core c0).view 3).ext⟩ }

/-- Gathers by a list, and by 0 or 2 indices of a queue. -/
def gaMv (n : Option (BitVec 32)) : MoveCmd := { mv none with kind := .gather, idx := if n = none then some ((sEng.core c0).view 6) else none, queue := n.map (fun _ => 1), count := n.getD 0 }

/-- `str.resume` and `str.abort` at the head of the stream queue. -/
def sResume (n : BitVec 5) : State := (sStop n).modCore c0 (fun k => { k with qStr := [.cmd 7 88 (.resume 2)] })
def sAbortStr (busy : Bool) : State := (sSlot (fun x => { x with out := if busy then [xf (rq 64 8192)] else [] })).modCore c0 (fun k => { k with qStr := [.cmd 7 88 (.abort 2)] })

theorem test_meets_StreamBegins :
    (∀ m ∈ [mv none, nmMv, csrMv true, csrMv false, gaMv none, gaMv (some 0), gaMv (some 2)], ((sMove m).slot c0 2).st = .idle ∧ m.pgran ≠ 0 ∧
      ((sMove m).core c0).qStr = [.cmd 4 88 (.move 2 m)] ∧ (sMove m).ecc = [] ∧ (sMove m).strBases c0 m = [0]) ∧
    ((elemRuns (mv none).src (mv none).dst [0]).flatMap Run.reqs ≠ [] ∧ 0 < Leg.ext0 (mv none).src.prim ∧ (sparseHead nmMv.src nmMv.dst [0]).flatMap Run.reqs ≠ []) ∧
    (∀ b ∈ [true, false], (sMove (csrMv b)).isNear (addr64 (csrMv b).src.aux0Addr) = b ∧ (sparseHead (csrMv b).src (csrMv b).dst [0]).flatMap Run.reqs ≠ []) ∧
    (∀ r ∈ headReads ((sMove (csrMv true)).localView (csrMv true).src), (sMove (csrMv true)).inBounds ((sMove (csrMv true)).strPart c0) r.1 r.2 = true) ∧
    (∀ n ∈ [2, 4], ((sResume (BitVec.ofNat 5 n)).core c0).qStr = [.cmd 7 88 (.resume 2)] ∧ ((sResume (BitVec.ofNat 5 n)).slot c0 2).st = .stopped) ∧
    (∀ b ∈ [true, false], ((sAbortStr b).core c0).qStr = [.cmd 7 88 (.abort 2)] ∧ ((sAbortStr b).slot c0 2).out.isEmpty = !b) ∧ QuietOpt (sMove (gaMv (some 0))) c0 (some 5) := by
  repeat' apply And.intro
  all_goals decide +kernel

theorem test_stream_plans : ∀ m ∈ [mv none, nmMv, csrMv true, csrMv false, gaMv none], goes (exec (.engineCommandBegin c0 (.slot 2)) (sMove m))
    (fun t => decide ((t.slot c0 2).st = .running ∧ (t.slot c0 2).plan ≠ [] ∧ (t.core c0).qStr = [])) = true := by decide +kernel

/-- A slot whose one transfer is outstanding, as the last one of the command or not. -/
def sOut (last : Bool) : State := sSlot (fun x => { x with out := [xf (rq 64 8192)], plan := if last then [] else [rq 8 8448] })

theorem test_meets_TransferDelivers :
    ∀ b ∈ [false, true], (sOut b).ecc = [] ∧ (sOut b).mem.wf = true ∧ (sOut b).pkg.invals = [] ∧ ((sOut b).slot c0 2).out.find? (fun x => x.no = 0) = some (xf (rq 64 8192)) ∧
      (sOut b).isNear 4096 = true ∧ (sOut b).isNear (m0 + 8192) = true ∧ m0 + 8192 < 2 ^ 48 ∧ QuietOpt (sOut b) c0 (some 5) ∧ ((sOut b).slot c0 2).st = .running := by
  decide +kernel

/-- The function of the host whose ATS and PRI are as given. -/
def withPri (s : State) (ats pri : Bool) : State :=
  s.modPkg (fun p => { p with fns := vmod p.fns (s.fnOf (s.strPart c0)) (fun f => { f with ats := ats, pri := pri, prAlloc := 4 }) })

/-- A paging slot, with pages noted, with a group sent, and a failing one. -/
def sPage : State := sSlot (fun x => { x with st := .paging })
def sPages : State := sSlot (fun x => { x with st := .paging, pages := [7, 8] })
def sPrg : State := sSlot (fun x => { x with st := .paging, prg := some ((sEng.fnOf (sEng.strPart c0)).val, 3) })
def sFail (e : SemOpt) : State := sSlot (fun x => { x with failing := some (2, 77), cmd := some (4, 96, mv e) })

theorem test_meets_StreamPauses :
    (∀ b ∈ [false, true], ((withPri sPage true b).slot c0 2).st = .paging ∧ ((withPri sPage true b).slot c0 2).out = [] ∧ ((withPri sPage true b).slot c0 2).failing = none ∧
      ((withPri sPage true b).slot c0 2).pages = [] ∧ ((withPri sPage true b).slot c0 2).prg = none ∧
      ((withPri sPage true b).fn ((withPri sPage true b).fnOf ((withPri sPage true b).strPart c0))).pri = b) ∧
    (((withPri sPages true true).fn (sPages.fnOf (sPages.strPart c0))).freePrg = some 0 ∧ ((withPri sPages true true).slot c0 2).pages = [7, 8] ∧
      ((withPri sPages true true).fn (sPages.fnOf (sPages.strPart c0))).prAlloc = 4 ∧ ((withPri sPages true true).fn (sPages.fnOf (sPages.strPart c0))).prgs = []) ∧
    ((sPrg.slot c0 2).prg = some ((sEng.fnOf (sEng.strPart c0)).val, 3) ∧
      (fins 8).all (fun d => (fins 16).all (fun c => (fins 16).all (fun n => decide ((sPrg.slot ⟨d, c⟩ n).prg = none ∨ (d = 0 ∧ c = 0 ∧ n = 2))))) = true) ∧
    (((sFail (some 6)).slot c0 2).failing = some (2, 77) ∧ ((sFail (some 6)).slot c0 2).st = .running ∧ ((sFail (some 6)).slot c0 2).out = [] ∧ Quiet (sFail (some 6)) c0 6 ∧
      (mv none).esem = none ∧ ((sFail none).core c0).run = .running ∧ ((sFail none).core c0).fring.faulted = false) := by
  repeat' apply And.intro
  all_goals decide +kernel

/-- A part with a link to part 9 and a message to it open at slot 2. -/
def sMsg : State := sEng.modPkg (fun p => { p with
  gaz := [(9, BitVec.ofNat 9 128)], links := vset p.links 0 { Link.reset with st := .up }, ports := vset p.ports 0 ⟨true, 0, true, true, false⟩, opens := [⟨c0, 2, 9, 4096, [1, 2], []⟩] })

/-- A part with 32 open invalidations of the PF. -/
def sFull : State := sEng.modPkg (fun p => { p with invals := List.replicate 32 (0, 1, []) })

theorem test_meets_TranslationsAndMessages :
    ((withPri sEng true true).fn (sEng.fnOf (sEng.strPart c0))).ats = true ∧
    (fins 8).all (fun d => (fins 16).all (fun c => (fins 16).all (fun n => ((withPri sEng true true).slot ⟨d, c⟩ n).out.isEmpty))) = true ∧ sEng.pkg.invals = [] ∧
    (sAts [atcE true]).atcFind 0 9 = some (atcE true) ∧
    (sFull.pkg.invals.filter (fun v => decide (v.1 = (0 : Fin 9)))).length = 32 ∧
    sEng.openOf c0 2 = none ∧ sMsg.openOf c0 2 = some ⟨c0, 2, 9, 4096, [1, 2], []⟩ ∧ (sMsg.route 9 none).isSome = true := by
  repeat' apply And.intro
  all_goals decide +kernel

theorem test_deliver_moves_bytes : goes (exec (.transferDeliver c0 2 0 [] .good) { sOut true with mem := Memory.empty.write 4096 [1, 2, 3] })
    (fun t => decide (t.mem.read (m0 + 8192) 4 = [1, 2, 3, 0] ∧ t.sem c0 5 = 1 ∧ (t.slot c0 2).st = .idle)) = true := by decide +kernel

/-! ### Tasks, rings and host accesses -/

/-- A part whose partition 0 is set up and whose host link is up, changed by `f`. -/
def sUp (f : Pkg → Pkg) : State := (parted State.reset).modPkg (fun p => f { p with pcieUp := true, numVfs := 2 })

/-- The part with its PF changed. -/
def sFn (f : HostFn → HostFn) : State := sUp (fun p => { p with fns := vmod p.fns 0 f })

/-- Cores 0 and 1 with the task of partition 0, core 0 in run state `r`, core 1 halted. -/
def sTask (r : RunSt) : State := ((sUp (fun p => { p with tasks := [task1] })).modCore c0 (fun k => { ready k with run := r })).modCore c1 (fun k => { ready k with run := .halted })

theorem test_meets_HaltsAndTaskEnd :
    (((sTask .halting).core c0).run = .halting ∧ (sTask .halting).allDone c0 = true) ∧ (((sTask .faulting).core c0).run = .faulting ∧ (sTask .faulting).quiet c0 = true) ∧
    ((sTask .running).taskOf 0 = some task1 ∧ (sTask .running).taskHalted task1 = false ∧ (sTask .halted).taskHalted task1 = true ∧ (sTask .halted).ecc = [] ∧
      (sTask .halted).mem.wf = true ∧ task1.discard = false ∧ (sTask .running).hasDie c0.die = true) := by
  repeat' apply And.intro
  all_goals decide +kernel

/-- Rings of 16 entries, one of them with four entries completed and one fetched. -/
def sRing : State := sFn (fun h => { h with sqEn := true, sqSize := 4, sqTail := 3, cqEn := true, cqSize := 4, cqTail := 4, cqHead := 1 })

theorem test_meets_Rings :
    sRing.fnTlp 0 = true ∧ State.reset.fnTlp 0 = false ∧ (sRing.fn 0).sqEn = true ∧ 15 < 2 ^ (sRing.fn 0).sqSize.toNat ∧ ¬16 < 2 ^ (sRing.fn 0).sqSize.toNat ∧
    (∀ i ∈ [1, 4], (i + 16 - (sRing.fn 0).cqHead.toNat) % 16 ≤ ((sRing.fn 0).cqTail.toNat + 16 - (sRing.fn 0).cqHead.toNat) % 16) ∧
    ¬(5 + 16 - (sRing.fn 0).cqHead.toNat) % 16 ≤ ((sRing.fn 0).cqTail.toNat + 16 - (sRing.fn 0).cqHead.toNat) % 16 ∧ ((sFn id).fn 0).sqEn = false := by
  repeat' apply And.intro
  all_goals decide +kernel

/-- A submission of 64 bytes with the given opcode and byte 5. -/
def sub64 (op : Byte) (b5 : Byte) : List Byte := [op, 0, 7, 0, 0, b5] ++ zeros 58

/-- The PF and the VF of partition 0 with one entry each; the VF takes its turn first. -/
def sTwoRings : State := sRing.modPkg (fun p => { p with fetchTurn := 1, fns := vmod p.fns 1 (fun h => { h with sqEn := true, sqSize := 4, sqTail := 1 }) })

theorem test_functions_take_turns : goes (exec (.submissionFetch 0 (sub64 2 0)) sTwoRings) (fun t => decide ((t.fn 0).fetched = [] ∧ t.pkg.fetchTurn = 1)) = true ∧
    goes (exec (.submissionFetch 1 (sub64 2 0)) sTwoRings) (fun t => decide ((t.fn 1).sqHead = 1 ∧ (t.fn 1).fetched.length = 1 ∧ t.pkg.fetchTurn = 2)) = true := by decide +kernel

theorem test_meets_SubmissionFetched :
    (sTwoRings.fnTlp 0 = true ∧ sTwoRings.fnTlp 1 = true ∧ (∀ g ∈ [(0 : Fin 9), 1], 2 ≤ sTwoRings.pkg.level.toNat ∧ (sTwoRings.fn g).sqEn = true ∧ (sTwoRings.fn g).sqHead ≠ (sTwoRings.fn g).sqTail) ∧
      (1 : Fin 9) - sTwoRings.pkg.fetchTurn < 0 - sTwoRings.pkg.fetchTurn) ∧
    (∀ g : Fin 9, ¬g - sRing.pkg.fetchTurn < 0 - sRing.pkg.fetchTurn) ∧
    (sRing.fnTlp 0 = true ∧ 2 ≤ sRing.pkg.level.toNat ∧ (sRing.fn 0).sqHead ≠ (sRing.fn 0).sqTail ∧ (State.reset.pkg.level.toNat < 2)) ∧
    (Submission.ofBytes (sub64 0x33 0)).op ∉ ([0x01, 0x02, 0x10, 0x11, 0x12] : List Byte) ∧
    (∀ b ∈ [0, 1], (Submission.ofBytes (sub64 2 (BitVec.ofNat 8 b))).op = 2 ∧
      (entryClean (sub64 2 (BitVec.ofNat 8 b)) && (Submission.ofBytes (sub64 2 (BitVec.ofNat 8 b))).partOk 0 && (Submission.ofBytes (sub64 2 (BitVec.ofNat 8 b))).argsOk) = decide (b = 0)) := by
  repeat' apply And.intro
  all_goals decide +kernel

/-- The header, the tables and the text of an image with one section of one `halt`. -/
def imgHead : List Byte :=
  leBytes 8 0x01474D49444D4C54 ++ leBytes 8 (1 + 2 ^ 16 + 128 * 2 ^ 32) ++ leBytes 8 0 ++ leBytes 8 232 ++ leBytes 8 (128 + 32 * 2 ^ 32) ++ leBytes 8 (160 + 2 ^ 32 + 2 ^ 48) ++
    zeros 32 ++ leBytes 8 (280 + 7424 * 2 ^ 32) ++ zeros 72 ++ leBytes 8 (224 * 2 ^ 32) ++ leBytes 8 8 ++ zeros 16 ++ leBytes 8 1024 ++ zeros 24 ++ leBytes 8 0x0140000000000000

/-- SHA-384 of `imgHead`, as a little-endian number. -/
def imgDigest : Nat := 2101318210861807706409444127493366158402235279544474783108862610834924922995438892439890825311807140886532857307946

/-- A part with a LOAD fetched for an image at address 4096 of Tier N: `imgHead` and a digest. -/
def sLoad (dg : Nat) : State :=
  { sFn (fun h => { h with fetched := [⟨1, 7, 0, 4096, 7704, 8192, false⟩] }) with mem := Memory.empty.write 4096 (imgHead ++ leBytes 48 dg) }

/-- The image. -/
def img1 (dg : Nat) : Img := ⟨(sLoad dg).mem, 4096, 7704⟩

theorem test_image_digest : sha384 imgHead = leBytes 48 imgDigest := by decide +kernel

/-- The same LOAD once it holds its partition: not checked, or checked with the copy of the image; aborted or not. -/
def sLoadAt (dg : Nat) (checked ab : Bool) : State := (sLoad dg).modPkg (fun p => { p with
  loads := [⟨0, ⟨1, 7, 0, 4096, 7704, 8192, false⟩, 0, if checked then some (sLoad dg).mem else none, ab, false⟩], fns := vmod p.fns 0 (fun h => { h with fetched := [] }) })

theorem test_meets_Loads_stages :
    ((sLoad imgDigest).loadJob 0 7 = none ∧ (sLoad imgDigest).pkg.loads = []) ∧
    (∀ ab ∈ [false, true], ((sLoadAt imgDigest false ab).loadJob 0 7).map (fun j => (j.checked.isNone, j.aborted, j.part)) = some (true, ab, 0) ∧ (sLoadAt imgDigest false ab).ecc = [] ∧
      ((sLoadAt imgDigest true ab).loadJob 0 7).map (fun j => (j.checked, j.aborted)) = some (some (sLoad imgDigest).mem, ab) ∧ (sLoadAt imgDigest true ab).ecc = []) ∧
    ((sLoadAt imgDigest false false).pkg.loads.any (fun j => decide (j.part = 0)) = true) := by
  repeat' apply And.intro
  all_goals decide +kernel

theorem test_load_holds_its_partition : goes (exec (.load 0 7) (sLoad imgDigest)) (fun t => decide ((t.loadJob 0 7).isSome = true ∧ t.mem = (sLoad imgDigest).mem)) = true ∧
    goes (exec (.load 0 7) (sLoadAt imgDigest true false)) (fun t => decide ((t.core ((sLoad imgDigest).secPlace (img1 imgDigest) 0 0)).run = .running ∧ (t.fn 0).held.length = 1)) = true := by
  decide +kernel

theorem test_meets_Loads :
    ((sLoad imgDigest).takeSub 0 0x01 7).isSome = true ∧ (sLoad imgDigest).ecc = [] ∧ (sLoad imgDigest).guarded 0 = false ∧ partEn ((sLoad imgDigest).partMem 0) = true ∧
    (sLoad imgDigest).inTierN 0 4096 7704 = true ∧ (sLoad imgDigest).taskOf 0 = none ∧ (img1 imgDigest).step2 = none ∧ (img1 imgDigest).step3 = none ∧
    (img1 imgDigest).argBytes = 0 ∧ (img1 imgDigest).bytes 0 (img1 imgDigest).imageBytes = imgHead ∧ (img1 imgDigest).digest = leBytes 48 imgDigest ∧
    (img1 0).digest ≠ leBytes 48 imgDigest := by
  repeat' apply And.intro
  all_goals decide +kernel

/-- The other checks of a LOAD pass; its signature is judged by an opaque function of Config, so the witness assumes that answer. -/
theorem test_meets_Loads_checks (h : (sLoad imgDigest).imageSigned ((img1 imgDigest).bytes (img1 imgDigest).sigOff 7424) (img1 imgDigest).digest = true) :
    (sLoad imgDigest).checks (img1 imgDigest) 0 = none := by
  unfold State.checks firstRefusal
  rw [List.findSome?_cons, h]
  decide +kernel

/-- A part with an ABORT of task 1, or of task 2, fetched. -/
def sAbort (n : Word) : State := (sTask .running).modPkg (fun p => { p with fns := vmod p.fns 0 (fun h => { h with fetched := [⟨2, 7, 0, n, 0, 0, false⟩] }) })

theorem test_meets_AbortsAndFunctionResets :
    (∀ n ∈ [1, 2], ((sAbort (BitVec.ofNat 64 n)).takeSub 0 0x02 7).isSome = true ∧ (sAbort (BitVec.ofNat 64 n)).guarded 0 = false ∧
      (sAbort (BitVec.ofNat 64 n)).taskOf 0 = some task1 ∧ (sAbort (BitVec.ofNat 64 n)).taskHalted task1 = false ∧ (decide (task1.num.toNat = n) = decide (n = 1))) ∧
    (0 < (sTask .running).pkg.numVfs ∧ (sTask .running).pkg.pcieUp = true) := by
  repeat' apply And.intro
  all_goals decide +kernel

/-- A completion entry of CID 7. -/
def cqe : CqEntry := ⟨7, 0, false, false, 0x0103, 0, 0, 0, 0, none⟩

/-- Function 0 with that entry held, an interrupt owed, its mask set or clear, and a completion ring with room or full. -/
def sCq (mask : Bool) (tail : BitVec 12) : State :=
  sFn (fun h => { h with held := [cqe], since := 4, cqEn := true, cqSize := 4, cqTail := tail, cqHead := 1, msixMask := if mask then BitVec.allOnes 128 else 0 })

theorem test_meets_Completions :
    (((sCq false 15).fn 0).held = [cqe] ∧ (sCq false 15).fnTlp 0 = true ∧ (sCq false 15).tlpOk 0 = true ∧ ((sCq false 15).fn 0).cqEn = true ∧ (15 + 16 - 1) % 16 + 1 < 2 ^ ((sCq false 15).fn 0).cqSize.toNat) ∧
    (16 ≤ (0 + 16 - ((sCq false 0).fn 0).cqHead.toNat) % 16 + 1) ∧
    (∀ b ∈ [false, true], ((sCq b 15).fn 0).since ≠ 0 ∧ ((sCq b 15).fn 0).msixMask.getLsbD ((sCq b 15).fn 0).vector.toNat = b) := by
  repeat' apply And.intro
  all_goals decide +kernel

/-- A CQ_IRQ value of vector 0, the threshold `n` and a time of 7. -/
def irq (n : Nat) : Word := BitVec.ofNat 64 (256 * n + 65536 * 7)

/-- With the threshold at the four entries written the vector is due, with five it is not (R451). -/
theorem test_meets_Rings_due :
    (∀ b ∈ [false, true], (sCq b 15).fnTlp 0 = true ∧ ((sCq b 15).fn 0).since = 4 ∧ ((sCq b 15).fn 0).msixMask.getLsbD 0 = b) ∧ ((sFn id).fn 0).since = 0 ∧
    (nextOr s0 (exec (.cqIrqWrite 0 (irq 4)) (sCq false 15))).outbox = [.msix 0 0] ∧ (nextOr s0 (exec (.cqIrqWrite 0 (irq 5)) (sCq false 15))).outbox = [] := by
  repeat' apply And.intro
  all_goals decide +kernel

/-- Die 0 of a partition whose interface is locked, without an IDE stream. -/
def sLocked : State := (sFn id).modSec (fun k => { k with tdi := vset k.tdi 0 .locked })

theorem test_meets_HostAccesses_reads :
    ((sFn id).tlpOk 0 = true ∧ sLocked.fnUp 1 = true ∧ sLocked.tlpOk 1 = false ∧ partOfVf 1 = some 0 ∧ sLocked.guarded 0 = true ∧ 1 ≤ sLocked.pkg.level.toNat) ∧ (2 ≤ sLocked.pkg.level.toNat ∧ sLocked.shielded 0 = true ∧ sLocked.fnUp 0 = true ∧ sLocked.tlpOk 0 = true) ∧
    ((sFn id).pfRead 0x1000038).2 = .word 0 ∧ ((sFn id).vfRead 1 0).2 = .word 0 := by
  repeat' apply And.intro
  all_goals decide +kernel

theorem test_bar0_read_of_version : ((nextOr s0 (exec (.registerWrite 0 (.bar0Read 0x1000020 4)) sRing)).outbox.length = 1) ∧
    (nextOr s0 (exec (.registerWrite 0 (.bar0Read 3 8)) (sFn id))).outbox = [.unsupported 0] := by decide +kernel

theorem test_meets_HostAccesses :
    (sFn id).fnUp 0 = true ∧ (sFn id).bar2Ok 0 4096 8 = true ∧ (sFn id).bar2Ok 0 (2 ^ 36) 8 = false ∧ (sFn id).mem.wf = true ∧ (sFn id).ecc = [] ∧
    (∀ n, partOfVf 0 = some n → (sFn id).guarded n = false) := by
  repeat' apply And.intro
  all_goals decide +kernel

theorem test_bar2_writes : goes (exec (.hostBar2Write 0 4096 [1, 2] false) (sFn id)) (fun t => decide (t.mem.read 4096 3 = [1, 2, 0])) = true := by decide +kernel

/-- The example of chapter 13: CID 0x0042, KIND 0, PHASE 1, STATUS 0, TASK 0x0031. -/
theorem test_completion_bytes : (State.reset.cqBytes ⟨0x42, 0, false, false, 0, 0x31, 0, 0, 0, none⟩ true).take 8 = [0x42, 0, 0, 1, 0, 0, 0x31, 0] := by decide +kernel

/-! ### Groups -/

/-- A member entry. -/
def mem1 (p : BitVec 12) (st : MemSt) (miss : Nat) (heard acked : Bool) : Member := ⟨p, st, miss, heard, acked, none, true, true⟩

/-- The part 5 with its group changed; the host link is up. -/
def sGrp (role : BitVec 2) (f : Group → Group) : State := sUp (fun p => { p with partId := 5, epoch := 3, grp := f { Group.reset with role := role, lead := if role = 2 then 5 else 9, st := .running } })

/-- A lead of workers 7 and 8, with the state of worker 7 and the group changed. -/
def sLead (m : Member) (f : Group → Group) : State :=
  sGrp 2 (fun g => f { g with members := [mem1 5 .active 0 true true, m, mem1 8 .active 0 true true], tree := [5, 7, 8] })

/-- The lead with its worker 7 well. -/
def sLead0 : State := sLead (mem1 7 .active 0 true true) id

/-- A state with one command fetched by function `f`. -/
def fetched (s : State) (f : Fin 9) (op : Byte) (a b : Word) : State := s.modPkg (fun p => { p with fns := vmod p.fns f (fun h => { h with fetched := [⟨op, 7, 0, a, b, 0, false⟩] }) })

/-- Arguments of SET_ROLE: ID 5, role `r`, partition 0, lead 9. -/
def roleArg (r : Nat) : Word := BitVec.ofNat 64 (5 + r * 2 ^ 12 + 9 * 2 ^ 28)

/-- The lead with part 6 on its way in, for a command of the PF that completes with or without an entry. -/
def sJoin (mute : Bool) : State := sLead (mem1 7 .active 0 true true) (fun g => { g with members := g.members ++ [mem1 6 .joining 0 false false], joins := [⟨6, 0, 7, false, false, mute⟩] })

theorem test_meets_Joins :
    (∀ m ∈ [false, true], (sJoin m).pkg.grp.joins.any (fun j => decide (j.part = 6)) = true) ∧ sLead0.pkg.grp.joins.any (fun j => decide (j.part = 6)) = false ∧
    ((fetched (sGrp 1 id) 0 0x11 6 0).takeSub 0 0x11 7).isSome = true ∧ (sGrp 1 id).pkg.grp.role ≠ 2 ∧ (∃ m, memberOf sLead0.pkg.grp.members 7 = some m ∧ m.works = true) ∧
    (memberOf (sLead (mem1 7 .active 0 true true) (fun g => { g with members := List.replicate 64 (mem1 5 .active 0 true true) })).pkg.grp.members 6 = none) := by
  refine ⟨?_, ?_, ?_, ?_, ⟨mem1 7 .active 0 true true, ?_, ?_⟩, ?_⟩
  all_goals decide +kernel

/-- The same with link 0 to part 6 in a state, its port holding a session; the identity of part 6 is verified or not. -/
def sJoinAt (st : LinkSt) (known : Bool) : State := (sJoin false).modPkg (fun p => { p with
  railUp := true, links := vset p.links 0 { Link.reset with st := st, peer := 6 }, ports := vset p.ports 0 ⟨true, 0, true, true, false⟩,
  grp := { p.grp with members := p.grp.members.map (fun m => if m.part = 6 then { m with verified := known } else m) } })

/-- The joins of part 6 complete with the later of its link and its identity. -/
def joined6 (t : State) : Bool := decide (t.pkg.grp.joins = [] ∧ (memberOf t.pkg.grp.members 6).map Member.st = some .active ∧ (t.fn 0).held = [answerOf 7 0])

theorem test_meets_Joins_done :
    ((sJoinAt .up false).linkTo 6 = true ∧ (sJoinAt .up false).pkg.inbox = [] ∧ (sJoinAt .up false).pkg.partId = 5) ∧
    ((sJoinAt .keying true).hasLink 0 = true ∧ ((sJoinAt .keying true).link 0).st = .keying ∧ (vget (sJoinAt .keying true).pkg.ports (portOf 0)).session = true ∧
      (∀ m ∈ (sJoinAt .keying true).pkg.grp.all, m.part = 6 → m.verified = true)) ∧
    goes (exec (.railCtrl (.joined 6 true)) (sJoinAt .up false)) joined6 = true ∧ goes (exec (.linkTrainingComplete 0 ⟨true, false, 6, 0⟩) (sJoinAt .keying true)) joined6 = true := by
  repeat' apply And.intro
  all_goals decide +kernel

theorem test_meets_Joins_members : Joins (sJoinAt .up false) 6 ∧ Joins (sJoinAt .keying true) 6 :=
  ⟨⟨{ mem1 6 .joining 0 false false with verified := false }, by decide +kernel⟩, ⟨{ mem1 6 .joining 0 false false with verified := true }, by decide +kernel⟩⟩

theorem test_join_timeout : goes (exec (.joinTimeout 6) (sJoin false)) (fun t => decide ((t.fn 0).held = [answerOf 7 0x0105] ∧ t.pkg.grp.joins = [] ∧ memberOf t.pkg.grp.members 6 = none)) = true ∧
    goes (exec (.joinTimeout 6) (sJoin true)) (fun t => decide ((t.fn 0).held = [] ∧ t.pkg.grp.joins = [])) = true := by decide +kernel

theorem test_meets_RolesMembersJobs :
    (∀ r ∈ [0, 1, 2], ((fetched (sUp id) 0 0x10 (roleArg r) 0).takeSub 0 0x10 7).isSome = true ∧ (fetched (sUp id) 0 0x10 (roleArg r) 0).pkg.tasks = [] ∧
      (fetched (sUp id) 0 0x10 (roleArg r) 0).pkg.grp.joins = []) ∧
    ((fetched (sUp id) 1 0x10 0 0).takeSub 1 0x10 7).isSome = true ∧ (((fetched (sTask .running) 0 0x10 0 0).takeSub 0 0x10 7).isSome = true ∧ (sTask .running).pkg.tasks ≠ []) ∧
    (((fetched sLead0 0 0x11 6 0).takeSub 0 0x11 7).isSome = true ∧ Leads sLead0 ∧ sLead0.pkg.grp.joins = [] ∧ sLead0.pkg.grp.upperTab = [] ∧
      memberOf sLead0.pkg.grp.members 6 = none) ∧
    (∀ n ∈ [0, 3, 4], ((fetched sLead0 0 0x12 4096 (BitVec.ofNat 64 (n + 2 ^ 16))).takeSub 0 0x12 7).isSome = true ∧ sLead0.pkg.grp.job = none ∧ sLead0.mailDie = none) ∧
    ((activeOf sLead0.pkg.grp.members).length = 3 ∧ sLead0.inTierN 0 4096 (64 * 3 * 1) = true) := by
  repeat' apply And.intro
  all_goals decide +kernel

/-- A job of one slot goes to part 5; the workers without a slot hear its number (R429). -/
theorem test_job_told : goes (exec (.submitJob 0 7) (fetched sLead0 0 0x12 4096 (BitVec.ofNat 64 (1 + 2 ^ 16))))
    (fun t => decide (.group 7 (.job 1) ∈ t.outbox ∧ .group 8 (.job 1) ∈ t.outbox ∧ t.pkg.grp.jobs = 1)) = true := by decide +kernel

/-- A work list of an epoch. -/
def wl (e : BitVec 32) : WorkList := ⟨e, 1, 2, 3, 4, 5, 6, 7, [8, 9], 1⟩

/-- A worker whose die 0 has a mailbox of 16 records at 4096 of Tier N, with semaphore 3 of core 0. -/
def sMail : State :=
  ((sGrp 1 id).modDie 0 (fun d => { d with mbox0 := BitVec.ofNat 64 (4096 + 4 * 2 ^ 48), mbox1 := BitVec.ofNat 64 (3 * 2 ^ 7 + 2 ^ 13) })).modCore c0 ready
    |>.modPkg (fun p => { p with tasks := [task1] })

/-- A lead with a job of two slots at step 1, slot 0 accepted. -/
def job2 : Job := ⟨0, 4096, 3, 2, 1, [5, 7, 8], [0], 1⟩
def sJob : State := sLead (mem1 7 .active 0 true true) (fun g => { g with job := some job2 })

/-- A lead without a mailbox, or with one as `sMail` has it, whose job of one slot waits for its last completion; the job has `n` steps. -/
def sLast (n : Nat) (mail : Bool) : State :=
  (if mail then sMail else sGrp 1 id).modGrp (fun g => { g with
    role := 2, lead := 5, members := [mem1 5 .active 0 true true, mem1 7 .active 0 true true], tree := [5, 7], job := some ⟨0, 4096, 1, n, 1, [7], [], 1⟩ })

theorem test_meets_LastCompletions :
    (∀ n ∈ [2, 3], (sLast n true).pkg.grp.role = 2 ∧ (sLast n true).isWorker 7 = true ∧ (sLast n true).mailDie = some 0 ∧ bit ((sLast n true).die 0).mbox1 13 = true ∧
      (sLast n true).mailValid 0 = true ∧ (sLast n true).pkg.grp.job = some ⟨0, 4096, 1, n, 1, [7], [], 1⟩) ∧
    ((sLast 2 false).mailDie = none ∧ (sLast 2 false).isWorker 7 = true) := by
  repeat' apply And.intro
  all_goals decide +kernel

theorem test_step_ends_with_its_record :
    goes (exec (.completionAccept 7 3 0 1) (sLast 3 true)) (fun t => decide (((t.fn 0).held.map CqEntry.kind) = [2] ∧ t.pkg.grp.job.map Job.step = some 2)) = true ∧
    goes (exec (.completionAccept 7 3 0 1) (sLast 3 false)) (fun t => decide ((t.fn 0).held = [] ∧ t.pkg.grp.job.map Job.step = some 1)) = true := by decide +kernel

theorem test_meets_WorkListsAndCompletions :
    ((sGrp 1 id).pkg.grp.role ≠ 0 ∧ (sGrp 1 id).pkg.grp.st ≠ .orphan ∧ (wl 4).epoch ≠ (sGrp 1 id).pkg.epoch ∧ (wl 3).epoch = (sGrp 1 id).pkg.epoch ∧ (sGrp 1 id).mailDie = none ∧
      (sGrp 1 id).pkg.grp.heldWork = []) ∧
    (sMail.mailDie = some 0 ∧ bit (sMail.die 0).mbox1 13 = true ∧ sMail.mailValid 0 = true ∧ sMail.ecc = [] ∧ sMail.mem.wf = true ∧ Quiet sMail c0 3 ∧ (sMail.die 0).mbox1.toNat / 2 ^ 7 % 64 = 3) ∧
    ((sGrp 1 id).arrives (.host 0) = true ∧ (sGrp 1 id).reaches (.host 0) 0 = true ∧ ((sGrp 1 id).die 0).resetting = false ∧ (sGrp 1 id).taskOf 0 = none ∧ ((sGrp 1 id).die 0).done = []) ∧
    (sJob.pkg.grp.role = 2 ∧ sJob.isWorker 7 = true ∧ sJob.pkg.grp.job = some job2 ∧ job2.accepted.length + 1 ≠ job2.slots ∧ 1 ∉ job2.accepted ∧ 0 ∈ job2.accepted ∧ 1 < job2.slots) := by
  repeat' apply And.intro
  all_goals decide +kernel

/-- A lead, part 5, that is a group lead under part 9. -/
def sUnder : State := sLead (mem1 7 .active 0 true true) (fun g => { g with upper := true, topLead := 9 })

theorem test_meets_HeartbeatsAndEpochs_lead :
    sUnder.pkg.grp.under sUnder.pkg.partId = true ∧ sUnder.pkg.grp.role = 2 ∧ sLead0.pkg.grp.delayed = false ∧ sLead0.pkg.grp.raised ≤ 1 ∧
    (sLead (mem1 7 .active 2 false true) id).pkg.grp.upperTab = [] ∧ (sGrp 1 id).pkg.grp.leadMiss = 0 ∧
    ((sGrp 1 (fun g => { g with leadHeard := false, leadMiss := 2 })).pkg.grp.leadHeard = false ∧ 2 ≤ (sGrp 1 (fun g => { g with leadHeard := false, leadMiss := 2 })).pkg.grp.leadMiss) ∧
    (⟨3, [], [], 0, 0, [], [], 0⟩ : EpochMsg).epoch = (sGrp 1 id).pkg.epoch := by
  repeat' apply And.intro
  all_goals decide +kernel

theorem test_meets_HeartbeatsAndEpochs :
    (sLead0.mailDie = none ∧ sLead0.pkg.rdctx.toList.all (fun w => !(rdEn w)) = true ∧ sLead0.pkg.xArrived = 0 ∧ (sGrp 1 id).mailDie = none ∧
      (sGrp 1 id).pkg.rdctx.toList.all (fun w => !(rdEn w)) = true ∧ (sGrp 1 id).pkg.xArrived = 0) ∧
    (Leads sLead0 ∧ (sGrp 1 id).pkg.grp.role = 1 ∧ sLead0.isWorker 7 = true ∧ (7 : BitVec 12) ≠ sLead0.pkg.partId ∧ sLead0.pkg.grp.raised = 0 ∧ sLead0.pkg.grp.upperTab = []) ∧
    (∃ m ∈ (sLead (mem1 7 .active 2 false true) id).pkg.grp.members, m.part ≠ (sLead (mem1 7 .active 2 false true) id).pkg.partId ∧ m.works = true ∧ m.heard = false ∧ m.miss = 2) ∧
    (∀ m ∈ (sLead (mem1 7 .active 1 false true) id).pkg.grp.members, (m.part ≠ 5 → m.works = true → m.heard = true ∨ m.miss < 2) ∧ m.miss < 3) ∧
    (sGrp 1 id).pkg.grp.st ≠ .orphan ∧ (⟨4, [], [], 0, 0, [], [], 0⟩ : EpochMsg).epoch ≠ (sGrp 1 id).pkg.epoch ∧
    ((sLead (mem1 7 .active 0 true false) (fun g => { g with st := .remapping })).isWorker 7 = true ∧
      (sLead (mem1 7 .active 0 true false) (fun g => { g with st := .remapping })).pkg.grp.job = none ∧
      (∀ m ∈ (sLead (mem1 7 .active 0 true false) (fun g => { g with st := .remapping })).pkg.grp.members, m.part = 7 ∨ m.acked = true) ∧
      (sLead0.pkg.grp.members.map Member.part).Nodup) ∧
    (sLead (mem1 7 .active 0 true true) (fun g => { g with delayed := true })).pkg.grp.delayed = true := by
  repeat' apply And.intro
  all_goals decide +kernel

/-- A lead that has worked out the routes of part 7 and whose raise is delayed, with part 8 excluded or not. -/
def sPlan (out : Bool) : State := sLead (mem1 7 .active 0 true true) (fun g => { g with
  delayed := true, plan := [(7, ⟨3, [(9, 1)], [], 0, 0, [], [], 0⟩)], members := g.members.map (fun m => if out ∧ m.part = 8 then { m with st := .excluded } else m) })

theorem test_meets_HeartbeatsAndEpochs_plan :
    ∀ b ∈ [false, true], Leads (sPlan b) ∧ (sPlan b).pkg.grp.delayed = true ∧ ((sPlan b).pkg.grp.members.map Member.part).Nodup ∧
      (sPlan b).pkg.grp.plan.find? (fun x => decide (x.1 = 7)) = some (7, ⟨3, [(9, 1)], [], 0, 0, [], [], 0⟩) ∧
      (sPlan b).pkg.grp.all.any (fun m => decide (m.st = .excluded)) = b ∧ (sPlan b).pkg.grp.all.any (fun m => decide (m.part = 5 ∧ m.st = .spare)) = false ∧ NoMail (sPlan b) := by
  intro b h
  simp only [List.mem_cons, List.not_mem_nil, or_false] at h
  obtain rfl | rfl := h
  all_goals refine ⟨?_, ?_, ?_, ?_, ?_, ?_, Or.inl ?_⟩
  all_goals decide +kernel

/-- A survey of two replies still owed. -/
def sv (parent : Option (BitVec 12)) : Survey := ⟨1, 3, parent, 0, 0, 1, 0, [7, 8]⟩

/-- A top lead of groups 5, its own, and 21, in a survey. -/
def sTop : State := sLead (mem1 7 .active 0 true true) (fun g => { g with
  upper := true, topLead := 5, upperTab := [mem1 5 .active 0 true true, mem1 21 .active 0 true true], upTree := [5, 21], survey := some { sv none with wait := [7, 21] } })

theorem test_meets_Surveys :
    (Leads sLead0 ∧ sLead0.pkg.grp.st ≠ .remapping ∧ sLead0.treeChildren = [7, 8]) ∧
    ((sGrp 1 id).pkg.grp.role = 1 ∧ (sGrp 1 id).treeChildren = [] ∧ (sGrp 1 id).upChildren = [] ∧ sLead0.hears 7 = true ∧ sLead0.hears 11 = false ∧
      sTop.hears 21 = true ∧ 21 ∈ sTop.upChildren ∧ sTop.pkg.grp.survey = some { sv none with wait := [7, 21] }) ∧
    ( (sGrp 1 id).pkg.grp.surveyNum = 0 ∧ (sGrp 1 id).pkg.grp.survey = none) ∧
    ((sLead (mem1 7 .active 0 true true) (fun g => { g with survey := some (sv none) })).pkg.grp.survey = some (sv none) ∧ 7 ∈ (sv none).wait ∧ (sv none).wait.erase 7 ≠ [] ∧ 4 ≠ (sv none).epoch) ∧
    ((sv (some 9)).parent = some 9 ∧ (sv none).lo = (sv none).hi ∧ (sv none).hi = sLead0.pkg.grp.digest ∧ ({ sv none with count := 3 } : Survey).count = (activeOf sLead0.pkg.grp.members).length) ∧
    ((sLead (mem1 7 .active 0 true true) (fun g => { g with asking := true })).pkg.grp.asking = true ∧ (sLead0.mailDie = none)) := by
  repeat' apply And.intro
  all_goals decide +kernel

/-- A worker with children in its tree, in a survey that waits for part 8 only or for parts 7 and 8, for a parent or none. -/
def sNode (wait : List (BitVec 12)) (parent : Option (BitVec 12)) : State :=
  sGrp 1 (fun g => { g with tree := [9, 5, 20, 21, 22, 23, 24, 25, 26, 7, 8], survey := some { sv parent with wait := wait } })

/-- A lead of parts 7 and 8 in a survey, or one that asks directly, with the digest that part 8 has told. -/
def sSurvey (wait : List (BitVec 12)) : State := sLead (mem1 7 .active 0 true true) (fun g => { g with survey := some { sv none with wait := wait } })
def sAsk (told : Option Leg) : State := sLead (mem1 7 .active 0 true true) (fun g => { g with
  asking := true, members := g.members.map (fun m => if m.part = 8 then { m with digest := told } else m) })

theorem test_meets_Surveys_replies :
    ((sNode [8] (some 9)).pkg.grp.role = 1 ∧ (sNode [8] (some 9)).treeChildren ++ (sNode [8] (some 9)).upChildren ≠ [] ∧ (sNode [8] (some 9)).pkg.grp.survey = some { sv (some 9) with wait := [8] }) ∧
    ((sSurvey [8]).pkg.grp.survey = some { sv none with wait := [8] } ∧ (sSurvey [8]).hears 8 = true ∧ (sSurvey [7, 8]).hears 8 = true) := by
  repeat' apply And.intro
  all_goals decide +kernel

theorem test_meets_Surveys_told : ∀ d ∈ [none, some (sAsk none).pkg.grp.digest],
    Leads (sAsk d) ∧ (sAsk d).pkg.grp.asking = true ∧ (sAsk d).isWorker 7 = true ∧ (7 : BitVec 12) ≠ (sAsk d).pkg.partId ∧
      (∀ m ∈ (sAsk d).pkg.grp.members, m.part = 7 → m.st = .active) ∧ (sAsk d).pkg.grp.upperTab = [] ∧ (memberOf (sAsk d).pkg.grp.members 8).map Member.digest = some d := by
  intro d h
  simp only [List.mem_cons, List.not_mem_nil, or_false] at h
  obtain rfl | rfl := h
  all_goals refine ⟨?_, ?_, ?_, ?_, ?_, ?_, ?_⟩
  all_goals decide +kernel

/-- The last reply goes to the parent; a direct question is answered with the part's own digest (R430, R431). -/
theorem test_survey_answers :
    goes (exec (.surveyReplyReceive 8 ⟨1, false⟩ 3 0 0 1) (sNode [8] (some 9))) (fun t => decide (.group 9 (.reply 1 3 0 0 2) ∈ t.outbox ∧ t.pkg.grp.survey = none)) = true ∧
    goes (exec (.surveyRequestReceive 9 ⟨4, true⟩ 3) (sNode [7, 8] none)) (fun t => decide (.group 9 (.digest 4 t.pkg.grp.digest) ∈ t.outbox ∧ t.pkg.grp.survey.isSome = true)) = true := by
  repeat' apply And.intro
  all_goals decide +kernel

/-! ### Rail -/

/-- A message of type `typ` for address `a` with four bytes, tag 12 and context 1. -/
def rm (typ : BitVec 4) (a : Nat) : RailMsg := ⟨typ, 5, 9, a, 4, 12, 1, 0, [1, 2, 3, 4], 2, 0, 0, 1, 3, false⟩

/-- A worker, part 5, with a route to part 9 on a link in state `k`; the package further changed. -/
def sNet (k : Link) (f : Pkg → Pkg) : State :=
  ((sGrp 1 id).modCore c0 ready).modPkg (fun p => f { p with
    gaz := [(9, BitVec.ofNat 9 128)], links := vset p.links 0 k, ports := vset p.ports 0 ⟨true, 0, false, true, false⟩, pends := [], railUp := true })

/-- A link that is up, with one car to be acknowledged. -/
def upLink : Link := { Link.reset with st := .up }

/-- A message waits in the inbox, with what is pending. -/
def sIn (m : RailMsg) (q : List PendReq) : State := sNet { upLink with st := .retrain } (fun p => { p with inbox := [m], pends := q, mcg := vset p.mcg 2 (BitVec.ofNat 73 (2 ^ 72)), rdctx := p.rdctx })

/-- The request of a `ld` and of a `st` of core 0. -/
def qLd : PendReq := ⟨12, 9, 0, 4096, .ld c0 4 4 false 64⟩
def qSt : PendReq := ⟨12, 9, 0, 4096, .st c0 64⟩

theorem test_meets_RailMessages_memory :
    (∀ t ∈ [3, 4, 5], Arrived (sIn (rm (BitVec.ofNat 4 t) 4096) []) (BitVec.ofNat 4 t) (rm (BitVec.ofNat 4 t) 4096) ∧ (sIn (rm (BitVec.ofNat 4 t) 4096) []).remotePlace 4096 4 (decide (t ≠ 4)) = .mem ∧
      (sIn (rm (BitVec.ofNat 4 t) 4096) []).ecc = [] ∧ (sIn (rm (BitVec.ofNat 4 t) 4096) []).mem.wf = true) ∧
    (Arrived (sIn (rm 3 (4 * gib)) []) 3 (rm 3 (4 * gib)) ∧ (sIn (rm 3 (4 * gib)) []).remotePlace (4 * gib) 4 true = .refused) ∧
    ((sIn (rm 4 4096) []).route 9 none = some (0, false) ∧ ((sIn (rm 4 4096) []).link 0).st ≠ .up) ∧
    ((sIn (rm 5 4096) []).mcgLocal 2 = true ∧ (sIn (rm 5 4096) []).mcgLinks 2 = [] ∧ (sIn (rm 5 4096) []).pkg.mcWaits = [] ∧
      (sIn (rm 5 4096) []).pkg.rdctx.toList.all (fun w => !(rdEn w)) = true) := by
  repeat' apply And.intro
  all_goals decide +kernel

/-- A worker of an epoch of 3 whose barrier channel 2 crosses parts, before its own arrival. -/
def sCross : State := sNet upLink (fun p => { p with barXpart := 4, xArrived := 0 })

theorem test_meets_RailMessages_control :
    (Arrived (sIn { rm 5 4096 with drop := true } []) 5 { rm 5 4096 with drop := true } ∧ (sIn { rm 5 4096 with drop := true } []).mcgLinks 2 = [] ∧ (rm 5 4096).drop = false) ∧
    (sCross.pkg.inbox = [] ∧ sCross.pkg.grp.role = 1 ∧ 3 = sCross.pkg.epoch ∧ sCross.pkg.barXpart.getLsbD 2 = true ∧ sCross.pkg.xArrived.getLsbD 2 = false ∧ sCross.pkg.barXpart.getLsbD 1 = false) ∧
    (sLead0.pkg.inbox = [] ∧ sLead0.pkg.grp.role = 2 ∧ 4 ≠ sLead0.pkg.epoch) ∧ (portOf 0 = 0 ∧ ((sNet upLink id).link 0).st = .up) := by
  repeat' apply And.intro
  all_goals decide +kernel

theorem test_arrival_waits_for_the_own : goes (exec (.railBarrier (.arrival 11 2 3 [11])) sCross) (fun t => decide (t.pkg.grp.arrivals = [(2, 11)] ∧ t.outbox = [])) = true ∧
    goes (exec (.railBarrier (.arrival 11 2 3 [11])) (sCross.modPkg (fun p => { p with xArrived := 4 }))) (fun t => !t.outbox.isEmpty) = true := by decide +kernel

/-- An array of reductions with nothing enabled but one context, and a core whose semaphore falls short of its target. -/
def ctx1 : Leg := BitVec.ofNat 256 (2 ^ 127 + 2 ^ 192)
def sArm (on : Bool) : State := sNet upLink (fun p => { p with rdctx := if on then vset p.rdctx 1 ctx1 else p.rdctx })

/-- A lead whose job gives part 7 its one slot. -/
def sBarLead : State := sLead (mem1 7 .active 0 true true) (fun g => { g with job := some { job2 with slots := 1, map := [7] } })

/-- A link with keys, and messages of types 10 and 11 in the inbox. -/
def sKeyed (rekey : List LinkKey) : State := sNet { upLink with key := some ⟨7, 0, 0⟩, rekey := rekey } (fun p => { p with inbox := [rm 10 0, rm 11 0] })

theorem test_meets_RailMessages_firmware :
    ((∀ j, rdEn ((sArm false).rdctx j) = false) ∧ rdEn ctx1 = true ∧ rdEn ((sArm true).rdctx 1) = true ∧ (sArm true).pkg.reds = [] ∧ (sArm true).pkg.grp.role ≠ 0) ∧
    (Leads sBarLead ∧ sBarLead.hears 8 = true ∧ 7 ∈ sBarLead.slotHolders ∧ (2, 7) ∉ sBarLead.pkg.grp.arrivals ∧ (7 : BitVec 12) ∉ ([8] : List (BitVec 12)) ∧ sBarLead.hears 11 = false) ∧
    ((∃ m, Arrived (sKeyed []) 10 m) ∧ (∃ m, Arrived (sKeyed []) 11 m) ∧ ((sKeyed []).read' 11).linkTo 7 = false) ∧
    (∀ ks ∈ [[], [(⟨9, 16, 16⟩ : LinkKey)]], ((sKeyed ks).link 0).st = .up ∧ (((sKeyed ks).link 0).rekey.head?.or ((sKeyed ks).link 0).key).isSome = true ∧ portOf 0 = 0) := by
  refine ⟨⟨by decide +kernel, by decide +kernel⟩, by decide +kernel, ⟨⟨rm 10 0, by decide +kernel⟩, ⟨rm 11 0, by decide +kernel⟩, by decide +kernel⟩, by decide +kernel⟩

theorem test_short_target : serGe ((sArm false).sem (coreOfPkg (rdTCore ctx1)) (Fin.ofNat 64 (rdTSem ctx1))) (rdTarget ctx1) = false := by decide +kernel

theorem test_meets_RailMessages_responses :
    (Arrived (sIn (rm 6 0) []) 6 (rm 6 0) ∧ (sIn (rm 6 0) []).pkg.pends = []) ∧
    ((sIn (rm 6 0) [qLd]).pkg.pends.find? (fun q => decide (q.tag = 12)) = some qLd ∧ ((sIn (rm 6 0) [qLd]).core c0).run = .running) ∧
    (∀ t ∈ [7, 8], Arrived (sIn (rm (BitVec.ofNat 4 t) 0) [qSt]) (BitVec.ofNat 4 t) (rm (BitVec.ofNat 4 t) 0) ∧
      (sIn (rm (BitVec.ofNat 4 t) 0) [qSt]).pkg.pends.find? (fun q => decide (q.tag = 12)) = some qSt ∧ ((sIn (rm (BitVec.ofNat 4 t) 0) [qSt]).core c0).fring.faulted = false) ∧
    (rdEn ((sNet upLink (fun p => { p with inbox := [rm 9 0], rdctx := vset p.rdctx 1 (BitVec.allOnes 256) })).rdctx 1) = true ∧ (sNet upLink id).pkg.reds = []) ∧
    ((sNet upLink id).pkg.inbox = [] ∧ (sNet upLink id).pkg.grp.role = 1 ∧ 4 ≠ (sNet upLink id).pkg.epoch ∧ 7 ≠ (sNet upLink id).pkg.partId ∧ (sNet upLink id).linkTo 7 = false) := by
  repeat' apply And.intro
  all_goals decide +kernel

/-- A car of type `t` and sequence number 0 with a CRC. -/
def car0 (t : BitVec 4) (crc : BitVec 32) : Car := ⟨5, 9, 3, t, 0, false, 0, 0, 0, false, 0, false, 0, 0, 0, crc, zeros 256⟩

/-- The CRC of 16 bytes and 256 zeros, in five steps. -/
theorem crc_of_steps {hd : List Byte} {a b c d e : BitVec 32} (h0 : hd.foldl crcByte 0xFFFFFFFF = a) (h1 : (zeros 64).foldl crcByte a = b)
    (h2 : (zeros 64).foldl crcByte b = c) (h3 : (zeros 64).foldl crcByte c = d) (h4 : (zeros 64).foldl crcByte d = e) : crc32 (hd ++ zeros 256) = ~~~e := by
  have h : zeros 256 = zeros 64 ++ (zeros 64 ++ (zeros 64 ++ zeros 64)) := by decide +kernel
  rw [crc32, h]
  simp only [List.foldl_append, h0, h1, h2, h3, h4]

theorem test_car_crc : (car0 3 0xE46F440F).crcOf = 0xE46F440F :=
  (crc_of_steps (a := 0x47D00C87) (b := 0xAC6FDE75) (c := 0x746724E6) (d := 0xD2298C60) (e := 0x1B90BBF0) (by decide +kernel) (by decide +kernel) (by decide +kernel)
    (by decide +kernel) (by decide +kernel) : crc32 (leBytes 16 (({ car0 3 0xE46F440F with crc := 0 } : Car).header) ++ zeros 256) = _)

theorem test_car_crc_reserved : (car0 12 0x525CB448).crcOf = 0x525CB448 :=
  (crc_of_steps (a := 0xD428F841) (b := 0xBB56A789) (c := 0x42C62A25) (d := 0x61C8C863) (e := 0xADA34BB7) (by decide +kernel) (by decide +kernel) (by decide +kernel)
    (by decide +kernel) (by decide +kernel) : crc32 (leBytes 16 (({ car0 12 0x525CB448 with crc := 0 } : Car).header) ++ zeros 256) = _)

theorem test_car_crc_idle : (car0 0 0x1BAA77CE).crcOf = 0x1BAA77CE :=
  (crc_of_steps (a := 0xDE326A86) (b := 0x73FD9093) (c := 0x7A4772D9) (d := 0x2CD69BB5) (e := 0xE4558831) (by decide +kernel) (by decide +kernel) (by decide +kernel)
    (by decide +kernel) (by decide +kernel) : crc32 (leBytes 16 ((({ car0 0 0x1BAA77CE with crc := 0 } : Car).header)) ++ zeros 256) = _)

theorem test_meets_RailLinks_keying :
    ((sNet { upLink with st := .keying } id).link 0).st = .keying ∧ Car.ofBytes (car0 0 0x1BAA77CE).bytes = car0 0 0x1BAA77CE ∧ (car0 0 0x1BAA77CE).bytes.length = 272 ∧
    (car0 0 0x1BAA77CE).ver = 0 ∧ (car0 0 0x1BAA77CE).typ = 0 ∧ (car0 3 0xE46F440F).typ ≠ 0 ∧ (car0 3 0xE46F440F).typ ≠ 11 ∧
    ((sNet { upLink with st := .training } id).link 0).slow = false := by
  repeat' apply And.intro
  all_goals decide +kernel

theorem test_meets_RailLinks_cars :
    (Car.ofBytes (car0 3 0xE46F440F).bytes = car0 3 0xE46F440F ∧ (car0 3 0xE46F440F).bytes.length = 272) ∧
    (Car.ofBytes (car0 12 0x525CB448).bytes = car0 12 0x525CB448 ∧ (car0 12 0x525CB448).bytes.length = 272) ∧
    (((sNet upLink id).link 0).st = .up ∧ ((sNet upLink id).link 0).expect = 0 ∧ ((sNet upLink id).link 0).heldRx = [] ∧ ((sNet upLink id).link 0).txq = []) ∧
    ((sNet Link.reset id).link 0).st ≠ .up := by
  repeat' apply And.intro
  all_goals decide +kernel

/-- A key update follows the newest key (R402). -/
theorem test_key_update_counts_on : ((nextOr s0 (exec (.railCtrl (.keyUpdate 0 2)) (sKeyed []))).link 0).rekey.map (fun k => (k.tx, k.rx)) = [(2, 2)] ∧
    ((nextOr s0 (exec (.railCtrl (.keyUpdate 0 2)) (sKeyed [⟨9, 16, 16⟩]))).link 0).rekey.map (fun k => (k.tx, k.rx)) = [(18, 18), (16, 16)] := by decide +kernel

/-- A link in KEYING that kept its replay state and knows its peer, and one that retrains with keys or without. -/
def sKeying : State := sNet { upLink with st := .keying, peer := 9, peerLink := 4, next := 32, expect := 16, authed := 16 } id
def sRetrain (keyed session : Bool) : State := sNet { upLink with st := .retrain, key := if keyed then some ⟨7, 0, 0⟩ else none }
  (fun p => { p with ports := vset p.ports 0 ⟨true, 0, false, session, false⟩ })

theorem test_meets_RailLinks_keys :
    ((sKeying.link 0).st = .keying ∧ (vget sKeying.pkg.ports (portOf 0)).session = true ∧ sKeying.hasLink 0 = true ∧ (sKeying.link 0).peer = 9 ∧ (sKeying.link 0).peerLink = 4 ∧
      (sKeying.link 0).txq = [] ∧ (sKeying.link 0).buf = []) ∧
    (∀ x ∈ [(true, true), (false, true), (true, false)], ((sRetrain x.1 x.2).link 0).st = .retrain ∧ ((sRetrain x.1 x.2).link 0).key.isSome = x.1 ∧
      (vget (sRetrain x.1 x.2).pkg.ports (portOf 0)).session = x.2 ∧ (sRetrain x.1 x.2).hasLink 0 = true) ∧
    ((⟨0, true⟩ : FecCheck).bad = true ∧ (⟨2, false⟩ : FecCheck).bad = true ∧ ({ car0 3 0 with ver := 1 } : Car).ver ≠ 0 ∧ (car0 3 0).crc ≠ 0xE46F440F) := by
  repeat' apply And.intro
  all_goals decide +kernel

/-- The same peer goes on with its numbers, another one begins anew (R399). -/
theorem test_keys_renewed : ((nextOr s0 (exec (.linkTrainingComplete 0 ⟨true, false, 9, 4⟩) sKeying)).link 0).expect = 16 ∧
    ((nextOr s0 (exec (.linkTrainingComplete 0 ⟨true, false, 9, 5⟩) sKeying)).link 0).expect = 0 := by decide +kernel

/-- A link with one car in its buffer, after `n` replays. -/
def bufLink (n : Nat) : Link := { upLink with buf := [(0, car0 3 0)], next := 1, tries := n, naking := true }

theorem test_meets_RailLinks_states :
    (∀ n ∈ [14, 15], ((sNet (bufLink n) id).link 0).st = .up ∧ ((sNet (bufLink n) id).link 0).buf.length = 1 ∧ ((sNet (bufLink n) id).link 0).tries = n ∧
      ((sNet (bufLink n) id).link 0).retrains = [] ∧ ((sNet (bufLink n) id).link 0).naking = true ∧ ((sNet (bufLink n) id).link 0).next % 16 ≠ 0) ∧
    ((sNet upLink id).pkg.pends = [] ∧ (sNet upLink (fun p => { p with pends := [qSt] })).pkg.pends.find? (fun x => decide (x.tag = qSt.tag)) = some qSt) ∧
    ((sNet upLink id).hasLink 0 = true ∧ (vget (sNet upLink id).pkg.ports (portOf 0)).session = true ∧ (sNet upLink id).forcedSlow 0 = false) ∧
    (∀ n ∈ [1, 2, 3, 5], ((sNet { upLink with st := [LinkSt.disabled, .training, .keying, .up, .retrain, .failed].getD n .up } id).link 0).st =
      [LinkSt.disabled, .training, .keying, .up, .retrain, .failed].getD n .up) ∧
    ((sNet { upLink with st := .failed } id).pkg.grp.role ≠ 0 ∧ (fins 72).all (fun n => decide ((sNet { upLink with st := .failed } id).hasLink n = true → ((sNet { upLink with st := .failed } id).link n).st = .failed)) = true ∧
      (sNet { upLink with st := .failed } id).pkg.healthFatal = false) := by
  repeat' apply And.intro
  all_goals decide +kernel

theorem test_crc32_check : crc32 [0x31, 0x32, 0x33, 0x34, 0x35, 0x36, 0x37, 0x38, 0x39] = 0xCBF43926 := by decide +kernel

/-- Two bytes of the S-box of FIPS 197 and a column of its mixing. -/
theorem test_aes_parts :
    aesSub 0x53 = 0xED ∧ aesSub 0 = 0x63 ∧ (aesMix [0xDB, 0x13, 0x53, 0x45, 0, 0, 0, 0, 0, 0, 0, 0, 0, 0, 0, 0]).take 4 = [0x8E, 0x4D, 0xA1, 0xBC] := by
  decide +kernel

theorem test_rail_write : goes (exec .railWrite (sIn (rm 3 4096) [])) (fun t => decide (t.mem.read 4096 5 = [1, 2, 3, 4, 0] ∧ t.pkg.inbox = [])) = true := by decide +kernel

/-! ### Supplies, resets and limits -/

/-- The running part with its pins changed. -/
def sPins (f : Pins → Pins) : State := sUp (fun p => { p with pins := f p.pins })

/-- The part with one flash component that awaits activation. -/
def sPend : State := sUp (fun p => { p with flash := vmod p.flash 0 (fun c => { c with pend := true }) })

theorem test_meets_SuppliesAndResets :
    ((sPins id).pkg.pins.vaux = true ∧ (sPins id).pkg.pins.held = false ∧ (sPins id).pkg.pins.coldRst = true ∧ (sPins (fun p => { p with vaux := false })).pkg.pins.vaux = false) ∧
    ((sPins (fun p => { p with coldRst := false })).pkg.pins.pwrOk = true ∧ (sPins (fun p => { p with coldRst := false })).cool = true ∧
      ({ (sPins (fun p => { p with coldRst := false })).pkg.pins with coldRst := true } : Pins).held = false) ∧
    ((sPins (fun p => { p with refclk := false })).pkg.pins.refclk = false ∧ ({ (sPins (fun p => { p with refclk := false })).pkg.pins with refclk := true } : Pins).held = false) ∧
    ((sPins (fun p => { p with pwrOk := false })).pkg.pins.pwrOk = false ∧ ({ (sPins (fun p => { p with pwrOk := false })).pkg.pins with pwrOk := true } : Pins).held = false) ∧
    ((sPins (fun p => { p with vin := false, pwrOk := false })).pkg.pins.vin = false ∧ ({ (sPins (fun p => { p with vin := false })).pkg.pins with vin := true } : Pins).held = false) ∧
    ((sPins id).pkg.level ≠ 0 ∧ (sPins id).pkg.flash.toList.any (fun c => c.pend) = false ∧ sPend.pkg.flash.toList.any (fun c => c.pend) = true ∧ sPend.pkg.level ≠ 0 ∧
      State.reset.pkg.level = 0 ∧ (sPins id).fnUp 0 = true ∧ (State.reset.modPkg (fun p => { p with pcieUp := true })).fnUp 0 = true) := by
  repeat' apply And.intro
  all_goals decide +kernel

/-- The running part with its power state changed. -/
def sPower (f : Power → Power) : State := sUp (fun p => { p with pow := f p.pow })

/-- A die or a core that is resetting. -/
def sDieRst : State := (sUp id).modDie 0 (fun d => { d with resetting := true })
def sCoreRst : State := (sUp id).modCore c0 (fun k => { k with resetting := true })

theorem test_meets_LimitsAndUnitResets :
    ((sPower id).pkg.pow.sag = false ∧ (sPower id).pkg.pins.vaux = true ∧ (sPower (fun p => { p with sag := true })).pkg.pow.sag = true ∧
      (sPower (fun p => { p with hold := true })).pkg.pow.hold = true ∧ (sPower id).pkg.pins.held = false ∧ (sPower id).pkg.level ≠ 0) ∧
    ((sPower id).fnUp 0 = true ∧ (sPower id).hasDie 0 = true ∧ 439 < 440 ∧ ((sPower id).die 0).resetting = false ∧ (((sPower id).dieOwner 0).bind (sPower id).taskOf).isSome = false ∧
      (((sTask .running).dieOwner 0).bind (sTask .running).taskOf).isSome = true) ∧
    ((sDieRst.die 0).resetting = true ∧ (sPower id).pkg.rstGo = false ∧ ((sPower id).core c0).sect.isSome = false ∧ ((sTask .running).core c0).sect.isSome = true ∧
      (sTask .running).pkg.rstGo = false) ∧
    ((sCoreRst.core c0).resetting = true ∧ sCoreRst.mem.wf = true) ∧
    (((sPower id).eccUnit 4096).isSome = true ∧ ((sPower id).eccUnit (clmAddr c0)).isSome = true ∧ (sPower id).ecc.find? (fun m => decide (m.1 = unitOf 4096)) = none) := by
  repeat' apply And.intro
  all_goals decide +kernel

/-- A running part whose flash awaits nothing with a task of partition 0; and one whose interface of partition 0 is locked, an access of it outstanding or not. -/
def sBusyTdi (out : Bool) : State := (if out then sSlot (fun x => { x with out := [xf (rq 64 8192)] }) else sEng).modPkg (fun p => { p with tasks := [task1], sec := { p.sec with tdi := vset p.sec.tdi 0 .locked } })

theorem test_meets_SuppliesAndResets_more :
    ((sTask .running).pkg.level ≠ 0 ∧ (sTask .running).pkg.flash.toList.any (fun c => c.pend) = false ∧ (sTask .running).pkg.loads = [] ∧ (sTask .running).mem.wf = true ∧
      (sTask .running).taskOf 0 = some task1) ∧
    (∀ b ∈ [false, true], (sBusyTdi b).tdi 0 = .locked ∧ (sBusyTdi b).noAccess 0 = !b) ∧
    ((sUp id).pkg.healthFatal = false ∧ (sUp id).region 4096 = .tierN 4096 ∧ ((sUp id).eccUnit 4096).isSome = true) := by
  repeat' apply And.intro
  all_goals decide +kernel

/-- The loss of VAUX lets the open-drain outputs go (R545); an error in the memory of the PKC is fatal (R521). -/
theorem test_outputs_off : (nextOr s0 (exec .vauxLoss (sPins (fun p => { p with sagN := false, thermN := false })))).pkg.pins.thermN = true ∧
    (nextOr s0 (exec (.scrub 0 .pkcMemory) (sUp id))).pkg.healthReason = 2 := by decide +kernel

/-- Die 0 of a partition whose LOAD holds it. -/
def sBeing : State := sLoadAt imgDigest false false

theorem test_meets_LimitsAndUnitResets_more :
    (∀ n ∈ fins 8, (sPower id).tdi n ≠ .locked ∧ (sPower id).tdi n ≠ .run) ∧ sLocked.tdi 0 = .locked ∧
    ((sPower id).dieOwner 0 = some 0 ∧ (sPower id).busyPart 0 = false ∧ sBeing.dieOwner 0 = some 0 ∧ sBeing.busyPart 0 = true ∧ (sTask .running).busyPart 0 = true) ∧
    ((State.reset.modCore c0 (fun k => { k with step := 0 })).core c0).step = 0 ∧ ((sPow (fun k => { k with pstate := .gated })).core c0).pstate ≠ .run ∧ ((sTask .running).core c0).pstate = .run ∧
    (sTask .running).pkg.level = 3 ∧ (sTask .running).pkg.pow.hot.getLsbD 0 = false ∧ (sTask .running).pkg.pow.halved = false := by
  repeat' apply And.intro
  all_goals decide +kernel

theorem test_held_die_refuses_its_reset : goes (exec (.dieReset 0) sBeing) (fun t => decide ((t.die 0).resetting = false ∧ t.pkg.loads.length = 1)) = true := by decide +kernel

theorem test_corr_again_strikes : goes (exec (.scrub 4096 .corrAfter) (sPower id)) (fun t => decide (t.ecc = [(4096, .corr)])) = true := by decide +kernel

/-- A sag halves the steps of the example of chapter 17: 32 to 16, 24 to 12 and 28 to 14. -/
theorem test_sag_halves : ∀ p ∈ [(32, 16), (24, 12), (28, 14)], goes (exec (.sag 700) (sUp id |>.modCore c0 (fun k => { k with step := p.1 }))) (fun t => decide ((t.core c0).step = p.2)) = true := by
  decide +kernel

/-! ### Boot, management and security -/

/-- The part at a level with its straps and flash as given. -/
def sBoot (level : BitVec 2) (strap : BitVec 9) (b : Bank) : State :=
  State.reset.modPkg (fun p => { p with level := level, strapStat := strap, pcieUp := true, bootSt := 1, flash := vmod p.flash 0 (fun c => { c with a := b }) })

/-- The part after a flash boot that failed. -/
def sBootFail : State := (sBoot 1 0 ⟨[1], true⟩).modSec (fun k => { k with bootFail := true })

theorem test_failed_boot_stays : goes (exec (.early none) sBootFail) (fun t => decide (t.pkg.level = 1 ∧ t.pkg.sec.bootFail = true)) = true := by decide +kernel

theorem test_meets_Boots :
    ((sBoot 0 0 Bank.empty).pkg.pins.held = false ∧ (sBoot 0 0 Bank.empty).pkg.level = 0 ∧ (sBoot 1 0 Bank.empty).pkg.level ≠ 0) ∧
    (vget (sBoot 1 0 Bank.empty).pkg.sec.meas 1 = zeros 48 ∧ (sBoot 1 0 Bank.empty).pkg.strapStat.getLsbD 2 = false ∧ bootBank (sBoot 1 0 Bank.empty) = none ∧
      (sBoot 1 0 Bank.empty).boardRecord = none) ∧
    (sBootFail.pkg.sec.bootFail = true ∧ sBootFail.pkg.strapStat.getLsbD 2 = false ∧ sBootFail.pkg.pins.held = false ∧ sBootFail.pkg.level = 1 ∧ (sBoot 1 0 Bank.empty).pkg.sec.bootFail = false) ∧
    ((sBoot 2 0 Bank.empty).linksSettled = true ∧ (sNet { upLink with st := .training } id).linksSettled = false) ∧
    ((sBoot 1 4 Bank.empty).fnUp 0 = true ∧ (sBoot 1 4 Bank.empty).pkg.bootSt = 1 ∧ (sBoot 1 4 Bank.empty).pkg.strapStat.getLsbD 2 = true) ∧
    ((sBoot 1 4 Bank.empty).modPkg (fun p => { p with bootSt := 3 })).pkg.bootSt = 3 := by
  repeat' apply And.intro
  all_goals decide +kernel

/-- The part at MGMT whose firmware has been measured, after a failure of training or of the configuration; and one whose pushed component is being checked. -/
def sMeas (tn cfg : Bool) : State := (sBoot 1 0 Bank.empty).modPkg (fun p => { p with tnFail := tn, cfgFail := cfg, sec := { p.sec with meas := vset p.sec.meas 1 [7] } })
def sCheck : State := (sBoot 1 4 Bank.empty).modPkg (fun p => { p with bootSt := 2, bootLen := 0x1000001 })

theorem test_meets_Boots_stages :
    (∀ x ∈ [(false, false), (true, false), (false, true)], (sMeas x.1 x.2).pkg.level = 1 ∧ (sMeas x.1 x.2).pkg.tnFail = x.1 ∧ (sMeas x.1 x.2).pkg.cfgFail = x.2 ∧
      (sMeas x.1 x.2).pkg.sec.bootFail = false ∧ vget (sMeas x.1 x.2).pkg.sec.meas 1 ≠ zeros 48 ∧ (sMeas x.1 x.2).pkg.pins.held = false) ∧
    (sCheck.pending = [] ∧ sCheck.pkg.bootSt = 2 ∧ sCheck.pkg.pins.held = false ∧ HostWrite.isConfig (.numVfs 1) = true ∧ (sBoot 0 0 Bank.empty).pkg.sec.udsLock = false) := by
  repeat' apply And.intro
  all_goals decide +kernel

/-- A configuration request before MGMT is answered to be tried again, a failed boot stays, and a component beyond its window fails (R499, R501, R503). -/
theorem test_boot_stages :
    goes (exec (.registerWrite 0 (.numVfs 1)) (sBoot 0 0 Bank.empty)) (fun t => decide (t.outbox = [.retry 0])) = true ∧
    goes (exec (.early none) (sMeas true false)) (fun t => decide (t.pkg.level = 1)) = true ∧
    goes (step sCheck) (fun t => decide (t.pkg.bootSt = 3 ∧ t.pkg.sec.bootFail = true)) = true := by
  repeat' apply And.intro
  all_goals decide +kernel

/-- Firmware boots where the signature check, an opaque function of Config, accepts it; the witness assumes that answer. -/
theorem test_meets_Boots_firmware (h : (sBoot 1 0 ⟨[1], true⟩).fwPasses [1] = true) : bootBank (sBoot 1 0 ⟨[1], true⟩) = some (⟨[1], true⟩, false) := by
  have e : ((sBoot 1 0 ⟨[1], true⟩).comp 0).banks = [(⟨[1], true⟩, false), (Bank.empty, true)] := by decide +kernel
  rw [bootBank, e]
  exact List.find?_cons_of_pos h

/-- A part with component 3 of one byte. -/
def sRec : State := (sBoot 1 0 ⟨[1], true⟩).modPkg (fun p => { p with flash := vmod p.flash 2 (fun c => { c with a := ⟨[2], true⟩ }) })

/-- A board record is valid where its signature check accepts it and it breaks no rule; the witness assumes both answers. -/
theorem test_meets_Boots_record (h : sRec.compSigned [2] = true) (g : sRec.recordOk (compBody [2]) = true) : sRec.boardRecord = some (compBody [2]) := by
  have e : (sRec.comp 2).banks.map Prod.fst = [⟨[2], true⟩, Bank.empty] := by decide +kernel
  have k : (true && sRec.compSigned [2] && sRec.recordOk (compBody [2])) = true := by rw [h, g]; rfl
  have f : List.find? (fun b : Bank => b.ok && sRec.compSigned b.img && sRec.recordOk (compBody b.img)) [⟨[2], true⟩, Bank.empty] = some ⟨[2], true⟩ :=
    List.find?_cons_of_pos k
  rw [State.boardRecord, e, f]
  rfl

/-- An image longer than the area of its component (R551). -/
theorem test_meets_Manages_area : areaBytes 2 < (List.replicate (areaBytes 2 + 1) (0 : Byte)).length ∧ (zeros 64).length ≤ areaBytes 2 := by
  rw [List.length_replicate]
  decide +kernel

theorem test_meets_Manages :
    (sUp id).pkg.pins.vaux = true ∧ (sUp id).pkg.sec.bootFail = false ∧ (sUp id).dieCount = 8 ∧ (∀ i : Fin 3, (sUp id).updatable i = true) ∧
    ((sUp (fun p => { p with flash := vmod p.flash 1 (fun c => { c with verified := true }) })).pkg.flash.toList.any (fun c => c.verified) = true) ∧
    (sUp id).pkg.flash.toList.any (fun c => c.verified) = false ∧ (sUp id).pkg.fuses.serial.length = 16 := by
  repeat' apply And.intro
  all_goals decide +kernel

/-- The part with its security state changed. -/
def sSec (f : Sec → Sec) : State := sUp (fun p => { p with sec := f p.sec })

/-- The PF with a session and an issued nonce, and an owner. -/
def sOwn (o : Option Owner) : State := sSec (fun x => { x with sessions := [.doe 0, .doe 1], nonce := some [9], nonceFor := some (.doe 0), owner := o })

/-- The owner record of those two keys, with its HMAC and with another. -/
def own0 : Owner := ⟨[1], [2], false, (sOwn none).ownerMac ⟨[1], [2], false, []⟩⟩
def own1 : Owner := { own0 with mac := 0 :: own0.mac }

theorem own0_mac : own0.mac = (sOwn none).ownerMac ⟨[1], [2], false, []⟩ := by rw [own0]

theorem own1_mac : own1.mac = 0 :: own0.mac := by rw [own1]

/-- The HMAC depends on the key and on the record alone, and a record that carries it stands. -/
theorem mac_eq {s t : State} {o p : Owner} (hk : s.pkg.sec.ownerKey = t.pkg.sec.ownerKey) (hb : o.bytes = p.bytes) : s.ownerMac o = t.ownerMac p := by
  rw [State.ownerMac, State.ownerMac, hk, hb]

theorem owner_stands {s : State} {o : Owner} (h : s.pkg.sec.owner = some o) (m : o.mac = s.ownerMac o) : s.owner = some o := by
  rw [State.owner, h, Option.filter_some, decide_eq_true m, if_pos rfl]

theorem test_meets_Requests_owner : (sOwn (some own0)).owner = some own0 ∧ own1.mac ≠ (sOwn (some own1)).ownerMac own1 ∧ (sOwn (some own1)).pkg.sec.owner = some own1 := by
  have e : (sOwn none).ownerMac ⟨[1], [2], false, []⟩ = (sOwn (some own0)).ownerMac own0 := mac_eq (s := sOwn none) (t := sOwn (some own0)) (p := own0) rfl (by simp only [own0, Owner.bytes])
  refine ⟨owner_stands rfl ?_, ?_, rfl⟩
  · rw [own0_mac, e]
  · rw [mac_eq (s := sOwn (some own1)) (t := sOwn none) (o := own1) (p := ⟨[1], [2], false, []⟩) rfl (by simp only [own1, own0, Owner.bytes]), ← own0_mac, own1_mac]
    exact List.cons_ne_self _ _

/-- The part whose debug unlock waited for its tasks, which have ended. -/
def sUnlock : State := (sOwn none).modSec (fun k => { k with unlock := some (.doe 0, 1) })

theorem test_unlock_settles : goes (step sUnlock) (fun t => decide (t.pkg.sec.debug = some 1 ∧ t.pkg.sec.unlock = none ∧ t.pkg.sec.keys = 0)) = true := by decide +kernel

/-- A part with a Rail port that has asked for its session or not. -/
def sPort (asked : Bool) : State := sNet upLink (fun p => { p with ports := vset p.ports 0 ⟨true, 0, false, false, asked⟩ })

/-- The end with the lower part ID asks for the session; a request that the other end sends is refused (R471). -/
theorem test_meets_Requests_rail :
    (∀ b ∈ [false, true], (sPort b).spdmUp (.rail 0) = true ∧ (vget (sPort b).pkg.ports 0).asked = b ∧ ((sPort b).link 0).st = .up) ∧ (sPort false).pkg.partId = 5 ∧
    goes (exec (.keyExchange (.rail 0) 9 ⟨true, true⟩ false) (sPort false)) (fun t => decide ((vget t.pkg.ports 0).session = false ∧ (t.link 0).st = .up)) = true ∧
    goes (exec (.keyExchange (.rail 0) 9 ⟨true, true⟩ false) (sPort true)) (fun t => decide ((vget t.pkg.ports 0).session = true ∧ (t.link 0).st = .keying)) = true := by
  repeat' apply And.intro
  all_goals decide +kernel

theorem test_meets_Requests :
    ((sSec id).spdmUp (.doe 0) = true ∧ (sSec id).spdmUp .sideband = true ∧ (sNet upLink id).spdmUp (.rail 0) = true ∧ portOf 0 = 0 ∧ ((sNet upLink id).link 0).st = .up) ∧
    (reqSees (.doe 0) 3 = true ∧ reqSees (.doe 1) 3 = false ∧ reqSees .sideband 3 = true) ∧
    ((sSec id).vendorOk (.doe 0) = false ∧ (sOwn none).vendorOk (.doe 0) = true ∧ (sOwn none).pkg.sec.nonce = some [9] ∧ (sOwn none).pkg.sec.nonceFor = some (.doe 0) ∧
      (sOwn none).pkg.tasks = [] ∧ (sOwn none).pkg.loads = [] ∧ (sTask .running).pkg.tasks ≠ []) ∧
    (sUnlock.pkg.sec.unlock = some (.doe 0, 1) ∧ sUnlock.pkg.tasks = [] ∧ sUnlock.pkg.loads = []) := by
  repeat' apply And.intro
  all_goals decide +kernel

/-- A debug token for the part's serial number and the nonce `[9]`. -/
def tok : DbgToken := ⟨0x31474244, zeros 16, [9], 1, [1], [2], [3], [4]⟩

/-- The part whose fuses hold two digests of debug keys. -/
def sTok (ec ml : List Byte) : State := (sOwn none).modPkg (fun p => { p with fuses := { p.fuses with dbgEc := ec, dbgMl := ml } })

theorem sTok_keys (ec ml : List Byte) : (sTok ec ml).pkg.fuses.dbgEc = ec ∧ (sTok ec ml).pkg.fuses.dbgMl = ml := ⟨rfl, rfl⟩

theorem sTok_meets (ec ml : List Byte) :
    tok.magic = 0x31474244 ∧ tok.serial = (sTok ec ml).pkg.fuses.serial ∧ (sTok ec ml).pkg.sec.nonce = some tok.nonce ∧ tok.scope.toNat ≤ 1 := ⟨rfl, rfl, rfl, by decide⟩

/-- The token is good where both signature checks, opaque functions of Config, accept it. -/
theorem test_meets_Requests_token
    (h : Config.ecVerify [1] (Config.signedRequest 3 (leBytes 4 tok.magic.toNat ++ tok.serial ++ tok.nonce ++ [tok.scope])) [3] = true)
    (g : Config.mlVerify [2] (Config.signedRequest 3 (leBytes 4 tok.magic.toNat ++ tok.serial ++ tok.nonce ++ [tok.scope])) [4] = true) : (sTok (sha384 tok.ecpub) (sha384 tok.mlpub)).tokenOk tok = true := by
  have b := sTok_meets (sha384 tok.ecpub) (sha384 tok.mlpub)
  have h' : Config.ecVerify tok.ecpub (Config.signedRequest 3 (leBytes 4 tok.magic.toNat ++ tok.serial ++ tok.nonce ++ [tok.scope])) tok.ecsig = true := h
  have g' : Config.mlVerify tok.mlpub (Config.signedRequest 3 (leBytes 4 tok.magic.toNat ++ tok.serial ++ tok.nonce ++ [tok.scope])) tok.mlsig = true := g
  rw [State.tokenOk, h', g', decide_eq_true b.1, decide_eq_true b.2.1, decide_eq_true b.2.2.1, decide_eq_true b.2.2.2, (sTok_keys _ _).1, (sTok_keys _ _).2,
    decide_eq_true ⟨rfl, rfl⟩]
  rfl

/-- VF 0 with a secure IDE stream, and its interface in a state. -/
def sTdi (x : TdiSt) : State := (sOwn none).modPkg (fun p => { p with sec := { p.sec with tdi := vset p.sec.tdi 0 x }, fns := vmod p.fns 1 (fun f => { f with ide := .secure }) })

/-- PART1_MEM of 1 GiB of Tier N beside partition 0. -/
def part1 (en : Bool) : Word := BitVec.ofNat 64 (4 + 5 * 2 ^ 10 + en.toNat * 2 ^ 52)

/-- Partition 0 whose interface is stopping, with its task still there or ended. -/
def sStopIf (t : Bool) : State := (sTdi .run).modPkg (fun p => { p with tasks := if t then [task1] else [], sec := { p.sec with stopping := 1 } })

theorem test_stop_settles : goes (step (sStopIf false)) (fun t => decide (t.tdi 0 = .unlocked ∧ t.pkg.sec.stopping = 0)) = true ∧
    goes (step (sStopIf true)) (fun t => decide (t.tdi 0 = .run ∧ t.pkg.sec.stopping = 1)) = true := by decide +kernel

/-- VF 0 locked with a session and an access of its partition outstanding or not; and one whose keys are dying with a K_SET_STOP to answer. -/
def sKeys (out : Bool) : State := (sBusyTdi out).modPkg (fun p => { p with
  pcieUp := true, numVfs := 2, sec := { p.sec with sessions := [.doe 0, .doe 1] }, fns := vmod p.fns 1 (fun f => { f with ide := .secure }) })
def sDying : State := (sKeys false).modSec (fun k => { k with dying := 1, kstops := [1] })

theorem test_meets_Interfaces_keys :
    (∀ b ∈ [false, true], (sKeys b).tdi 0 = .locked ∧ (sKeys b).noAccess 0 = !b ∧ (sKeys b).fnUp 1 = true ∧ Requester.doe 1 ∈ (sKeys b).pkg.sec.sessions) ∧
    (sDying.pkg.sec.dying.getLsbD 0 = true ∧ sDying.noAccess 0 = true ∧ sDying.pkg.sec.stopping.getLsbD 0 = false ∧ vfFn 0 ∈ sDying.pkg.sec.kstops ∧ sDying.fnUp 1 = true) ∧
    ((sUp id).pkg.pins.vaux = true ∧ (sPins (fun p => { p with vaux := false })).pkg.pins.vaux = false) := by
  repeat' apply And.intro
  all_goals decide +kernel

/-- The answer to a K_SET_STOP waits for the accesses of its partition (R469). -/
theorem test_stop_answer_waits :
    goes (exec (.kSetStop 1) (sKeys true)) (fun t => decide (t.outbox = [] ∧ t.tdi 0 = .locked)) = true ∧ goes (exec (.kSetStop 1) (sKeys false)) (fun t => decide (t.tdi 0 = .error)) = true := by
  repeat' apply And.intro
  all_goals decide +kernel

theorem test_meets_Interfaces :
    ((sTdi .unlocked).fnUp (vfFn 0) = true ∧ (sTdi .unlocked).tdi 0 = .unlocked ∧ ((sTdi .unlocked).fn (vfFn 0)).ide = .secure ∧ (sTdi .unlocked).pkg.sec.debug = none ∧
      (sTdi .unlocked).taskOf 0 = none ∧ (sTdi .locked).tdi 0 = .locked) ∧
    (Requester.doe 1 ∈ (sTdi .unlocked).pkg.sec.sessions ∧ Requester.doe 2 ∉ (sTdi .unlocked).pkg.sec.sessions ∧ (sTdi .unlocked).fnUp 1 = true ∧ (sTdi .unlocked).fnUp 2 = true) ∧
    ((sStopIf true).busyPart 0 = true ∧ (sStopIf false).busyPart 0 = false ∧ (sStopIf false).pkg.sec.stopping.getLsbD 0 = true ∧ (sTdi .run).busyPart 0 = false ∧
      partEn ((sTdi .run).partMem 0) = true ∧ (sTdi .run).mem.wf = true ∧ (sTdi .run).pkg.sec.unlock = none ∧ (∀ m ∈ fins 8, (sTdi .run).pkg.sec.stopping.getLsbD m.val = false)) ∧
    (partEn ((sUp id).partMem 0) = true ∧ (sUp id).pkg.sec.keys.getLsbD 0 = true ∧ (sUp id).partMay 0 (BitVec.setWidth 64 (fld part0 0 53)) = true ∧ part0.getLsbD 52 = true) ∧
    (∀ b ∈ [false, true], (sUp id).partMay 1 (BitVec.setWidth 64 (fld (part1 b) 0 53)) = true ∧ (part1 b).getLsbD 52 = b) ∧ 2 ≤ (sUp id).pkg.level.toNat ∧
    (sUp id).partMay 1 (BitVec.setWidth 64 (fld part0 0 53)) = false := by
  repeat' apply And.intro
  all_goals decide +kernel

/-! ### The block: queue, reset, memory, encodings -/

theorem test_meets_StepRunsFront :
    ({ State.reset with pending := [.stall c0] } : State).pending = [.stall c0] ∧ State.reset.pending = [] ∧ State.reset.pkg.sec.dying = 0 ∧ State.reset.pkg.sec.stopping = 0 ∧
    State.reset.pkg.sec.unlock = none ∧ State.reset.pkg.sec.kstops = [] ∧ State.reset.pkg.bootSt ≠ 2 := by decide +kernel

theorem test_meets_StepRunsFront_none_wait :
    (fins 8).all (fun d => (fins 16).all (fun c => (fins 16).all (fun n => (State.reset.slot ⟨d, c⟩ n).out.all (fun t => !t.ats)))) = true := by decide +kernel

theorem test_meets_MemoryFormKept : (State.reset.mem.wf = true ∧ State.reset.pkg.bootWin.wf = true) ∧ goes (step State.reset) (fun u => u.mem.wf) = true := by decide +kernel

theorem test_meets_DecodeEncode :
    (Instr.arrMm c0 2 ⟨1, 0, true, true, 4, 5, 6, 10, 11, 12, true, 20, true, 21, false⟩).encOk = true ∧
    (Instr.arrMm c0 2 ⟨1, 0, true, true, 4, 5, 6, 10, 11, 12, true, 20, true, 21, false⟩).words = some (0x4051642994B654AA, none) ∧
    decodeG1 c0 0x4051642994B654AA none = some (.arrMm c0 2 ⟨1, 0, true, true, 4, 5, 6, 10, 11, 12, true, 20, true, 21, false⟩) := by decide +kernel

/-- A word of every class but ARR, each written from the layout of chapter 12 and the opcode of its row: `halt`, `add`, `ld`, `str.rate`, `jct.drain`, `v.ld`, `q.pop` and `skt.select`. -/
theorem test_decode_words :
    decodeG1 c0 0x0140000000000000 none = some (.halt c0 0 zz) ∧ decodeG1 c0 0x1000088600000000 none = some (.add c0 0 rr) ∧
    decodeG1 c0 0x200008B400000010 none = some (.ld c0 0 { ml 2 with imm := 16 } .failed 0) ∧
    decodeG1 c0 0x3200218000000000 none = some (.strRate c0 0 { lso with src := 3 }) ∧
    decodeG1 c0 0x5100020000324500 none = some (.jctDrain c0 0 ⟨0, 0, 2, 0, 0, 3, 4, true, 5⟩) ∧
    decodeG1 c0 0x6240410C00000000 none = some (.vLd c0 0 (lv 4 2 3 0)) ∧ decodeG1 c0 0x7640800000000008 none = some (.qPop c0 0 ⟨2, false, false, 0, 1⟩) ∧
    decodeG1 c0 0x80400000C0004500 none = some (.sktSelect c0 0 ⟨0, 0, 0, 3, false, 0, 0, 0, true, 5⟩) := by
  repeat' apply And.intro
  all_goals decide +kernel

/-- The opcode table gives its rows no bits, so no word spells a command, and the queue stands. -/
theorem test_table_words : decodeTableWord 64 0x0140000000000000 = none ∧ State.reset.withFetchWord 64 0x0140000000000000 = State.reset := ⟨rfl, rfl⟩

/-- The owner's authority with a nonce of `n` bytes and empty signatures. -/
def noAuth (n : Nat) : OwnerAuth := ⟨List.replicate n 0, [], []⟩

/-- One ill-formed term for each check of `Instr.wf` over the core, the host and the page machinery. -/
theorem test_ill_formed_host :
    (Instr.sktSelect c0 0 (lk 1 0)).wf = false ∧ (Instr.transferDeliver c0 0 0 [1] .failed).wf = false ∧ (Instr.prgResponse 0 512 true).wf = false ∧
    (Instr.atsTranslationComplete 0 ⟨4096, 0⟩ 0 true true).wf = false ∧ (Instr.atsTranslationComplete 0 ⟨8192, 4096⟩ 8192 true true).wf = false ∧ (Instr.atsInvalidate 0 4096 8192 0).wf = false ∧
    (Instr.submissionFetch 0 [0]).wf = false ∧ (Instr.hostBar2Write 0 0 [] false).wf = false ∧ (Instr.hostBar2Read 0 0 0).wf = false ∧
    (Instr.registerWrite 0 (.bar0 8 0 0)).wf = false ∧ (Instr.registerWrite 0 (.bar0 8 4 0x100000000)).wf = false ∧ (Instr.registerWrite 0 (.bar0Read 8 9)).wf = false ∧ (Instr.registerWrite 0 (.prAlloc 0x100000000)).wf = false ∧
    (Instr.registerWrite 0 (.numVfs 9)).wf = false ∧ (Instr.registerWrite 0 (.bar2Size 29)).wf = false := by
  repeat' apply And.intro
  all_goals decide +kernel

/-- One ill-formed term for each check of `Instr.wf` over the scheduler, the rails, power and security. -/
theorem test_ill_formed_package :
    (Instr.workListReceive ⟨0, 0, 0, 0, 0, 0, 0, 0, [0], 0⟩).wf = false ∧ (Instr.carReceive 0 ⟨1, false⟩ [0]).wf = false ∧ (Instr.powerControlStep ⟨65536, 0, none⟩).wf = false ∧
    (Instr.getMeasurements .sideband 0 [0]).wf = false ∧ (Instr.challenge .sideband [0]).wf = false ∧ (Instr.lockInterface 0 [0]).wf = false ∧
    (Instr.setOwner .sideband [0] []).wf = false ∧ (Instr.changeOwner .sideband [0] [] (noAuth 32)).wf = false ∧ (Instr.setPolicy .sideband true (noAuth 32)).wf = false ∧
    (Instr.clearOwner .sideband (noAuth 31)).wf = false ∧ (Instr.unlockDebug .sideband ⟨0, [0], [], 0, [], [], [], []⟩).wf = false := by
  repeat' apply And.intro
  all_goals decide +kernel

theorem test_step_serves_front : goes (step { State.reset with pending := [.setEndpointId 9, .rstdaa] }) (fun u => decide (u.pkg.eid = 9 ∧ u.pending = [.rstdaa])) = true := by decide +kernel

theorem test_idle_counts : goes (step State.reset) (fun u => decide (u.pkg.aclk = 1)) = true := by decide +kernel

end Sys2Proof.Tests
end

section
/-! PROOF. A false predicate (R19): every instruction that the decoder names has its meaning as one issue under its own core and predicate, and an issue under a predicate that reads false only advances the PC. -/

namespace Sys2Proof.Machine

open Sys2Proof.Claims

/-- An instruction whose predicate is settled and reads false is passed, whatever its own condition and effect are (R19). -/
theorem State.issue_skips {s : State} {i : Instr} {c : CoreId} {p : Fin 8} (may : State → Bool) (f : State → State)
    (die : s.hasDie c.die = true) (ready : (s.core c).ready = true)
    (clean : ∀ m ∈ s.ecc, unitHit [(clmAddr c + (s.core c).pc.toNat, 8 * iwords i)] m.1 = false)
    (settled : p = 0 ∨ (s.pendingP c).contains p = false) (pred : (s.core c).getP p = false) :
    s.issue i c p may f = .next (s.advance c (iwords i)) := by
  have hp : ¬(p ≠ 0 ∧ (s.pendingP c).contains p = true) := fun ⟨hne, hc⟩ =>
    settled.elim hne (fun h => Bool.false_ne_true (h.symm.trans hc))
  simp only [State.issue, die, ready, Bool.not_true, Bool.false_eq_true, if_false, State.eccRead_clean s _ clean, hp, pred, Bool.not_false, if_true]

/-- Where control runs straight on, the advance of the PC is all that an instruction without effect does. -/
theorem State.advance_straight {s : State} {c : CoreId} {n : Nat} (h : Straight s c n) : s.advance c n = after s c n id :=
  State.advance_plain h.1 h.2

/-- The meaning of an instruction is one issue on core `c` under predicate `p`. -/
def Issues (i : Instr) (c : CoreId) (p : Fin 8) : Prop := ∀ s, ∃ may f, exec i s = s.issue i c p may f

/-! ### Every decoded instruction issues

One lemma for each class of chapter 12, split along the opcodes of the reader in its order. -/

section
variable {c : CoreId} {p : Fin 8} {op n : Nat} {x : Option Word} {i : Instr}

/-- The issue of the junction tile commands is an issue. -/
theorem Issues.of_issueJm {o : JOp} {l : LayP} {d : LayD} (h : ∀ s, exec i s = s.issueJm i c p o l d) : Issues i c p :=
  fun s => ⟨_, _, h s⟩

/-- The issue of the vector commands is an issue. -/
theorem Issues.of_issueV {o : VOp} {l : LayV} (h : ∀ s, exec i s = s.issueV i c p o l) : Issues i c p :=
  fun s => ⟨_, _, h s⟩

theorem issues_of_control (h : readG1 c p 0 op n x = some i) : Issues i c p := by
  simp only [readG1] at h
  split at h
  case h_8 =>
    split at h <;> cases h
    · exact fun _ => ⟨_, _, exec_fenceKSem⟩
    · exact fun _ => ⟨_, _, exec_fenceKDrain⟩
  case h_9 =>
    split at h
    · obtain ⟨cc, -, rfl⟩ := Option.map_eq_some_iff.mp h
      exact fun _ => ⟨_, _, exec_br⟩
    · cases h
  all_goals cases h
  exacts [fun _ => ⟨_, _, exec_nop⟩, fun _ => ⟨_, _, exec_jmp⟩, fun _ => ⟨_, _, exec_call⟩, fun _ => ⟨_, _, exec_ret⟩,
    fun _ => ⟨_, _, exec_loop⟩, fun _ => ⟨_, _, exec_halt⟩, fun _ => ⟨_, _, exec_trap⟩]

theorem issues_of_alu (h : readG1 c p 1 op n x = some i) : Issues i c p := by
  simp only [readG1] at h
  split at h
  case h_14 =>
    split at h
    · obtain ⟨cc, -, rfl⟩ := Option.map_eq_some_iff.mp h
      exact fun _ => ⟨_, _, exec_cmp⟩
    · cases h
  all_goals cases h
  exacts [fun _ => ⟨_, _, exec_add⟩, fun _ => ⟨_, _, exec_sub⟩, fun _ => ⟨_, _, exec_mul⟩, fun _ => ⟨_, _, exec_and⟩,
    fun _ => ⟨_, _, exec_or⟩, fun _ => ⟨_, _, exec_xor⟩, fun _ => ⟨_, _, exec_shl⟩, fun _ => ⟨_, _, exec_shr⟩, fun _ => ⟨_, _, exec_sar⟩,
    fun _ => ⟨_, _, exec_min⟩, fun _ => ⟨_, _, exec_max⟩, fun _ => ⟨_, _, exec_sel⟩, fun _ => ⟨_, _, exec_li⟩]

theorem issues_of_scalarMemory (h : readG1 c p 2 op n x = some i) : Issues i c p := by
  simp only [readG1] at h
  split at h
  all_goals cases h
  exacts [fun _ => ⟨_, _, exec_st⟩, fun _ => ⟨_, _, exec_csrRd⟩, fun _ => ⟨_, _, exec_csrWr⟩, fun _ => ⟨_, _, exec_lgSet⟩,
    fun _ => ⟨_, _, exec_lgMod⟩, fun _ => ⟨_, _, exec_lgView⟩, fun _ => ⟨_, _, exec_ld⟩]

theorem issues_of_stream (h : readG1 c p 3 op n x = some i) : Issues i c p := by
  simp only [readG1] at h
  split at h
  case h_7 =>
    obtain ⟨x, -, rfl⟩ := Option.map_eq_some_iff.mp h
    exact fun _ => ⟨_, _, exec_strMcast⟩
  all_goals cases h
  exacts [fun _ => ⟨_, _, exec_strRate⟩, fun _ => ⟨_, _, exec_strResume⟩, fun _ => ⟨_, _, exec_strAbort⟩, fun _ => ⟨_, _, exec_strLoad⟩,
    fun _ => ⟨_, _, exec_strStore⟩, fun _ => ⟨_, _, exec_strGather⟩]

theorem issues_of_array (h : readG1 c p 4 op n x = some i) : Issues i c p := by
  simp only [readG1] at h
  split at h
  case h_3 =>
    split at h <;> cases h
    · exact fun _ => ⟨_, _, exec_arrDrainPlain⟩
    · exact fun _ => ⟨_, _, exec_arrDrainExw⟩
    · exact fun _ => ⟨_, _, exec_arrDrainExwAdd⟩
  all_goals cases h
  exacts [fun _ => ⟨_, _, exec_arrCfg⟩, fun _ => ⟨_, _, exec_arrMm⟩, fun _ => ⟨_, _, exec_arrSave⟩, fun _ => ⟨_, _, exec_arrLoad⟩]

theorem issues_of_junction (h : readG1 c p 5 op n x = some i) : Issues i c p := by
  simp only [readG1] at h
  split at h
  case h_3 =>
    obtain ⟨d, -, rfl⟩ := Option.map_eq_some_iff.mp h
    exact .of_issueJm (fun _ => exec_jctSpmm)
  case h_4 =>
    obtain ⟨d, -, rfl⟩ := Option.map_eq_some_iff.mp h
    exact .of_issueJm (fun _ => exec_jctSpdot)
  case h_5 =>
    obtain ⟨d, -, rfl⟩ := Option.map_eq_some_iff.mp h
    exact .of_issueJm (fun _ => exec_jctBag)
  all_goals cases h
  exacts [fun _ => ⟨_, _, exec_jctRoute⟩, fun _ => ⟨_, _, exec_jctDrain⟩]

theorem issues_of_vector (h : readG1 c p 6 op n x = some i) : Issues i c p := by
  simp only [readG1] at h
  split at h
  all_goals cases h
  exacts [.of_issueV (fun _ => exec_vAdd), .of_issueV (fun _ => exec_vMul), .of_issueV (fun _ => exec_vFma), .of_issueV (fun _ => exec_vMax),
    .of_issueV (fun _ => exec_vExp), .of_issueV (fun _ => exec_vRsqrt), .of_issueV (fun _ => exec_vCvt), .of_issueV (fun _ => exec_vReduce),
    .of_issueV (fun _ => exec_vNorm2), .of_issueV (fun _ => exec_vLd), .of_issueV (fun _ => exec_vSt)]

theorem issues_of_sync (h : readG1 c p 7 op n x = some i) : Issues i c p := by
  simp only [readG1] at h
  split at h
  case h_9 =>
    split at h <;> cases h
    · exact fun _ => ⟨_, _, exec_dspSetLimit⟩
    · exact fun _ => ⟨_, _, exec_dspSetNext⟩
    · exact fun _ => ⟨_, _, exec_dspSetRetire⟩
  all_goals cases h
  exacts [fun _ => ⟨_, _, exec_semAdd⟩, fun _ => ⟨_, _, exec_semSub⟩, fun _ => ⟨_, _, exec_semWait⟩, fun _ => ⟨_, _, exec_semTake⟩,
    fun _ => ⟨_, _, exec_semRead⟩, fun _ => ⟨_, _, exec_barArrive⟩, fun _ => ⟨_, _, exec_barWait⟩, fun _ => ⟨_, _, exec_dspTake⟩,
    fun _ => ⟨_, _, exec_qPush⟩, fun _ => ⟨_, _, exec_qPop⟩]

theorem issues_of_sketch (h : readG1 c p 8 op n x = some i) : Issues i c p := by
  simp only [readG1] at h
  split at h
  all_goals cases h
  exacts [fun _ => ⟨_, _, exec_sktPass⟩, fun _ => ⟨_, _, exec_sktSelect⟩, fun _ => ⟨_, _, exec_sktAudit⟩]

/-- Whatever the reader names issues on the core and under the predicate that it was read with; it names nothing outside classes 0 to 8. -/
theorem issues_of_readG1 {cls : Nat} (h : readG1 c p cls op n x = some i) : Issues i c p := by
  match cls with
  | 0 => exact issues_of_control h
  | 1 => exact issues_of_alu h
  | 2 => exact issues_of_scalarMemory h
  | 3 => exact issues_of_stream h
  | 4 => exact issues_of_array h
  | 5 => exact issues_of_junction h
  | 6 => exact issues_of_vector h
  | 7 => exact issues_of_sync h
  | 8 => exact issues_of_sketch h
  | _ + 9 => cases h

end

/-- Settles O22: a decoded instruction issues, an issue under a false predicate advances the PC only, and `p0` reads true. -/
theorem falsePredicates : Obligations.FalsePredicates := by
  refine ⟨fun s c p cls op n x i hread die ready clean settled pred straight => ?_, Core.getP_zero⟩
  obtain ⟨may, f, hexec⟩ := issues_of_readG1 hread s
  calc exec i s = s.issue i c p may f := hexec
    _ = .next (s.advance c (iwords i)) := State.issue_skips may f die ready clean settled pred
    _ = .next (after s c (iwords i) id) := by rw [State.advance_straight straight]

end Sys2Proof.Machine
end

section
/-! PROOF. The ALU instructions (R343): a free one whose effect is a register write, where control runs straight on, ends in that write and the advance of the PC; what remains is to read each operation off the model's own. -/

namespace Sys2Proof.Machine

open Sys2Proof.Claims

/-- The two ways to say that nothing stands in the way of an instruction. -/
theorem State.Free.of_claim {s : State} {i : Instr} {c : CoreId} {p : Fin 8} (h : Claims.Free s i c p) : s.Free i c p := by
  obtain ⟨die, ready, clean, pred, settled, enc, paid⟩ := h
  exact { die, ready, clean, pred, settled, enc, paid }

/-! ### Register writes where control runs straight on -/

@[simp] theorem Core.setG_textLen (k : Core) (r : Fin 32) (v : Word) : (k.setG r v).textLen = k.textLen := by simp [Core.textLen]
@[simp] theorem Core.setP_textLen (k : Core) (r : Fin 8) (v : Bool) : (k.setP r v).textLen = k.textLen := by simp [Core.textLen]

section
variable {s : State} {c : CoreId} {n : Nat}

/-- A change of the core that leaves its PC, its loops and its text does not bend the way of control. -/
theorem State.advance_modCore {f : Core → Core} (straight : Straight s c n) (pc : (f (s.core c)).pc = (s.core c).pc)
    (loops : (f (s.core c)).loops = (s.core c).loops) (text : (f (s.core c)).textLen = (s.core c).textLen) :
    (s.modCore c f).advance c n = after s c n f := by
  have straight' : Straight (s.modCore c f) c n := by simpa only [Straight, State.core_modCore, pc, loops, text] using straight
  rw [State.advance_straight straight']
  simp only [after, State.modCore, State.core_setCore, State.setCore_setCore, id, pc]

theorem State.setRd_straight (straight : Straight s c n) (r : Fin 32) (v : Word) : s.setRd c r v n = after s c n (fun k => k.setG r v) :=
  State.advance_modCore straight (Core.setG_pc ..) (Core.setG_loops ..) (Core.setG_textLen ..)

theorem State.setPd_straight (straight : Straight s c n) (r : Fin 8) (v : Bool) :
    (s.modCore c (fun k => k.setP r v)).advance c n = after s c n (fun k => k.setP r v) :=
  State.advance_modCore straight (Core.setP_pc ..) (Core.setP_loops ..) (Core.setP_textLen ..)

/-- `after` depends on the change only through what it makes of the core at hand. -/
theorem after_congr {f g : Core → Core} (h : f (s.core c) = g (s.core c)) : after s c n f = after s c n g := by
  simp only [after, State.modCore, h]

/-- A free instruction whose effect is a write of `rd` makes it, with the value that the state gives, and advances. -/
theorem State.issue_setRd {i : Instr} {p : Fin 8} (straight : Straight s c n) (free : Claims.Free s i c p) (r : Fin 32) (v : State → Word) :
    s.issue i c p always (fun s => s.setRd c r (v s) n) = .next (after s c n (fun k => k.setG r (v s))) := by
  rw [State.issue_free (.of_claim free) rfl, State.setRd_straight straight]

/-- A two-operand instruction writes the value of its operation. -/
theorem State.issue_alu {i : Instr} {p : Fin 8} {l : LayA} (straight : Straight s c 1) (free : Claims.Free s i c p) (f : Word → Word → Word) :
    s.issue i c p always (fun s => s.alu c l f) =
      .next (after s c 1 (fun k => k.setG l.rd (f ((s.core c).getG l.ra) (opB (s.core c) l)))) :=
  State.issue_setRd straight free l.rd (fun s => f ((s.core c).getG l.ra) (opB (s.core c) l))

end

/-! ### The operations, as numbers -/

/-- The six low bits of a shift count (R343). -/
theorem fldN_low6 (b : Word) : fldN b 0 6 = b.toNat % 64 := by simp [fldN]

/-- The field of IMM that names the predicate of `sel` (R343). -/
theorem fldN_high3 (w : BitVec 32) : fldN w 29 3 = w.toNat / 2 ^ 29 := by
  have := w.isLt
  simp only [fldN, BitVec.extractLsb'_toNat, Nat.shiftRight_eq_div_pow]
  omega

/-- The choice of `min` and `max`, unsigned or signed as U selects (R343). -/
theorem ite_ult_or_slt {α : Type} (u : Bool) (a b : Word) (x y : α) :
    (if (if u then a.ult b else a.slt b) then x else y) =
      if u then (if a.toNat < b.toNat then x else y) else (if a.toInt < b.toInt then x else y) := by
  cases u
  · simp only [Bool.false_eq_true, if_false, BitVec.slt_iff_toInt_lt]
  · simp only [if_true, BitVec.ult_iff_toNat_lt]

theorem not_decide_lt {α : Type} [LinearOrder α] (x y : α) : (!decide (x < y)) = decide (y ≤ x) := by
  rw [← decide_not, decide_eq_decide, not_lt]

theorem not_decide_le {α : Type} [LinearOrder α] (x y : α) : (!decide (x ≤ y)) = decide (y < x) := by
  rw [← decide_not, decide_eq_decide, not_le]

/-- What each condition code tests (ch. 12). -/
theorem holds_conditions (a b : Word) :
    (holds .eq a b = decide (a = b)) ∧ (holds .ne a b = decide (a ≠ b)) ∧
    (holds .lt a b = decide (a.toInt < b.toInt)) ∧ (holds .ge a b = decide (b.toInt ≤ a.toInt)) ∧
    (holds .le a b = decide (a.toInt ≤ b.toInt)) ∧ (holds .gt a b = decide (b.toInt < a.toInt)) ∧
    (holds .ltu a b = decide (a.toNat < b.toNat)) ∧ (holds .geu a b = decide (b.toNat ≤ a.toNat)) ∧
    (holds .leu a b = decide (a.toNat ≤ b.toNat)) ∧ (holds .gtu a b = decide (b.toNat < a.toNat)) :=
  ⟨rfl, rfl, rfl, not_decide_lt .., rfl, not_decide_le .., rfl, not_decide_lt .., rfl, not_decide_le ..⟩

/-! ### The two parts of the obligation -/

/-- Each two-operand instruction is the shared issue at its own operation; the shifts and `min`, `max` are then read as numbers. -/
theorem twoOperandAlu : Claims.TwoOperandAlu := by
  intro s c p l straight
  refine ⟨fun h => ?add, fun h => ?sub, fun h => ?mul, fun h => ?and, fun h => ?or, fun h => ?xor, fun h => ?shl, fun h => ?shr,
    fun h => ?sar, fun h => ?min, fun h => ?max⟩
  case add => exact exec_add.trans (State.issue_alu straight h _)
  case sub => exact exec_sub.trans (State.issue_alu straight h _)
  case mul => exact exec_mul.trans (State.issue_alu straight h _)
  case and => exact exec_and.trans (State.issue_alu straight h _)
  case or => exact exec_or.trans (State.issue_alu straight h _)
  case xor => exact exec_xor.trans (State.issue_alu straight h _)
  case shl => rw [← fldN_low6]; exact exec_shl.trans (State.issue_alu straight h _)
  case shr => rw [← fldN_low6]; exact exec_shr.trans (State.issue_alu straight h _)
  case sar => rw [← fldN_low6]; exact exec_sar.trans (State.issue_alu straight h _)
  case min => rw [← ite_ult_or_slt]; exact exec_min.trans (State.issue_alu straight h _)
  case max => rw [← ite_ult_or_slt]; exact exec_max.trans (State.issue_alu straight h _)

/-- The model reads the operands of `sel` and `cmp` before the write and the statement within it: the same core, by `after_congr`. -/
theorem moveSelectCompare : Claims.MoveSelectCompare := by
  refine ⟨fun s c p l => ⟨fun straight h => ?nop, fun straight h => ?li, fun x straight h => ?liExt, fun straight h => ?sel,
    fun cc straight h => ?cmp⟩, holds_conditions⟩
  case nop =>
    rw [exec_nop, execNop, State.issue_free (.of_claim h) rfl, State.advance_straight straight]
  case li => exact exec_li.trans (State.issue_setRd straight h l.rd (fun _ => l.imm.signExtend 64))
  case liExt => exact exec_li.trans (State.issue_setRd straight h l.rd (fun _ => x))
  case sel =>
    calc exec (.sel c p l) s = .next (after s c 1 _) := exec_sel.trans (State.issue_setRd straight h l.rd _)
      _ = _ := by rw [fldN_high3]; exact congrArg _ (after_congr rfl)
  case cmp =>
    rw [exec_cmp, execCmp, State.issue_free (.of_claim h) rfl, State.setPd_straight straight]
    exact congrArg _ (after_congr rfl)

/-- Settles O1: each part is proved above. -/
theorem aluResults : Obligations.AluResults := ⟨twoOperandAlu, moveSelectCompare⟩

end Sys2Proof.Machine
end
